-- ==== Sys2Proof/Word.lean ====
section
/-! DEFINITION. The word types of the NDC-7128 and the plain bit-field arithmetic on their numbers (R3, R6). -/

namespace Sys2Proof

/-- A byte of memory. -/
abbrev Byte := BitVec 8
/-- A register word (all registers are 32 bits wide). -/
abbrev Word := BitVec 32
/-- A 64-bit value: a general register of a sequencer, a Sidereal time, a memory word. -/
abbrev DWord := BitVec 64

end Sys2Proof
end

