-- ==== Sys2Proof/Types.lean ====
section
/-! DEFINITION. The types of the commands' operands, and the decoded form of an Atcia instruction (R57, R61). -/

namespace Sys2Proof

/-- A PCIe function: 0 the PF, k VF k (R318). -/
abbrev FnId := Fin 32
/-- A head, its port or its frame sequencer (R1). -/
abbrev HeadId := Fin 128
/-- A sequencer: n < 32 is `CP`n, 32 + m is `FSQ`m (R332). -/
abbrev SeqId := Fin 160
/-- A composition pipe (R1). -/
abbrev PipeId := Fin 36
/-- A plate of the Plate Store (R1). -/
abbrev PlateId := Fin 32
/-- A clock island (R10). -/
abbrev IslandId := Fin 70
/-- A memory controller (R1). -/
abbrev McId := Fin 16
/-- A layer slot or an ingest stream (R1). -/
abbrev SlotId := Fin 4096
/-- A sync group (R27). -/
abbrev GroupId := Fin 32
/-- A DMA channel (R1). -/
abbrev ChanId := Fin 64
/-- A Clock Drive (R1). -/
abbrev DriveId := Fin 9
/-- A quadrant of the Plate Store, and its march engine (R10). -/
abbrev QuadrantId := Fin 4
/-- A local or host-window page (R93). -/
abbrev PageId := Fin 131072
/-- A frame-store address (R93). -/
abbrev FsAddr := BitVec 37

/-- How a read that has left its unit comes back: the data (for a local or register read the model reads its own state
and takes no data from here), or one of the failures of R101 and R322. -/
inductive ReadResult
  | data (bytes : List Byte)
  | uncorrectable
  | unsupported
  | poisoned
  | timeout
  | crossingLost
deriving DecidableEq, Repr

/-- What ECC finds in a word read (R100, R101): nothing; an error within one byte, corrected; an error of two bytes or more,
detected; or an error of four bytes or more that the code takes for one within another byte and miscorrects. -/
inductive Ecc | clean | corrected | uncorrectable | miscorrected
deriving DecidableEq, Repr

/-- Who made a host read that times out (R322): the fetch engine, a sequencer, a command ring or a DMA channel. -/
inductive Requester
  | fetch (id : Nat) | seq (q : SeqId) | ring (n : FnId) | dma (c : ChanId)
deriving DecidableEq, Repr

/-- A transfer on a handshake channel between islands that a lost parity can name (R12). -/
inductive Transfer
  /-- A host write of the register at an offset of function `fn`'s own view; `r` and `raced` as of `REGISTER_WRITE`. -/
  | hostWrite (fn : FnId) (off : BitVec 24) (v : Word) (r : ReadResult) (raced : Word)
  /-- A host read of `len` bytes of that view. -/
  | hostRead (fn : FnId) (off : BitVec 24) (len : Fin 65)
  /-- The load of sequencer `q`; its oldest store; a read request of the fetch engine; any other transfer. -/
  | seqLoad (q : SeqId)
  | seqStore (q : SeqId)
  | fetchRead (tag : Fin 131072)
  | other
deriving DecidableEq, Repr

/-- A partition register (R319). -/
inductive PartReg
  | head (h : HeadId) | layers (f : FnId) | streams (f : FnId) | dmaLo (f : FnId) | dmaHi (f : FnId)
deriving DecidableEq, Repr

/-- A configuration request (R315, R316, R318, R321, R322). -/
inductive CfgAccess
  /-- A read, or a write of a register to which the spec gives no effect. -/
  | other
  /-- Bus Master Enable and Memory Space Enable of the Command register. -/
  | command (busMaster memory : Bool)
  /-- The D-state and PME Enable. -/
  | power (d : Fin 4) (pme : Bool)
  /-- MSI-X Enable and Function Mask. -/
  | msix (enable mask : Bool)
  /-- The Completion Timeout Value of Device Control 2. -/
  | timeout (code : Fin 16)
  /-- Max_Read_Request_Size, 128 × 2^`code` bytes; the Uncorrectable Error Severity register; ASPM L1 with L1.1 and L1.2, on the PF. -/
  | readSize (code : Fin 6)
  | severity (v : Word)
  | aspm (l1 l11 l12 : Bool)
  /-- SR-IOV, on the PF: VF Enable, VF Memory Space Enable, ARI Capable Hierarchy; NumVFs. -/
  | sriov (enable memory ari : Bool)
  | numVfs (n : BitVec 16)
deriving DecidableEq, Repr

/-- A request over the DOE mailbox (R329): discovery, SPDM, secured SPDM, or IDE_KM that keys a stream for the functions
`first` to `last` and the host address ranges (base, length) bound to it, or stops it. -/
inductive DoeReq
  | discovery | spdm | secured
  | keyStream (k : Fin 4) (first last : FnId) (ranges : List (Nat × Nat))
  | stopStream (k : Fin 4)
deriving DecidableEq, Repr

/-- Why an inbound request is completed with Unsupported Request (R323, R328, R392). -/
inductive BadRequest | atomicOp | outsideBar | disabledFunction | ideRequired | longRead
deriving DecidableEq, Repr

/-- A Safe Station command over SMBus (R378). -/
structure SmBus where
  opcode : BitVec 8
  tag : BitVec 8
  arg0 : Word
  arg1 : Word
  data : List Byte
deriving DecidableEq, Repr

/-- A POST failure as the failure record states it (R376). -/
structure PostFail where
  stage : Fin 16
  cause : BitVec 8
  unit_ : BitVec 7
  detail : Word
deriving DecidableEq, Repr

/-- What the boot ROM finds of a firmware image (R371): it bears a good signature of the key in fuses, with a version and a rollback
index; a bad signature; or it cannot be read. -/
inductive ImageCheck
  | authentic (version : BitVec 16) (rollback : BitVec 8)
  | badSignature
  | readError
deriving DecidableEq, Repr

/-- Why an image does not pass (R371, R376): 1 signature, 2 rollback, 3 read error; 0 when it passes. -/
def ImageCheck.cause (counter : Nat) : ImageCheck → Nat
  | .authentic _ n => if n.toNat < counter then 2 else 0
  | .badSignature => 1
  | .readError => 3

/-- The two-copy regions of board flash besides the board configuration (R369): repair record, retirement list, substitution record,
counters. -/
inductive FlashRegion | repair | retirement | substitution | counters
deriving DecidableEq, Repr

/-- What the stages of a full POST find (R368 to R373): the stages that fail, but for stage 3, which follows from the two images; the
images; the regions of flash of which neither copy is valid; the memory configuration; quad modes and drive limits of the board
configuration; what POST found and repaired, in the kinds of the flash log. -/
structure PostReport where
  failures : List PostFail
  imageA : ImageCheck
  imageB : ImageCheck
  lost : List FlashRegion
  density : Bool
  clamshell : Bool
  ecc : Bool
  rate : BitVec 5
  quads : List (Fin 32 × Fin 3)
  fmax : List (DriveId × BitVec 20)
  /-- Repairs in the fuses (R130): a column or a row, and its site + 64 × bank + 1,024 × row. -/
  fused : List (Bool × Nat)
  found : List (Fin 16 × Nat)
deriving DecidableEq, Repr

/-- The units that reach the plates, each on a lane of its owner's port (R116). -/
inductive PlateUnit
  | pipe (p : PipeId) | fetchReturn (cluster : Fin 4)
  | dmaLevel (l : Fin 4) | writeback
  | ingestWrite | ingestDrain
  | stationCore (k : Fin 2) | signing
  | march | copy
  | photometer (p : PipeId) | journal
deriving DecidableEq, Repr

/-- The owner code of a unit (R115, R116). -/
def PlateUnit.owner : PlateUnit → Nat
  | .pipe p => p.val / 9 + 1
  | .fetchReturn c => c.val + 1
  | .dmaLevel _ | .writeback => 5
  | .ingestWrite | .ingestDrain => 6
  | .stationCore _ | .signing => 7
  | .march | .copy => 8
  | .photometer _ | .journal => 9

/-- The lane of a unit in its owner's port (R116). -/
def PlateUnit.lane : PlateUnit → Nat
  | .pipe p => p.val % 9
  | .fetchReturn _ => 9
  | .dmaLevel l => l.val
  | .writeback => 4
  | .ingestWrite => 0
  | .ingestDrain => 1
  | .stationCore k => k.val
  | .signing => 2
  | .march => 0
  | .copy => 1
  | .photometer p => p.val
  | .journal => 36

/-- One access to a word of a plate by a unit (R116 to R118), and the bytes that a write enables, by offset; none for a read. -/
structure PlateUse where
  unit_ : PlateUnit
  bytes : Option (List (Fin 64 × Byte))
deriving DecidableEq, Repr
/-- Owner code and lane of an access. -/
def PlateUse.owner (u : PlateUse) : Nat := u.unit_.owner
def PlateUse.lane (u : PlateUse) : Nat := u.unit_.lane

/-- What reaches the block beside the words of a BAR0 write: what a slot descriptor read over PCI Express returns (for a write of
`ING_OPEN`), and by word the bits that hardware updates in the same island cycle (R8). -/
structure WriteSide where
  read : ReadResult
  raced : List Word
deriving DecidableEq, Repr

/-- A word of a layer that a pipe reads from its landing, and what ECC finds in it (R114, R138). -/
structure WordRead where
  word : Nat
  found : Ecc
deriving DecidableEq, Repr

/-- The comparator on the lock pin of a drive (R257, R258), and which of the two events of its row comes. -/
structure PinSignal where
  drive : DriveId
  first : Bool
deriving DecidableEq, Repr

/-- What the monitor measures of a reference that it finds good (R264): every period of the last `held` ns has been `period`,
2⁻¹⁶ ns. -/
structure RefSteady where
  period : Nat
  held : Nat
deriving DecidableEq, Repr

/-- What the monitor measures of a reference that it finds lost (R264), in 2⁻¹⁶ ns: no edge has come for `silent`, the last `count`
periods have been `period`. -/
structure RefFault where
  ref : Fin 2
  silent : Nat
  period : Nat
  count : Nat
deriving DecidableEq, Repr

/-- The opcodes of R61. -/
inductive Op
  | nop | jmp | jcc | call | ret | loop | halt | waitev | waitln | signal | stamp | fence
  | addi | and | or | xor | shl | shr | cmp | ldw | stw | atom
  | lset | lcopy | hset | cset | gset | sigdef | sigexp | dmakick | check | commit | abort
deriving DecidableEq, Repr

/-- A decoded Atcia instruction: the fields of R57, and the second word K of the extended form. -/
structure Atcia where
  op : Op
  d : Fin 16
  a : Fin 16
  b : Fin 16
  x : Bool
  ctl : BitVec 11
  imm : BitVec 32
  k : BitVec 64
deriving DecidableEq, Repr

end Sys2Proof
end

