-- ==== Sys2Proof/Syntax.lean ====
section
/-! DEFINITION. The commands: one constructor per row of spec/opcode_table.json, in the table's order, with the operands
that say which unit acts and what the outside world supplies (log entry 3). -/

namespace Sys2Proof

/-- A command or event of the block. -/
inductive Instr
  /-- `CROSSING_TRANSFER` (R12): A transfer on an asynchronous handshake channel reaches the receiving island and is checked for parity. -/
  | crossingTransfer (i : IslandId) (x : Transfer) (ok : Bool) (asleep : Bool)
  /-- `CROSSING_RESEND` (R12): The sender resends a transfer that failed parity once from its holding register. -/
  | crossingResend (i : IslandId) (ok : Bool)
  /-- `ISLAND_WAKE_DONE` (R13): A clock-gated island woken by its first transfer finishes waking, and the transfer completes. -/
  | islandWakeDone (i : IslandId)
  /-- `REPLICA_RELOAD_DONE` (R15): The Sidereal replica of a returning island is reloaded from the master, and the events held during the reload are released. -/
  | replicaReloadDone (i : IslandId)
  /-- `LATCH_COPY_RECEIVE` (R20): An island accepts the latch copy of an admitted state for frame F and acknowledges it. -/
  | latchCopyReceive (id : Nat) (island : IslandId) (lost : Bool)
  /-- `SWITCH_POINT` (R20): An island reaches its first work of frame F and switches from its active copy to the latch copy. -/
  | switchPoint (id : Nat) (island : IslandId)
  /-- `PCIE_LINK_DOWN` (R331): The data link layer reports DL_Down without PERST_N; host-window reads stop, configuration space resets and link loss is raised. -/
  | pcieLinkDown
  /-- `PCIE_LINK_UP` (R331): The link comes up again, and command processors in LINK_WAIT may resume once Bus Master Enable is set. -/
  | pcieLinkUp (width : Fin 3) (rate : Fin 7)
  /-- `PERST_ASSERT` (R24): An assertion of PERST_N or an in-band hot reset resets the whole device or only island 1, the command processors and the DMA channels, as PERST_SCOPE selects. -/
  | perstAssert
  /-- `PERST_RELEASE` (R367): PERST_N is released; straps are sampled and a full POST begins, or island 1 retrains the link. -/
  | perstRelease (strap : Fin 8)
  /-- `VDD_AON_RISE` (R367): VDD_AON rises and resets the cold, core and function domains. -/
  | vddAonRise
  /-- `RAIL_FAULT` (R409): A rail leaves its monitor range, so the core and function domains are held in reset and RAIL_FAULT is set. -/
  | railFault
  /-- `RAIL_RECOVER` (R409): Every rail has stood within its recommended range for 1 ms after a fault, and POST begins. -/
  | railRecover
  /-- `SHADOW_WRITE_ACCEPT` (R28): The command/sequencer island accepts queued shadow field writes round-robin and applies them in acceptance order. -/
  | shadowWriteAccept
  /-- `CP_DOORBELL_WRITE` (R39): A write of CP_DOORBELL publishes ring entries, or is refused when it moves backwards or overfills the ring. -/
  | cpDoorbellWrite (w : FnId) (n : FnId) (v : Word)
  /-- `RING_ENTRY_FETCHED` (R38): A command processor's read of a ring entry returns, and the entry's header is checked. -/
  | ringEntryFetched (n : FnId) (r : ReadResult)
  /-- `RING_NOP` (R38): A NOP ring entry completes as soon as it is read. -/
  | ringNop (n : FnId)
  /-- `RING_CALL` (R38): A CALL ring entry loads six arguments and runs a command program until HALT. -/
  | ringCall (n : FnId)
  /-- `RING_INLINE` (R38): An INLINE ring entry runs up to seven instruction words with an implied HALT. -/
  | ringInline (n : FnId)
  /-- `RING_FENCE` (R38): A FENCE ring entry waits for earlier entries and their commits, and optionally their taking effect. -/
  | ringFence (n : FnId)
  /-- `RING_FENCE_COMPLETE` (R38): The conditions of a FENCE ring entry hold, and its value is written to the target. -/
  | ringFenceComplete (n : FnId)
  /-- `RING_WAIT` (R38): A WAIT ring entry starts polling a 64-bit word against VALUE and MASK under COND. -/
  | ringWait (n : FnId) (r : ReadResult)
  /-- `RING_WAIT_POLL` (R38): The poll interval of a WAIT entry expires and the word is read and compared again. -/
  | ringWaitPoll (n : FnId) (r : ReadResult)
  /-- `RING_WAIT_TIMEOUT` (R38): A WAIT entry times out and either completes with WAIT_TIMEOUT or faults. -/
  | ringWaitTimeout (n : FnId)
  /-- `RING_ENTRY_COMPLETE` (R41): A ring entry completes; CP_CONSUMED advances, with optional writeback and a completion event. -/
  | ringEntryComplete (n : FnId)
  /-- `CP_ENABLE` (R92): A write of CP_CTL.ENABLE starts ring processing with zeroed indices, or on clearing stops the sequencer at once. -/
  | cpEnable (w : FnId) (n : FnId) (v : Word)
  /-- `CP_RESUME` (R48): A write of CP_CTL.RESUME leaves FAULTED and retries the faulting entry. -/
  | cpResume (w : FnId) (n : FnId)
  /-- `CP_RESUME_SKIP` (R48): RESUME written with SKIP counts the faulting entry as completed and continues with the next. -/
  | cpResumeSkip (w : FnId) (n : FnId)
  /-- `CP_LINK_RESUME` (R52): A command processor in LINK_WAIT re-issues its host-window access once the link is up and Bus Master Enable is set. -/
  | cpLinkResume (n : FnId)
  /-- `FSQ_START_POINT` (R43): A head reaches its START_LINE, and its frame sequencer starts a run or records an overrun. -/
  | fsqStartPoint (h : HeadId)
  /-- `FSQ_ENABLE` (R92): A write of FSQ_CTL.ENABLE enables the frame sequencer, or on clearing stops it at once. -/
  | fsqEnable (w : FnId) (h : HeadId) (v : Word)
  /-- `FSQ_RESTART` (R48): A write of FSQ_CTL.RESTART leaves FAULTED, invalidates the buffer and starts a run at the next start point. -/
  | fsqRestart (w : FnId) (h : HeadId)
  /-- `FSQ_ENTRY_WRITE` (R89): A write of FSQ_ENTRY sets the entry address for the next run and invalidates the program buffer. -/
  | fsqEntryWrite (w : FnId) (h : HeadId) (hi : Bool) (v : Word)
  /-- `PROGRAM_FETCH_FILL` (R26): An instruction fetch that missed the program buffer returns its 64-byte line, and the sequencer resumes. -/
  | programFetchFill (q : SeqId) (r : ReadResult)
  /-- `NOP` (R66): Does nothing for one cycle. -/
  | nop (q : SeqId)
  /-- `JMP` (R63): Jumps to a relative, register-based or absolute target. -/
  | jmp (q : SeqId)
  /-- `JCC` (R62): Jumps when the condition code holds against the flags. -/
  | jcc (q : SeqId)
  /-- `CALL` (R64): Pushes the return PC and jumps. -/
  | call (q : SeqId)
  /-- `RET` (R64): Pops the return stack into the PC. -/
  | ret (q : SeqId)
  /-- `LOOP` (R65): Decrements a counter and jumps while it is non-zero. -/
  | loop (q : SeqId)
  /-- `HALT` (R66): Waits until earlier stores are performed, then ends the run or completes the ring entry. -/
  | halt (q : SeqId)
  /-- `HALT_COMPLETE` (R66): The stores that a HALT waited for are performed and the run ends. -/
  | haltComplete (q : SeqId)
  /-- `WAITEV` (R73): Waits on, or peeks, an event source's occurrence count. -/
  | waitev (q : SeqId)
  /-- `WAITEV_WAKE` (R73): A waiting WAITEV completes when the source's count changes. -/
  | waitevWake (q : SeqId)
  /-- `WAITEV_TIMEOUT` (R73): A waiting WAITEV reaches its timeout and completes with Z set. -/
  | waitevTimeout (q : SeqId)
  /-- `WAITLN` (R74): Waits for a target line of a head's raster, or completes at once. -/
  | waitln (q : SeqId)
  /-- `WAITLN_WAKE` (R74): A waiting WAITLN completes at the start of its target line or at the next frame boundary. -/
  | waitlnWake (q : SeqId)
  /-- `SIGNAL` (R75): After earlier stores are performed, raises a software event source of the function. -/
  | signal (q : SeqId)
  /-- `STAMP` (R76): Returns Sidereal time, or a head's frame number, boundary time or current line. -/
  | stamp (q : SeqId)
  /-- `FENCE` (R77): Waits until memory, shadow-write and commit conditions hold, and optionally invalidates the program buffer. -/
  | fence (q : SeqId)
  /-- `FENCE_COMPLETE` (R77): The conditions of a waiting FENCE hold and it completes. -/
  | fenceComplete (q : SeqId)
  /-- `ADDI` (R67): Adds or subtracts the second operand and sets the flags. -/
  | addi (q : SeqId)
  /-- `AND` (R67): Bitwise AND with flags Z and N. -/
  | and (q : SeqId)
  /-- `OR` (R67): Bitwise OR with flags Z and N. -/
  | or (q : SeqId)
  /-- `XOR` (R67): Bitwise XOR with flags Z and N. -/
  | xor (q : SeqId)
  /-- `SHL` (R67): Shifts left by S[5:0] and sets the flags. -/
  | shl (q : SeqId)
  /-- `SHR` (R67): Shifts right, logically or arithmetically, and sets the flags. -/
  | shr (q : SeqId)
  /-- `CMP` (R67): Computes ga minus S for the flags only. -/
  | cmp (q : SeqId)
  /-- `LDW` (R69): Issues a load from frame-store space or register space and blocks until it returns. -/
  | ldw (q : SeqId)
  /-- `LDW_DATA_RETURN` (R69): A load's data, error or timeout returns to the blocked sequencer. -/
  | ldwDataReturn (q : SeqId) (r : ReadResult)
  /-- `STW` (R69): Checks, translates and queues a store of 1 to 8 bytes. -/
  | stw (q : SeqId)
  /-- `STORE_PERFORMED` (R71): A queued store is performed in memory, the transmit queue or register space, freeing its place. -/
  | storePerformed (q : SeqId) (k : Fin 8) (x : WriteSide)
  /-- `ATOM` (R70): Issues an atomic read-modify-write to a word in a local page and blocks. -/
  | atom (q : SeqId)
  /-- `ATOM_COMPLETE` (R70): The memory controller performs the atomic operation and returns the old value. -/
  | atomComplete (q : SeqId) (fresh : Bool)
  /-- `LSET` (R78): Issues one shadow write to a layer descriptor field. -/
  | lset (q : SeqId)
  /-- `LCOPY` (R80): Copies the 57 program fields of one layer slot into another as one unit. -/
  | lcopy (q : SeqId)
  /-- `HSET` (R78): Issues one shadow write to a head field. -/
  | hset (q : SeqId)
  /-- `CSET` (R78): Issues one shadow write to a colour-table or coefficient field. -/
  | cset (q : SeqId)
  /-- `GSET` (R78): Issues one shadow write to a sync-group field. -/
  | gset (q : SeqId)
  /-- `SIGDEF` (R79): Writes a program field of a signature region other than the expected values. -/
  | sigdef (q : SeqId)
  /-- `SIGEXP` (R79): Writes an expected value and sets compare-enable, or with DISARM clears compare-enable. -/
  | sigexp (q : SeqId)
  /-- `DMAKICK` (R82): Starts a DMA channel on a descriptor chain and reports whether it was idle, running or halted. -/
  | dmakick (q : SeqId)
  /-- `CHECK` (R83): Asks Ephemeris whether the named groups' shadow state would be admitted, without effect. -/
  | check (q : SeqId)
  /-- `COMMIT` (R83): Takes a copy of the named groups' shadow state and asks Ephemeris to admit it. -/
  | commit (q : SeqId)
  /-- `COMMIT_RESULT` (R83): The verdict returns; the result word is written, the commit-result event is raised, and a waiting instruction completes. -/
  | commitResult (id : Nat)
  /-- `ABORT` (R87): After earlier results, returns the named groups' shadow state to their newest admitted state. -/
  | abort (q : SeqId)
  /-- `ABORT_COPY` (R87): The awaited results have arrived and the admitted state is copied over the shadow state as one unit. -/
  | abortCopy (q : SeqId)
  /-- `BENCH_EN_WRITE` (R50): A PF write of SYS_BENCH_CTL.BENCH_EN enters bench mode if every sequencer is disabled, or ends it. -/
  | benchEnWrite (v : Word)
  /-- `BENCH_COMMIT` (R50): A write of a group mask to SYS_BENCH_COMMIT in bench mode asks Ephemeris to admit those groups. -/
  | benchCommit (v : Word)
  /-- `BENCH_RESULT` (R50): The verdict of a bench commit is written to SYS_BENCH_RESULT and BUSY clears. -/
  | benchResult (id : Nat)
  /-- `FUNCTION_LEVEL_RESET` (R53): A Function Level Reset returns the function domain and its command processor to reset, keeping shadow and active state. -/
  | functionLevelReset (f : FnId)
  /-- `VF_ENABLE_CLEAR` (R318): Clearing VF Enable acts on every VF as a Function Level Reset. -/
  | vfEnableClear
  /-- `PMAP_ENTRY_WRITE` (R96): A PF write of a Plate Map entry invalidates cached copies and applies in arrival order. -/
  | pmapEntryWrite (p : PageId) (hi : Bool) (v : Word)
  /-- `PMAP_ENTRY_READ` (R96): A read of a Plate Map entry completes only after earlier writes apply and accesses through the old value complete. -/
  | pmapEntryRead (p : PageId) (hi : Bool)
  /-- `MC_SERVE_REQUEST` (R145): A memory controller serves its next request by class and deadline, correcting or reporting ECC errors. -/
  | mcServeRequest (n : McId) (scanHit hit : Option Nat) (e : Ecc)
  /-- `SCHED_URGENT` (R145): A scan-out read's slack falls to 4,000 ns and it moves from class SE to SU. -/
  | schedUrgent (t : Fin 131072)
  /-- `MC_REFRESH` (R145): A scheduled refresh or periodic retraining window pre-empts the other classes. -/
  | mcRefresh (n : McId) (ns : Nat)
  /-- `MC_EMERGENCY_RETRAIN` (R101): Repeated EDC failures on a channel start an emergency retraining. -/
  | mcEmergencyRetrain (n : McId) (ns : Nat)
  /-- `RETIRE_REQ_WRITE` (R102): A write of SYS_RETIRE_REQ makes a local page a retirement candidate, or is refused. -/
  | retireReqWrite (v : Word)
  /-- `RETIRE_START` (R103): The retirement engine takes the next candidate and a reserve frame and begins mirroring and copying. -/
  | retireStart
  /-- `RETIRE_COPY_DONE` (R103): The copy of a retiring frame ends, and TARGET and REMAPPED are written. -/
  | retireCopyDone
  /-- `RETIRE_COMPLETE` (R103): Accesses to the old frame have completed; mirroring stops and the retirement-complete event is raised. -/
  | retireComplete
  /-- `PLATE_ACCESS` (R118): Owner lanes access a plate word in one quadrant cycle, with collisions and SECDED handled. -/
  | plateAccess (p : PlateId) (w : Fin 131072) (uses : List PlateUse) (ecc : Ecc)
  /-- `PST_CE_ROW_CLEAR` (R132): A write of 1 to VALID of a PST_CE_ROW entry clears the whole entry. -/
  | pstCeRowClear (p : PlateId) (k : Fin 4)
  /-- `PST_OWN_REQ` (R120): A handover request is examined at island 4 and is refused or puts the plate into transit. -/
  | pstOwnReq (p : PlateId) (v : Word)
  /-- `HANDOVER_COMPLETE` (R122): Earlier accesses and any scrub finish, the new owner takes the plate, and DONE and the event are set. -/
  | handoverComplete (p : PlateId)
  /-- `BLINK_GO` (R127): A write of PST_BLINK_CTL with GO starts a plate test or is refused. -/
  | blinkGo (q : QuadrantId) (v : Word)
  /-- `BLINK_STOP` (R129): A write of STOP ends a test after the stripe in hand is copied back. -/
  | blinkStop (q : QuadrantId)
  /-- `BLINK_COPY_IN_DONE` (R128): A stripe has been copied to the shadow store, which now serves the owner. -/
  | blinkCopyInDone (q : QuadrantId)
  /-- `BLINK_MARCH_DONE` (R126): The march of one stripe ends and its faults are counted, with row repair where set. -/
  | blinkMarchDone (q : QuadrantId) (faults : Nat) (rows : List (Fin 16 × Fin 256)) (column : Option (Fin 16 × Fin 32))
  /-- `BLINK_COPY_BACK_DONE` (R128): A stripe is written back from the shadow; the next stripe starts or the test ends with the Blink-done event. -/
  | blinkCopyBackDone (q : QuadrantId)
  /-- `PST_SUBST_REQ` (R134): A write of PST_SUBST_REQ starts substitution of a plate to a spare site, or is refused. -/
  | pstSubstReq (p : PlateId)
  /-- `SUBST_COPY_DONE` (R134): A plate's 8 MiB are copied; SITE changes in one cycle and the substitution-complete event is raised. -/
  | substCopyDone
  /-- `FETCH_GRANT` (R143): A pipe front-end grants the earliest-deadline word that its release, Aperture, tags and landing room allow. -/
  | fetchGrant (p : PipeId)
  /-- `TAG_ISSUE` (R141): A HELD tag's request enters a memory-controller queue or the PCIe host read queue. -/
  | tagIssue (t : Fin 131072)
  /-- `FETCH_DATA_RETURN` (R141): Data, poison or an error completion returns to a tag; stale tags free without writing. -/
  | fetchDataReturn (t : Fin 131072) (lost : Bool)
  /-- `LANDING_WRITE_DONE` (R141): The landing write completes, the tag is freed, and the landing-ready notice is sent. -/
  | landingWriteDone (t : Fin 131072)
  /-- `PIPE_CONSUME_WORD` (R160): The pipe reads a landing word for composition and uses it or holds it. -/
  | pipeConsumeWord (p : PipeId) (h : HeadId) (sl : SlotId) (kind : Fin 4) (w : WordRead)
  /-- `HOST_READ_SEND` (R148): The PCIe core sends a merged host-window read of up to 256 bytes in deadline order. -/
  | hostReadSend
  /-- `HOST_READ_COMPLETION` (R149): A host read's completion arrives with data, error status or poison. -/
  | hostReadCompletion (id : Nat) (r : ReadResult)
  /-- `HOST_READ_TIMEOUT` (R322): A device read of host memory reaches its timeout and ends with each requester's response. -/
  | hostReadTimeout (who : Requester)
  /-- `APERTURE_REFILL` (R157): At each Sidereal multiple of 1,000 ns every Aperture's credit rises by its rate, up to its burst. -/
  | apertureRefill
  /-- `PIPE_COMPOSE_LINE` (R199): A pipe composes an output line through scaling, colour path, blending and dithering, freeing landing words. -/
  | pipeComposeLine (p : PipeId) (h : HeadId) (y : Nat)
  /-- `SELECTION_POINT` (R164): At S(F) the head selects one buffer for each bound layer and holds it. -/
  | selectionPoint (h : HeadId)
  /-- `EPH_ARRIVAL` (R223): A CHECK, COMMIT or bench commit arrives at island 4 and waits for earlier arrivals and engines. -/
  | ephArrival (id : Nat)
  /-- `EPH_EVAL_START` (R223): The engines of a commit's groups are free and evaluation starts at t_s. -/
  | ephEvalStart (id : Nat)
  /-- `EPH_VERDICT` (R213): The verdict stage runs the admission steps, places items and returns a result code. -/
  | ephVerdict (id : Nat)
  /-- `GC_BUCKET_REFILL` (R217): The device-wide class GC token bucket is refilled at each Sidereal multiple of 1,000 ns. -/
  | gcBucketRefill
  /-- `LATCH_WINDOW_OPEN` (R226): The latch window opens; the WAIT test runs and latch copies and selections are sent. -/
  | latchWindowOpen (id : Nat)
  /-- `DECISION_POINT` (R226): 100 ns before the window ends, Ephemeris sends go or withdraw twice. -/
  | decisionPoint (id : Nat)
  /-- `DECISION_RECEIVE` (R226): An island receives the first copy of a decision and keeps or discards its latch copy. -/
  | decisionReceive (id : Nat) (island : IslandId)
  /-- `FRAME_BOUNDARY` (R230): A head's timing generator opens a frame, applying starts, stops, vertical totals and the port's state. -/
  | frameBoundary (h : HeadId)
  /-- `LINE_START` (R230): A head's timing generator begins a new line. -/
  | lineStart (h : HeadId)
  /-- `PRT_QUAD_MODE_WRITE` (R238): A write of PRT_QUAD_MODE changes a quad's mode, or is refused while a head of the quad is enabled. -/
  | prtQuadModeWrite (q : Fin 32) (v : Word)
  /-- `PRT_LINK_CTL_WRITE` (R243): A write of PRT_LINK_CTL stores its fields, refusing changes of MAX_RATE or POLICY while the head is enabled. -/
  | prtLinkCtlWrite (w : FnId) (n : HeadId) (v : Word)
  /-- `RETRAIN` (R241): A write of PRT_LINK_CTL.RETRAIN asks the link engine to train now. -/
  | retrain (w : FnId) (n : HeadId)
  /-- `TRAINING_ATTEMPT_START` (R241): The link engine begins training at one rate and lane count through any LTTPRs. -/
  | trainingAttemptStart (n : HeadId) (rates : BitVec 7) (lanes : Fin 3) (lttprs : Fin 9)
  /-- `TRAINING_ATTEMPT_END` (R242): A training attempt succeeds with link up, or fails and falls back or enters TRAIN_FAIL. -/
  | trainingAttemptEnd (n : HeadId) (ok : Bool)
  /-- `TRAIN_RETRY_TIMER` (R242): One second after TRAIN_FAIL, AUTO_RETRY starts training again, up to 8 times. -/
  | trainRetryTimer (n : HeadId)
  /-- `PRT_MAN_CTL_WRITE` (R241): Under MANUAL policy, a write of PRT_MAN_CTL drives patterns and transmitter settings. -/
  | prtManCtlWrite (w : FnId) (n : HeadId) (v : Word)
  /-- `HPD_RISE` (R246): HPD rises, classifying a preceding short low as a glitch or IRQ_HPD. -/
  | hpdRise (n : HeadId)
  /-- `HPD_FALL` (R246): HPD falls and the disconnect timer starts. -/
  | hpdFall (n : HeadId)
  /-- `HPD_CONNECT` (R247): HPD has stayed high 2 ms; CONNECTED is set, the HPD event is raised and training may begin. -/
  | hpdConnect (n : HeadId)
  /-- `HPD_DISCONNECT` (R247): HPD has stayed low 2 ms; CONNECTED clears and the lanes go to electrical idle. -/
  | hpdDisconnect (n : HeadId)
  /-- `AUX_GO` (R244): A write of PRT_AUX_CMD.GO starts a driver AUX transaction, or sets GO_LOST while busy. -/
  | auxGo (w : FnId) (n : HeadId) (v : Word)
  /-- `AUX_REPLY` (R244): An AUX reply arrives and the transaction completes or is retried on DEFER. -/
  | auxReply (n : HeadId) (nibble : Fin 16) (data : List Byte) (wrote : Fin 17) (lost : Bool)
  /-- `AUX_TIMEOUT` (R244): No valid AUX reply within 500 µs; the transaction is retried or completes with TIMEOUT. -/
  | auxTimeout (n : HeadId)
  /-- `AUX_DEFER_RETRY` (R244): 400 µs after a DEFER reply, the AUX engine retries the transaction. -/
  | auxDeferRetry (n : HeadId)
  /-- `LANE_SLICE_FAULT` (R252): A lane's slice monitor reports a fault and substitution or degradation begins. -/
  | laneSliceFault (q : Fin 32) (j : Fin 4)
  /-- `SUBST_REQ` (R252): A write of PRT_LANE.SUBST_REQ asks to substitute a port lane with the group's spare. -/
  | substReq (n : HeadId) (k : Fin 4)
  /-- `LANE_STEER_DONE` (R252): The spare slice is powered and steered, and the port trains again. -/
  | laneSteerDone (g : Fin 8)
  /-- `LOOPBACK_REQ` (R254): A write of PRT_LANE.LOOPBACK_REQ starts a 10 ms PRBS31 loopback, or is refused. -/
  | loopbackReq (n : HeadId)
  /-- `LOOPBACK_DONE` (R254): The loopback ends, setting LOOP_DONE and LOOP_FAIL. -/
  | loopbackDone (n : HeadId) (fail : Bool)
  /-- `CD_ENABLE` (R255): A write of CD_CTL.EN starts a Clock Drive locking, or gates and stops it. -/
  | cdEnable (n : DriveId) (v : Word)
  /-- `APPLY` (R256): A write of CD_CTL.APPLY applies held divider settings as a fine or coarse change, or is refused. -/
  | apply (n : DriveId)
  /-- `RELOCK` (R259): A write of CD_CTL.RELOCK gates the drive and relocks at its present settings. -/
  | relock (n : DriveId)
  /-- `REACQUIRE` (R268): A write of CD_CTL.REACQUIRE makes a drive in holdover acquire its reference. -/
  | reacquire (n : DriveId)
  /-- `CD_LOCK_DECLARE` (R257): The lock pin stays above threshold for 1 ms; inner lock is declared and the gate opens. -/
  | cdLockDeclare (x : PinSignal)
  /-- `CD_LOCK_LOSS` (R258): The comparator falls below threshold or a cycle slip occurs; the drive gates and relocks. -/
  | cdLockLoss (x : PinSignal)
  /-- `CD_RELOCK_TIMEOUT` (R258): No lock 20 ms into a relock; the drive retries once and then enters FAILED. -/
  | cdRelockTimeout (n : DriveId)
  /-- `CD_PROFILE_GO` (R262): A write of CD_PROF_CTL.GO starts the ramp profile at segment 0, or is refused. -/
  | cdProfileGo (n : DriveId) (last : Fin 16) (loop : Bool)
  /-- `CD_PROFILE_STOP` (R262): A write of CD_PROF_CTL.STOP holds the divider value where it stands. -/
  | cdProfileStop (n : DriveId)
  /-- `CD_SEGMENT_END` (R262): A profile segment reaches its target and the next segment starts or the profile ends. -/
  | cdSegmentEnd (n : DriveId)
  /-- `REF_VALID` (R264): A reference has stayed within tolerance for QUAL_MS and is declared valid. -/
  | refValid (r : Fin 2) (x : RefSteady)
  /-- `REF_LOSS` (R264): A reference misses two periods or breaks tolerance 16 times; it is lost and the drive enters holdover. -/
  | refLoss (x : RefFault)
  /-- `REF_PULSE` (R267): A frame-pulse reference pulse arrives and the drive measures the phase error of its aligned heads. -/
  | refPulse (r : Fin 2)
  /-- `CD_SPARE_REQ` (R271): A write of CD_SPARE_REQ starts substitution of a drive by CD8, or is refused. -/
  | cdSpareReq (v : Word)
  /-- `CD_SPARE_SWITCH` (R271): CD8 locks and aligns with the drive, and the consumers move across. -/
  | cdSpareSwitch
  /-- `CD_OUT_CTL_WRITE` (R272): A change of a clock output's settings stops it at a low phase and restarts it, or sets CFG_ERR. -/
  | cdOutCtlWrite (j : Fin 4) (v : Word)
  /-- `SID_SET` (R274): A write of SID_SET_HI sets the Sidereal master, or is refused. -/
  | sidSet (v : Word)
  /-- `PTM_UPDATE` (R275): The PTM requester obtains host time every PTM_MS and reports or steers the offset. -/
  | ptmUpdate (ofs : Option DWord)
  /-- `SID_ALARM_ENABLE` (R276): A write of SID_ALARM_CTL arms an alarm, which fires at once if its time is past. -/
  | sidAlarmEnable (k : Fin 8) (v : Word)
  /-- `SID_ALARM_FIRE` (R276): The master reaches an alarm time; the alarm event is raised and a periodic alarm re-arms. -/
  | sidAlarmFire (k : Fin 8)
  /-- `FRAME_RECORD_COMPLETE` (R282): A head's last active line is composed; signatures are compared and a frame record enters the chain. -/
  | frameRecordComplete (h : HeadId) (spoiled : BitVec 16)
  /-- `JRN_ENABLE` (R287): A write of JRN_CTL.EN from 0 to 1 opens a new epoch with an opening checkpoint. -/
  | jrnEnable (v : Word)
  /-- `CP_NOW` (R287): A write of JRN_CTL.CP_NOW asks for a signed requested checkpoint. -/
  | cpNow
  /-- `CHECKPOINT_SIGNED` (R286): The signing engine finishes a checkpoint and queues it for the journal ring. -/
  | checkpointSigned
  /-- `JRN_RD_WRITE` (R289): A write of JRN_RD frees ring slots and resumes writing after a ring error. -/
  | jrnRdWrite (v : Word)
  /-- `JOURNAL_ENTRY` (R288): The journal DMA channel writes an entry to the ring, advances JRN_WR and raises the journal event. -/
  | journalEntry (ok : Bool)
  /-- `PWR_WARN_ASSERT` (R290): PWR_WARN_N asserts; recording stops and a power-fail seal is signed. -/
  | pwrWarnAssert
  /-- `PWR_WARN_DEASSERT` (R292): PWR_WARN_N deasserts and recording resumes after any seal. -/
  | pwrWarnDeassert
  /-- `SEAL_SIGNED` (R290): The seal checkpoint is signed and its page program in the seal ring begins. -/
  | sealSigned
  /-- `SEAL_PROGRAMMED` (R291): The flash reports the seal page programmed and the seal completes. -/
  | sealProgrammed
  /-- `APERTURE_WRITE` (R296): A posted host write through BAR2 is an ingest write, is dropped as protected, or is served in class GC. -/
  | apertureWrite (f : FnId) (off : Nat) (bytes : List Byte) (poisoned : Bool)
  /-- `APERTURE_READ` (R317): A host read through BAR2 is translated and served in class GC. -/
  | apertureRead (f : FnId) (off : Nat) (n : Nat) (fresh : Bool)
  /-- `METER_REFILL` (R301): At each Sidereal multiple of 1,000 ns, each meter's buckets refill and throttled beats retry. -/
  | meterRefill
  /-- `ING_OPEN` (R295): A write of ING_OPEN opens a slot as the stream's ingest window, or is refused. -/
  | ingOpen (w : FnId) (st : SlotId) (k : Fin 256) (r : ReadResult)
  /-- `ING_DONE` (R298): A write of ING_DONE closes the open slot's window and starts its completion. -/
  | ingDone (w : FnId) (st : SlotId)
  /-- `WC_LINE_DRAIN` (R297): A write-combining line drains to GDDR6 in class GC or BE. -/
  | wcLineDrain (st : SlotId) (e : Ecc)
  /-- `WC_IDLE_TIMEOUT` (R297): 2 µs without a write to a write-combining line starts its drain. -/
  | wcIdleTimeout (st : SlotId)
  /-- `INGEST_COMPLETION` (R298): Every accepted byte is performed; the slot is stamped COMPLETE or INCOMPLETE and the fence or event follows. -/
  | ingestCompletion (st : SlotId)
  /-- `ING_CFG_WRITE` (R303): A write of ING_CFG enables or disables a stream, refused where the limits fail, ending any open slot on disable. -/
  | ingCfgWrite (w : FnId) (st : SlotId) (v : Word)
  /-- `ING_RATE_WRITE` (R303): A PF write of CIR, PIR, CBS or PBS is applied, or refused against the host-window admission. -/
  | ingRateWrite (st : SlotId) (which : Fin 4) (v : Word)
  /-- `DMA_START` (R311): A write of DMA_CTL.START runs the chain at DMA_DESC, or sets KICK_LOST. -/
  | dmaStart (w : FnId) (c : ChanId)
  /-- `DMA_STOP` (R311): A write of DMA_CTL.STOP ends the burst in hand and returns the channel to IDLE. -/
  | dmaStop (w : FnId) (c : ChanId)
  /-- `DMA_RESUME` (R311): A write of DMA_CTL.RESUME retries a halted channel from the failing beat or descriptor. -/
  | dmaResume (w : FnId) (c : ChanId)
  /-- `DMA_ABORT` (R311): A write of DMA_CTL.ABORT discards a halted channel's staging and returns it to IDLE. -/
  | dmaAbort (w : FnId) (c : ChanId)
  /-- `DMA_DESCRIPTOR_READ` (R305): A channel's descriptor read returns and is checked and ordered for overlap. -/
  | dmaDescriptorRead (c : ChanId) (r : ReadResult)
  /-- `DMA_SOURCE_DATA` (R306): A channel's source read returns into its staging buffer. -/
  | dmaSourceData (c : ChanId) (r : ReadResult)
  /-- `DMA_MOVER_BEAT` (R308): The mover serves the most urgent requesting channel with one write beat. -/
  | dmaMoverBeat (e : Ecc)
  /-- `DMA_WRITE_ACK` (R306): A DMA write is acknowledged; at the descriptor's end its fence, ING_DONE and DONE follow. -/
  | dmaWriteAck (c : ChanId) (ok : Bool)
  /-- `DMA_WB_FRAME_START` (R312): At the first active line of a chosen frame, a writeback channel takes its descriptor, or the frame is skipped. -/
  | dmaWbFrameStart (h : HeadId)
  /-- `RESIZABLE_BAR_WRITE` (R316): A Resizable BAR size write takes effect once Memory Space Enable is clear. -/
  | resizableBarWrite (vf : Bool) (size : Fin 64)
  /-- `PARTITION_WRITE` (R319): A write of a partition register assigns heads, slots, streams or channels, or is refused. -/
  | partitionWrite (r : PartReg) (v : Word)
  /-- `RECLAIM` (R320): A write of PCI_FN_CTL.RECLAIM moves all of a VF's resources to the PF in one cycle. -/
  | reclaim (k : FnId)
  /-- `MSIX_TABLE_WRITE` (R341): A write to the MSI-X table or control masks or unmasks vectors in arrival order. -/
  | msixTableWrite (f : FnId) (v : Fin 2048) (k : Fin 4) (x : Word)
  /-- `MSIX_LAUNCH` (R340): The PCIe core launches the most urgent pending unmasked vector, clearing its sources' pending marks. -/
  | msixLaunch
  /-- `L0P_REQUEST` (R326): An L0p width reduction is accepted only when the narrower link still carries the host demand. -/
  | l0pRequest (width : Fin 3)
  /-- `PCIE_LINK_DEGRADE` (R330): The link retrains at a lower width or rate; DEGRADED is set and the link-width event raised. -/
  | pcieLinkDegrade (width : Fin 3) (rate : Fin 7)
  /-- `IDE_CHECK_FAILED` (R328): An IDE check failure puts the stream into Insecure. -/
  | ideCheckFailed (k : Fin 4) (f : FnId)
  /-- `DOE_REQUEST` (R329): A DOE mailbox request is answered by the Station cores with SPDM, IDE_KM or discovery. -/
  | doeRequest (r : DoeReq)
  /-- `HOST_WAKE_SIGNAL` (R332): The host begins L1 exit, releases PERST_N in PS4 or PS5, or asserts CLKREQ_N. -/
  | hostWakeSignal (cause : Fin 3)
  /-- `GPIO_EDGE` (R332): A GPIO pin rises or falls and raises its event. -/
  | gpioEdge (k : Fin 16) (rise : Bool)
  /-- `EVENT_OCCURRENCE` (R334): An occurrence reaches island 2; it is counted, recorded and marked pending or held. -/
  | eventOccurrence (src : Fin 6144)
  /-- `EVC_SRC_CFG_WRITE` (R344): A write of EVC_SRC_CFG retargets or reprioritises a source from the next arbitration. -/
  | evcSrcCfgWrite (w : FnId) (src : Fin 6144) (v : Word)
  /-- `EVC_FN_IDLE_WRITE` (R343): A write of 1 to EVC_FN_IDLE sets the idle hint that bypasses moderation. -/
  | evcFnIdleWrite (w : FnId) (f : FnId) (v : Word)
  /-- `STATION_HANDLER_ENTRY` (R339): A Station core enters the handler of its most urgent pending source. -/
  | stationHandlerEntry (c : Fin 2)
  /-- `STATION_HANDLER_RETURN` (R339): A Station core's handler level returns. -/
  | stationHandlerReturn (c : Fin 2) (wait : Bool)
  /-- `MOD_INTERVAL_END` (R342): A moderation interval ends, releasing held vectors or pre-emption. -/
  | modIntervalEnd (v : Fin 4032)
  /-- `EVENT_HOLD_TIMEOUT` (R345): After HOLD_MS, an unwatched event held for a sleeping target goes to the fallback target. -/
  | eventHoldTimeout (src : Fin 6144)
  /-- `AON_WATCH_WRITE` (R346): A write of an AON_WATCH entry watches a wake-capable source, or is refused. -/
  | aonWatchWrite (k : Fin 64) (v : Word)
  /-- `FINDER_WAKE` (R347): A watched source occurs while its target sleeps; the Finder records it and asks for PS0. -/
  | finderWake (src : Fin 6144)
  /-- `FINDER_HANDOVER` (R347): Once island 2 has power, the Finder hands its latched occurrences to the Event Controller. -/
  | finderHandover
  /-- `PWR_LAT_WRITE` (R349): A write of PWR_LAT changes the latency tolerance and may start an exit at once. -/
  | pwrLatWrite (w : FnId) (f : FnId) (v : Word)
  /-- `PWR_TARGET_EVAL` (R349): The power controller re-evaluates its target state and moves shallower at once. -/
  | pwrTargetEval
  /-- `PWR_DEEPER_TIMER` (R349): A deeper target has stood for 1 ms and the device enters it. -/
  | pwrDeeperTimer
  /-- `PWR_EXIT_DONE` (R348): The islands of a power state are ready again and held requests complete. -/
  | pwrExitDone
  /-- `SHORT_POST` (R375): On exit from PS4 the powered-down islands are retested and restored. -/
  | shortPost (failure : Option PostFail) (found : List (Fin 16 × Nat))
  /-- `THERMAL_SAMPLE` (R355): The sensors are sampled; alarms, throttling, shed steps and restores follow. -/
  | thermalSample (v : BitVec 192)
  /-- `IMON_ALERT_ASSERT` (R356): IMON_ALERT_N asserts; the throttle starts and the current-alert event is raised. -/
  | imonAlertAssert
  /-- `IMON_ALERT_DEASSERT` (R356): IMON_ALERT_N deasserts and the throttle ends 1 ms later. -/
  | imonAlertDeassert
  /-- `RESTORE` (R359): A write of THM_SHED.RESTORE restores the most recent shed step. -/
  | restore
  /-- `RESTORE_ALL` (R359): A write of THM_SHED.RESTORE_ALL restores every shed step. -/
  | restoreAll
  /-- `LIFE_TICK` (R360): Each second adds its equivalent ageing to THM_LIFE. -/
  | lifeTick
  /-- `PIPE_CHECK_FAIL` (R362): A pipe pixel pair fails a check; it is recomputed, or a fault swap starts on a repeat. -/
  | pipeCheckFail (p : PipeId) (h : HeadId) (y : Fin 16384) (x : Fin 16384) (uncorrectable : Bool)
  /-- `PIPE_SWAP_REQ` (R362): A write of SYS_PIPE_SWAP_REQ starts a predictive swap, or is refused. -/
  | pipeSwapReq (p : Fin 64)
  /-- `PIPE_SPARE_LOADED` (R363): The spare pipe is powered and loaded, and heads move at their next boundaries. -/
  | pipeSpareLoaded (p : PipeId)
  /-- `POST_END` (R372): POST ends ready, with DRS sent, or enters Safe Station with the failure record. -/
  | postEnd (r : PostReport)
  /-- `SS_IDENTIFY` (R379): The Safe Station monitor returns identity and version data. -/
  | ssIdentify (bus : Option SmBus)
  /-- `SS_READ_FAIL` (R379): The monitor returns the failure record and POST log. -/
  | ssReadFail (bus : Option SmBus)
  /-- `SS_READ_FLASH` (R379): The monitor returns up to 1,024 bytes of board flash. -/
  | ssReadFlash (bus : Option SmBus)
  /-- `SS_ERASE_SECTOR` (R379): The monitor erases a 4 KiB sector, except in the seal ring. -/
  | ssEraseSector (bus : Option SmBus) (ok : Bool)
  /-- `SS_PROGRAM_FLASH` (R379): The monitor programs up to 256 bytes within one page, except in the seal ring. -/
  | ssProgramFlash (bus : Option SmBus) (ok : Bool)
  /-- `SS_READ_SENSORS` (R379): The monitor returns 16 sensor readings and THM_LIFE. -/
  | ssReadSensors (bus : Option SmBus)
  /-- `SS_PLATE_MARCH` (R379): The monitor runs a march on a plate site and returns faults and repairs. -/
  | ssPlateMarch (bus : Option SmBus) (faults : Fin 65536) (rows : List (Fin 16 × Fin 256))
  /-- `SS_MEM_REPORT` (R379): The monitor returns a memory controller's training values and failing channels. -/
  | ssMemReport (bus : Option SmBus)
  /-- `SS_BAD_OPCODE` (R379): A Safe Station command with an unknown opcode returns BAD_OPCODE. -/
  | ssBadOpcode (bus : Option SmBus)
  /-- `STATION_POISON_READ` (R381): A Station core reads poison; the firmware is reloaded or the structure rebuilt. -/
  | stationPoisonRead (w : Fin 131072) (code : Bool)
  /-- `STATION_RESTART_DONE` (R381): The reloaded firmware restarts and pending events and checkpoints proceed. -/
  | stationRestartDone
  /-- `SELFTEST_GO` (R382): A write of SYS_SELFTEST.GO starts a pipe logic self-test, or is refused. -/
  | selftestGo (p : Fin 64)
  /-- `SELFTEST_DONE` (R382): A pipe self-test ends, setting DONE and PASS or failing the pipe. -/
  | selftestDone (pass : Bool)
  /-- `SYS_LOCK_WRITE` (R398): A write of 1 to SYS_LOCK.LOCK freezes the LK fields of the SYS block. -/
  | sysLockWrite (v : Word)
  /-- `FET_AP_CREDIT_SNAPSHOT` (R393): A read of FET_AP_CREDIT_LO snapshots the selected Aperture for FET_AP_CREDIT_HI. -/
  | fetApCreditSnapshot
  /-- `CD_NOW_SNAPSHOT` (R393): A read of CD_NOW_FRAC snapshots the present divider for CD_NOW_N. -/
  | cdNowSnapshot (n : DriveId)
  /-- `SID_NOW_SNAPSHOT` (R393): A read of SID_NOW_LO snapshots master time for SID_NOW_HI. -/
  | sidNowSnapshot
  /-- `SID_PTM_OFS_SNAPSHOT` (R393): A read of SID_PTM_OFS_LO snapshots the PTM offset for its high half. -/
  | sidPtmOfsSnapshot
  /-- `JRN_SEQ_SNAPSHOT` (R393): A read of JRN_SEQ_LO snapshots the chained-record count for JRN_SEQ_HI. -/
  | jrnSeqSnapshot
  /-- `ING_FENCE_VAL_SNAPSHOT` (R393): A read of ING_FENCE_VAL_LO snapshots the fence count for its high half. -/
  | ingFenceValSnapshot (st : SlotId)
  /-- `VF_PMAP_SNAPSHOT` (R395): A VF read of VF_PMAP_LO snapshots the selected Plate Map entry, or zero, under R96. -/
  | vfPmapSnapshot (k : FnId)
  /-- `REGISTER_WRITE` (R6): A BAR0 or register-space write to a register without a row of its own stores by field type, with partial, SH and clamped writes handled. -/
  | registerWrite (w : FnId) (off : BitVec 22) (words : List (BitVec 4 × Word)) (x : WriteSide)
  /-- `CONFIGURATION_REQUEST` (R315): A host configuration request reaches a function: answered with RRS before readiness, otherwise applied, including D-state, Bus Master Enable, Memory Space Enable, NumVFs and VF Enable set, and Device Control 2 writes. -/
  | configurationRequest (f : FnId) (a : CfgAccess)
  /-- `FLR_COMPLETE` (R315): Within 1 ms of a Function Level Reset the function becomes ready again and sends an FRS message. -/
  | flrComplete (f : FnId)
  /-- `SECTOR_ERASE_DONE` (R291): A seal-ring sector erase started by the Station firmware finishes, or fails and raises the flash-error event. -/
  | sectorEraseDone (ok : Bool)
  /-- `UNSUPPORTED_REQUEST` (R323): An inbound AtomicOp, an access outside a BAR, or a request to a disabled function is completed with Unsupported Request and logged in AER. -/
  | unsupportedRequest (f : FnId) (why : BadRequest) (posted : Bool)
deriving DecidableEq, Repr

end Sys2Proof
end

