-- ==== Sys2Proof/Decode.lean ====
section
/-! DEFINITION. Decoding. No row of spec/opcode_table.json gives bits, so `decodeTableWord` reads no command. The words that
the block itself decodes are the Atcia instructions of its sequencers: their decoder (R57 to R61) and encoder. -/

namespace Sys2Proof

/-- The command that a word spells by the table's bits: the table gives no row any bits, so none. -/
def decodeTableWord (_nbits _w : Nat) : Option Instr := none

/-- The opcode byte of each mnemonic (R61). -/
def opcodeOf : Op → Nat
  | .nop => 0x01 | .jmp => 0x02 | .jcc => 0x03 | .call => 0x04 | .ret => 0x05 | .loop => 0x06 | .halt => 0x07
  | .waitev => 0x10 | .waitln => 0x11 | .signal => 0x12 | .stamp => 0x13 | .fence => 0x14
  | .addi => 0x20 | .and => 0x21 | .or => 0x22 | .xor => 0x23 | .shl => 0x24 | .shr => 0x25 | .cmp => 0x26
  | .ldw => 0x28 | .stw => 0x29 | .atom => 0x2A
  | .lset => 0x30 | .lcopy => 0x31 | .hset => 0x32 | .cset => 0x33 | .gset => 0x34 | .sigdef => 0x35 | .sigexp => 0x36
  | .dmakick => 0x40 | .check => 0x50 | .commit => 0x51 | .abort => 0x52

/-- The mnemonic of an opcode byte; none for an opcode not listed, which raises `ILLEGAL` (R61). -/
def opOf (n : Nat) : Option Op :=
  match n with
  | 0x01 => some .nop | 0x02 => some .jmp | 0x03 => some .jcc | 0x04 => some .call | 0x05 => some .ret
  | 0x06 => some .loop | 0x07 => some .halt | 0x10 => some .waitev | 0x11 => some .waitln | 0x12 => some .signal
  | 0x13 => some .stamp | 0x14 => some .fence | 0x20 => some .addi | 0x21 => some .and | 0x22 => some .or
  | 0x23 => some .xor | 0x24 => some .shl | 0x25 => some .shr | 0x26 => some .cmp | 0x28 => some .ldw
  | 0x29 => some .stw | 0x2A => some .atom | 0x30 => some .lset | 0x31 => some .lcopy | 0x32 => some .hset
  | 0x33 => some .cset | 0x34 => some .gset | 0x35 => some .sigdef | 0x36 => some .sigexp | 0x40 => some .dmakick
  | 0x50 => some .check | 0x51 => some .commit | 0x52 => some .abort
  | _ => none

/-- The opcodes that have an extended form (the X column of R61). -/
def extendable : Op → Bool
  | .jmp | .jcc | .call | .addi | .and | .or | .xor | .shl | .shr | .cmp | .ldw | .stw
  | .lset | .hset | .cset | .gset | .sigdef | .sigexp => true
  | .nop | .ret | .loop | .halt | .waitev | .waitln | .signal | .stamp | .fence | .atom | .lcopy | .dmakick
  | .check | .commit | .abort => false

/-- The branch-target fields of R63: with `REG` 0, and in the extended form, A is 0; extended, `REG` and IMM are 0. -/
def targetFieldsOk (reg : Bool) (i : Atcia) : Bool :=
  i.d = 0 && i.b = 0 && (reg || i.a = 0) && (!i.x || (!reg && i.imm = 0))

/-- The second-operand fields of R60: I in CTL[0]. -/
def operandFieldsOk (i : Atcia) : Bool :=
  let immediate := i.ctl.getLsbD 0
  if i.x then !immediate && i.imm = 0 && i.b = 0
  else if immediate then i.b = 0
  else i.imm = 0

/-- The must-be-zero fields of R58 with the conditional fields of R60, R63, R73 to R76, R78 and R79, and the values that
raise `ILLEGAL` of themselves (condition 15, `STAMP` selector 4 to 7, `ATOM` operation 6 or 7): true when none is at
fault. In the extended state instructions IMM keeps the field identifier (log entry 13). -/
def fieldsOk (i : Atcia) : Bool :=
  let ctlBelow (n : Nat) := i.ctl.toNat < n
  match i.op with
  | .nop | .ret | .halt => i.d = 0 && i.a = 0 && i.b = 0 && i.ctl = 0 && i.imm = 0
  | .jmp | .call => ctlBelow 2 && targetFieldsOk (i.ctl.getLsbD 0) i
  | .jcc => ctlBelow 32 && i.ctl.toNat % 16 ≠ 15 && targetFieldsOk (i.ctl.getLsbD 4) i
  | .loop => i.a = 0 && i.b = 0 && i.ctl = 0
  | .waitev => ctlBelow 2 && i.imm.toNat < 2 ^ 13
  | .waitln => i.d = 0 && i.ctl &&& 0x7F6#11 = 0 && (i.ctl.getLsbD 3 || i.b = 0)
  | .signal => i.d = 0 && i.a = 0 && i.b = 0 && i.ctl = 0 && i.imm.toNat < 2 ^ 13
  | .stamp => i.a = 0 && i.imm = 0 && ctlBelow 16 && i.ctl.toNat % 8 < 4 && (i.ctl.getLsbD 3 || i.b = 0) &&
      (i.ctl.toNat % 8 ≠ 0 || !i.ctl.getLsbD 3)
  | .fence => i.d = 0 && i.a = 0 && i.b = 0 && ctlBelow 16 && i.imm = 0
  | .addi | .shr => ctlBelow 4 && operandFieldsOk i
  | .and | .or | .xor | .shl => ctlBelow 2 && operandFieldsOk i
  | .cmp => i.d = 0 && ctlBelow 2 && operandFieldsOk i
  | .ldw => i.b = 0 && ctlBelow 8 && (!i.x || i.imm = 0)
  | .stw => i.d = 0 && ctlBelow 8 && (!i.x || i.imm = 0)
  | .atom => ctlBelow 16 && i.ctl.toNat % 8 < 6
  | .lset | .hset | .cset | .gset | .sigdef =>
      i.d = 0 && i.ctl = 0 && (!i.x || (i.b = 0 && i.k.toNat < 2 ^ 32))
  | .sigexp => i.d = 0 && ctlBelow 2 && (!i.x || (i.b = 0 && i.k.toNat < 2 ^ 32)) && (!i.ctl.getLsbD 0 || i.b = 0)
  | .lcopy => i.d = 0 && ctlBelow 8 && i.imm = 0
  | .dmakick => i.d = 0 && i.b = 0 && i.ctl = 0 && i.imm.toNat < 64
  | .check | .commit => ctlBelow 4 && i.imm = 0
  | .abort => i.d = 0 && i.b = 0 && i.ctl = 0 && i.imm = 0

/-- An instruction that raises no `ILLEGAL`: X only where it is permitted, no second word otherwise, fields in order. -/
def atciaLegal (i : Atcia) : Bool := (extendable i.op || !i.x) && (i.x || i.k = 0) && fieldsOk i

/-- Whether the first word calls for a second word K (R57): an extendable opcode with X set. -/
def wantsSecond (w : DWord) : Bool :=
  match opOf (w.toNat / 2 ^ 56) with
  | some op => extendable op && w.getLsbD 43
  | none => false

/-- The fields of an instruction word (R57) and its second word; none raises `ILLEGAL` (R58, R61). -/
def decodeAtcia (w k : DWord) : Option Atcia :=
  match opOf (w.toNat / 2 ^ 56) with
  | none => none
  | some op =>
    let x := w.getLsbD 43
    let i : Atcia :=
      { op := op
        d := ⟨w.toNat / 2 ^ 52 % 16, Nat.mod_lt _ (by decide)⟩
        a := ⟨w.toNat / 2 ^ 48 % 16, Nat.mod_lt _ (by decide)⟩
        b := ⟨w.toNat / 2 ^ 44 % 16, Nat.mod_lt _ (by decide)⟩
        x := x
        ctl := w.extractLsb' 32 11
        imm := w.extractLsb' 0 32
        k := if x then k else 0 }
    if atciaLegal i then some i else none

/-- The instruction word of R57. -/
def encodeAtcia (i : Atcia) : DWord :=
  BitVec.ofNat 64
    (opcodeOf i.op * 2 ^ 56 + i.d.val * 2 ^ 52 + i.a.val * 2 ^ 48 + i.b.val * 2 ^ 44 +
      (if i.x then 2 ^ 43 else 0) + i.ctl.toNat * 2 ^ 32 + i.imm.toNat)

end Sys2Proof
end

