-- ==== Sys2Proof/Config.lean ====
section
/-! DEFINITION. What one device fixes (fuses) and the free values: every value that the spec leaves open after which the
machine goes on is an `opaque` function here, applied to a counter of the state. Nothing in Lean can evaluate them. -/

namespace Sys2Proof.Config

/-- `SYS_REV.STEPPING`, fused (R399). -/
opaque stepping : BitVec 8
/-- The fused serial number before the exclusion of zero and all ones (R399). -/
opaque rawSerial : BitVec 64
/-- `SYS_SERIAL`: unique to each device, never 0 and never all ones (R399). -/
def serial : BitVec 64 := if rawSerial = 0 ∨ rawSerial = BitVec.allOnes 64 then 1 else rawSerial
/-- `SYS_FW_VER.ROLLBACK`: rollback fuses blown (R399). -/
opaque rollback : BitVec 8
/-- What a byte of GDDR6 holds that nothing has written since the last full POST (R372): `powerOnByte epoch address`. -/
opaque powerOnByte : Nat → Nat → BitVec 8
/-- What a byte of the Plate Store holds that nothing has written (R372): `plateByte epoch address`. -/
opaque plateByte : Nat → Nat → BitVec 8
/-- The offset of an island's Sidereal replica from the master (R14): `replicaSkew island n`; only its value modulo 9
is used, read as −4 to 4 ns. -/
opaque replicaSkew : Nat → Nat → Nat
/-- The device's private attestation key, read modulo the group's order (R286), and the nonce of the n-th signature. -/
opaque attestationKey : Nat
opaque signNonce : Nat → Nat
/-- The bytes of an answer of the Station cores over the DOE mailbox (R329): `doeAnswer n`, as one number. -/
opaque doeAnswer : Nat → BitVec 8192
/-- What host memory answers to a read that no command carries (a slot descriptor in a host-window page, R294):
`hostByte n address`. -/
opaque hostByte : Nat → Nat → BitVec 8
/-- What Ephemeris takes for a byte of a poisoned word that it reads (R101, R154, R168): `poisonByte n address`. -/
opaque poisonByte : Nat → Nat → BitVec 8
/-- Component k of the black code of head h under a programmed output matrix (R236 states it for RGB and YCbCr output):
`programmedBlack h k`. -/
opaque programmedBlack : Nat → Nat → BitVec 12
/-- A byte of a word that ECC miscorrected (R100): `miscorrected n position`. -/
opaque miscorrected : Nat → Nat → BitVec 8
/-- The fused code of `AVS_VID` before its bound of 40 (R410). -/
opaque rawVid : BitVec 6
/-- The code that the fuses give `AVS_VID`, at most 40 (R410). -/
def fusedVid : Nat := min rawVid.toNat 40
/-- When fuse load ends after the start of a full POST, ns, before its bound of 200,000 (R373). -/
opaque fuseLoad : Nat
/-- Delay, ns, from a boundary to the rising edge of a frame pulse at the ball (R273). -/
opaque pulseDelay : Nat
/-- Bytes of board flash beyond the 4 MiB that every part has (R369). -/
opaque flashExtra : Nat
/-- Any other value the spec does not state: `freeValue n`. -/
opaque freeValue : Nat → BitVec 64

end Sys2Proof.Config
end

