-- ==== Sys2Proof/Machine/Presets.lean ====
section
/-! DEFINITION. The preset curves and kernels of the colour path and the scalers (R180, R198, R202), evaluated in
fixed point with 96 fractional bits and rounded to the nearest integer, halves away from zero (log entry 12). -/

namespace Sys2Proof.Machine.Presets

/-- 1.0 in the fixed-point form of this file. -/
def one : Nat := 2 ^ 96
/-- The number pi. -/
def piFix : Nat := 248902613312231085230521944622
/-- The natural logarithm of 2. -/
def ln2Fix : Nat := 54916777467707473351141471128

/-- The product of two fixed-point numbers. -/
def mulF (a b : Nat) : Nat := a * b / one
/-- The quotient of two fixed-point numbers. -/
def divF (a b : Nat) : Nat := a * one / b
/-- The ratio of two integers. -/
def ratio (a b : Nat) : Nat := a * one / b

/-- Taylor terms of exp(r) for 0 ≤ r < 1: adds `term`, then r/(n+1) times it, and so on. -/
def expTaylor : Nat → Nat → Nat → Nat → Nat
  | 0, _, _, _ => 0
  | fuel + 1, r, n, term => term + expTaylor fuel r (n + 1) (mulF term r / (n + 1))

/-- exp(x) for x ≥ 0. -/
def expPos (x : Nat) : Nat := expTaylor 40 (x % ln2Fix) 0 one * 2 ^ (x / ln2Fix)
/-- exp(−x) for x ≥ 0. -/
def expNeg (x : Nat) : Nat := one * one / expPos x

/-- Terms t^(2k+1)/(2k+1) of the inverse hyperbolic tangent. -/
def atanhTaylor : Nat → Nat → Nat → Nat → Nat
  | 0, _, _, _ => 0
  | fuel + 1, t2, n, p => p / (2 * n + 1) + atanhTaylor fuel t2 (n + 1) (mulF p t2)

/-- −ln(x) for 0 < x ≤ 1, in fixed point. -/
def negLn (x : Nat) : Nat :=
  let e := 96 - Nat.log2 x
  let m := x * 2 ^ e
  let t := divF (m - one) (m + one)
  e * ln2Fix - 2 * atanhTaylor 45 (mulF t t) 0 t

/-- ln(x) for x ≥ 1, in fixed point. -/
def lnGe1 (x : Nat) : Nat := negLn (one * one / x)

/-- x ^ p for 0 ≤ x ≤ 1 and p > 0. -/
def powF (x p : Nat) : Nat := if x = 0 then 0 else expNeg (mulF p (negLn x))

/-- 65,535 × v rounded to the nearest integer, halves upward (the values are not negative). -/
def stageOf (v : Nat) : Nat := (2 * 65535 * v + one) / (2 * one)

def pqM1 : Nat := ratio 2610 16384
def pqM2 : Nat := ratio (128 * 2523) 4096
def pqC1 : Nat := ratio 3424 4096
def pqC2 : Nat := ratio (32 * 2413) 4096
def pqC3 : Nat := ratio (32 * 2392) 4096
def hlgA : Nat := ratio 17883277 100000000
def hlgB : Nat := ratio 28466892 100000000
def hlgC : Nat := ratio 55991073 100000000

/-- The degamma curve V_k of preset `sel` (R198). -/
def degamma (sel k : Nat) : Nat :=
  let e := ratio k 1024
  match sel with
  | 1 => if e ≤ ratio 4045 100000 then stageOf (e * 100 / 1292)
         else stageOf (powF (divF (e + ratio 55 1000) (ratio 1055 1000)) (ratio 24 10))
  | 2 => stageOf (powF e (ratio 24 10))
  | 3 => let w := powF e (divF one pqM2)
         stageOf (powF (divF (w - pqC1) (pqC2 - mulF pqC3 w)) (divF one pqM1))
  | 4 => if 2 * k ≤ 1024 then stageOf (mulF e e / 3)
         else
           let x := if hlgC ≤ e then expPos (divF (e - hlgC) hlgA) else expNeg (divF (hlgC - e) hlgA)
           stageOf ((x + hlgB) / 12)
  | _ => 0

/-- The regamma curve V_k of preset `sel` (R202). -/
def regamma (sel k : Nat) : Nat :=
  let l := ratio k 4096
  match sel with
  | 1 => if l ≤ ratio 31308 10000000 then stageOf (l * 1292 / 100)
         else stageOf (powF l (ratio 10 24) * 1055 / 1000 - ratio 55 1000)
  | 2 => stageOf (powF l (ratio 10 24))
  | 3 => let w := powF l pqM1
         stageOf (powF (divF (pqC1 + mulF pqC2 w) (one + mulF pqC3 w)) pqM2)
  | 4 => if 12 * k ≤ 4096 then stageOf (powF (3 * l) (one / 2))
         else
           let x := 12 * l - hlgB
           let y := if one ≤ x then mulF hlgA (lnGe1 x) + hlgC else hlgC - mulF hlgA (negLn x)
           stageOf y
  | _ => 0

/-- Alternating Taylor terms of the sine. -/
def sinTaylor : Nat → Nat → Nat → Int → Int
  | 0, _, _, _ => 0
  | fuel + 1, x2, n, term => term + sinTaylor fuel x2 (n + 1) (-(term * x2 / one) / ((2 * n + 2) * (2 * n + 3) : Nat))

/-- sin(pi × x) ÷ (pi × x) for x = a ÷ b, a ≥ 0 (the cardinal sine of R180). -/
def sinc (a b : Nat) : Int :=
  if a = 0 then (one : Int)
  else
    let q := a / b
    let x := piFix * (a % b) / b
    let s := sinTaylor 40 (mulF x x) 0 (x : Int)
    let s := if q % 2 = 0 then s else -s
    s * one / ((piFix * a / b : Nat) : Int)

/-- The kernel weight of preset `p` at distance d = n ÷ 64, n ≥ 0; `a` is the Lanczos half-width (R180). Nearest takes
its one at the centre tap alone, which the caller names. -/
def kernel (p a n : Nat) (centre : Bool) : Int :=
  match p with
  | 0 => if n < 64 * a then sinc n 64 * sinc n (64 * a) / one else 0
  | 1 => if n < 64 then (ratio (64 - n) 64 : Int) else 0
  | 2 => if centre then (one : Int) else 0
  | _ => if n < 64 then ((4 * one - 6 * n * n * one / 4096 + 3 * n * n * n * one / 262144 : Nat) : Int) / 6
         else if n < 128 then (((128 - n) * (128 - n) * (128 - n) * one / 262144 : Nat) : Int) / 6
         else 0

/-- Rounding to the nearest integer, halves away from zero, of `n` ÷ `d` with d > 0. -/
def roundHalfAway (n d : Int) : Int := if 0 ≤ n then (2 * n + d) / (2 * d) else -((-2 * n + d) / (2 * d))

/-- The taps of preset `p`, phase `phi`, for `taps` taps: 8 horizontal, 6 vertical (R180). -/
def row (p taps phi : Nat) : List Int :=
  let first := taps / 2 - 1
  let centre := if phi < 32 then first else first + 1
  let ws := (List.range taps).map fun (k : Nat) =>
    kernel p (taps / 2) (Int.natAbs (((k : Int) - (first : Int)) * 64 - (phi : Int))) (k = centre)
  let total := ws.foldl (· + ·) 0
  let cs := ws.map fun w => roundHalfAway (1024 * w) total
  let rest := 1024 - cs.foldl (· + ·) 0
  cs.mapIdx fun k c => if k = centre then c + rest else c

/-- A signed tap as its 12 bits (R179). -/
def tapBits (c : Int) : Nat := (c % 4096).toNat

/-- The word of two taps 2w and 2w + 1 of a preset row. -/
def pairWord (taps : List Int) (w : Nat) : Nat :=
  tapBits (taps.getD (2 * w) 0) + tapBits (taps.getD (2 * w + 1) 0) * 2 ^ 16

/-- `HCOEF_W`w of row 64 × set + phase at reset: the preset (set mod 4) (R179). -/
def hcoefWord (r w : Nat) : Nat := pairWord (row (r / 64 % 4) 8 (r % 64)) w
/-- `VCOEF_W`w of row 64 × set + phase at reset. -/
def vcoefWord (r w : Nat) : Nat := pairWord (row (r / 64 % 4) 6 (r % 64)) w
/-- `DEGAMMA_V` entry k at reset: the identity ramp (R187). -/
def degammaWord (k : Nat) : Nat := 64 * k + (if k = 1023 then 65535 * 2 ^ 16 else 0)
/-- `REGAMMA_V` entry k at reset: the identity ramp (R187). -/
def regammaWord (k : Nat) : Nat := 16 * k + (if k = 4095 then 65535 * 2 ^ 16 else 0)

end Sys2Proof.Machine.Presets
end

