-- ==== Sys2Proof/Machine/RegMap.lean ====
section
/-! DEFINITION. The register map of BAR0 (R391), written from the register tables of spec/: where every register lies
(namespace `Reg`), where every field of it lies (namespace `Bit`), and the table that says each field's type (R6), each
register's reset domain (R396) and reset value. VF-only registers are kept at 0x100_0000 + 0x20_0000 × f + VF offset
(log entry 4). -/

namespace Sys2Proof.Machine

/-- A field of a register: its lowest bit and its width. -/
structure Fld where
  lo : Nat
  width : Nat
deriving DecidableEq, Repr

/-- The field types of R6. -/
inductive FieldType | rw | ro | wo | w1c | w1s | sh | lk
deriving DecidableEq, Repr

/-- The reset domains of R396. -/
inductive Domain | cold | core | function
deriving DecidableEq, Repr

/-- How the reset value of a register is given: a number, or one of the values that the tables give per instance. -/
inductive ResetRule
  | word (n : Nat) | stepping | serialLo | serialHi | fwVer | pmapLo | pmapHi | plateOwn | plateSite | diag
  | hcoef | vcoef | degamma | regamma | srcCfg
deriving DecidableEq, Repr

/-- One register kind of the map: base offset, (stride, count) of each replication, domain, fields with types, reset. -/
structure RegDesc where
  base : Nat
  dims : List (Nat × Nat)
  domain : Domain
  fields : List (Fld × FieldType)
  reset : ResetRule
deriving DecidableEq, Repr

namespace Reg

/-- `SYS_ISLAND_ON0`: spec/01_architecture.md. -/
def SYS_ISLAND_ON0 : Nat := 0x200
/-- `SYS_ISLAND_ON1`: spec/01_architecture.md. -/
def SYS_ISLAND_ON1 : Nat := 0x204
/-- `SYS_ISLAND_ON2`: spec/01_architecture.md. -/
def SYS_ISLAND_ON2 : Nat := 0x208
/-- `SYS_CROSS_STATUS`: spec/01_architecture.md. -/
def SYS_CROSS_STATUS : Nat := 0x20C
/-- `SYS_RESET_CTL`: spec/01_architecture.md. -/
def SYS_RESET_CTL : Nat := 0x210
/-- `CP_CTL`: spec/02_programming_model.md. -/
def CP_CTL (i : Nat) : Nat := 0x870000 + 0x400 * i
/-- `CP_STATUS`: spec/02_programming_model.md. -/
def CP_STATUS (i : Nat) : Nat := 0x870004 + 0x400 * i
/-- `CP_RING_BASE_LO`: spec/02_programming_model.md. -/
def CP_RING_BASE_LO (i : Nat) : Nat := 0x870008 + 0x400 * i
/-- `CP_RING_BASE_HI`: spec/02_programming_model.md. -/
def CP_RING_BASE_HI (i : Nat) : Nat := 0x87000C + 0x400 * i
/-- `CP_RING_SIZE`: spec/02_programming_model.md. -/
def CP_RING_SIZE (i : Nat) : Nat := 0x870010 + 0x400 * i
/-- `CP_DOORBELL`: spec/02_programming_model.md. -/
def CP_DOORBELL (i : Nat) : Nat := 0x870014 + 0x400 * i
/-- `CP_CONSUMED`: spec/02_programming_model.md. -/
def CP_CONSUMED (i : Nat) : Nat := 0x870018 + 0x400 * i
/-- `CP_FAULT_ENTRY`: spec/02_programming_model.md. -/
def CP_FAULT_ENTRY (i : Nat) : Nat := 0x87001C + 0x400 * i
/-- `CP_FAULT_PC_LO`: spec/02_programming_model.md. -/
def CP_FAULT_PC_LO (i : Nat) : Nat := 0x870020 + 0x400 * i
/-- `CP_FAULT_PC_HI`: spec/02_programming_model.md. -/
def CP_FAULT_PC_HI (i : Nat) : Nat := 0x870024 + 0x400 * i
/-- `CP_WB_ADDR_LO`: spec/02_programming_model.md. -/
def CP_WB_ADDR_LO (i : Nat) : Nat := 0x870028 + 0x400 * i
/-- `CP_WB_ADDR_HI`: spec/02_programming_model.md. -/
def CP_WB_ADDR_HI (i : Nat) : Nat := 0x87002C + 0x400 * i
/-- `CP_VIEW`: spec/02_programming_model.md. -/
def CP_VIEW (i : Nat) : Nat := 0x870030 + 0x400 * i
/-- `FSQ_CTL`: spec/02_programming_model.md. -/
def FSQ_CTL (i : Nat) : Nat := 0x878000 + 0x400 * i
/-- `FSQ_STATUS`: spec/02_programming_model.md. -/
def FSQ_STATUS (i : Nat) : Nat := 0x878004 + 0x400 * i
/-- `FSQ_ENTRY_LO`: spec/02_programming_model.md. -/
def FSQ_ENTRY_LO (i : Nat) : Nat := 0x878008 + 0x400 * i
/-- `FSQ_ENTRY_HI`: spec/02_programming_model.md. -/
def FSQ_ENTRY_HI (i : Nat) : Nat := 0x87800C + 0x400 * i
/-- `FSQ_FAULT_PC_LO`: spec/02. -/
def FSQ_FAULT_PC_LO (i : Nat) : Nat := 0x878010 + 0x400 * i
/-- `FSQ_FAULT_PC_HI`: spec/02. -/
def FSQ_FAULT_PC_HI (i : Nat) : Nat := 0x878014 + 0x400 * i
/-- `FSQ_RUN_LAST`: spec/02_programming_model.md. -/
def FSQ_RUN_LAST (i : Nat) : Nat := 0x878018 + 0x400 * i
/-- `FSQ_RUN_MAX`: spec/02_programming_model.md. -/
def FSQ_RUN_MAX (i : Nat) : Nat := 0x87801C + 0x400 * i
/-- `SYS_BENCH_CTL`: spec/02_programming_model.md. -/
def SYS_BENCH_CTL : Nat := 0x214
/-- `SYS_BENCH_COMMIT`: spec/02_programming_model.md. -/
def SYS_BENCH_COMMIT : Nat := 0x218
/-- `SYS_BENCH_RESULT`: spec/02_programming_model.md. -/
def SYS_BENCH_RESULT : Nat := 0x21C
/-- `PMAP_ENTRY_LO`: spec/04_frame_store_and_plate_map.md. -/
def PMAP_ENTRY_LO (i : Nat) : Nat := 0x100000 + 0x8 * i
/-- `PMAP_ENTRY_HI`: spec/04_frame_store_and_plate_map.md. -/
def PMAP_ENTRY_HI (i : Nat) : Nat := 0x100004 + 0x8 * i
/-- `SYS_PMAP_STATUS`: spec/04_frame_store_and_plate_map.md. -/
def SYS_PMAP_STATUS : Nat := 0x224
/-- `SYS_MEM_CFG`: spec/04_frame_store_and_plate_map.md. -/
def SYS_MEM_CFG : Nat := 0x220
/-- `MC_ECC_STATUS`: spec/04_frame_store_and_plate_map.md. -/
def MC_ECC_STATUS (i : Nat) : Nat := 0x8C0000 + 0x1000 * i
/-- `MC_ECC_CE_COUNT`: spec/04_frame_store_and_plate_map.md. -/
def MC_ECC_CE_COUNT (i : Nat) : Nat := 0x8C0004 + 0x1000 * i
/-- `MC_ECC_UE_ADDR_LO`: spec/04_frame_store_and_plate_map.md. -/
def MC_ECC_UE_ADDR_LO (i : Nat) : Nat := 0x8C0008 + 0x1000 * i
/-- `MC_ECC_UE_ADDR_HI`: spec/04_frame_store_and_plate_map.md. -/
def MC_ECC_UE_ADDR_HI (i : Nat) : Nat := 0x8C000C + 0x1000 * i
/-- `SYS_RETIRE_CTL`: spec/04_frame_store_and_plate_map.md. -/
def SYS_RETIRE_CTL : Nat := 0x230
/-- `SYS_RETIRE_REQ`: spec/04_frame_store_and_plate_map.md. -/
def SYS_RETIRE_REQ : Nat := 0x234
/-- `SYS_RETIRE_STATUS`: spec/04_frame_store_and_plate_map.md. -/
def SYS_RETIRE_STATUS : Nat := 0x238
/-- `PST_OWN`: spec/05_plate_store.md. -/
def PST_OWN (i : Nat) : Nat := 0x80000 + 0x40 * i
/-- `PST_OWN_REQ`: spec/05_plate_store.md. -/
def PST_OWN_REQ (i : Nat) : Nat := 0x80004 + 0x40 * i
/-- `PST_OWN_STATUS`: spec/05_plate_store.md. -/
def PST_OWN_STATUS (i : Nat) : Nat := 0x80008 + 0x40 * i
/-- `PST_PLATE_ERR`: spec/05_plate_store.md. -/
def PST_PLATE_ERR (i : Nat) : Nat := 0x8000C + 0x40 * i
/-- `PST_COLLIDE`: spec/05_plate_store.md. -/
def PST_COLLIDE (i : Nat) : Nat := 0x80010 + 0x40 * i
/-- `PST_CE_ROW`: spec/05_plate_store.md. -/
def PST_CE_ROW (i j : Nat) : Nat := 0x80014 + 0x40 * i + 0x4 * j
/-- `PST_BLINK_CTL`: spec/05_plate_store.md. -/
def PST_BLINK_CTL (i : Nat) : Nat := 0x81000 + 0x100 * i
/-- `PST_BLINK_STATUS`: spec/05_plate_store.md. -/
def PST_BLINK_STATUS (i : Nat) : Nat := 0x81004 + 0x100 * i
/-- `PST_SITE`: spec/05_plate_store.md. -/
def PST_SITE (i : Nat) : Nat := 0x82000 + 0x10 * i
/-- `PST_REPAIR_ROW_LO`: spec/05_plate_store.md. -/
def PST_REPAIR_ROW_LO (i : Nat) : Nat := 0x82004 + 0x10 * i
/-- `PST_REPAIR_ROW_HI`: spec/05_plate_store.md. -/
def PST_REPAIR_ROW_HI (i : Nat) : Nat := 0x82008 + 0x10 * i
/-- `PST_REPAIR_COL`: spec/05_plate_store.md. -/
def PST_REPAIR_COL (i : Nat) : Nat := 0x8200C + 0x10 * i
/-- `PST_SUBST_REQ`: spec/05_plate_store.md. -/
def PST_SUBST_REQ : Nat := 0x83000
/-- `PST_SUBST_STATUS`: spec/05_plate_store.md. -/
def PST_SUBST_STATUS : Nat := 0x83004
/-- `FET_CTL`: spec/06_fetch_occulter_apertures.md. -/
def FET_CTL : Nat := 0x3B0000
/-- `FET_TAG_STATUS`: spec/06_fetch_occulter_apertures.md. -/
def FET_TAG_STATUS : Nat := 0x3B0004
/-- `FET_TAG_HWM`: spec/06_fetch_occulter_apertures.md. -/
def FET_TAG_HWM : Nat := 0x3B0008
/-- `FET_TAG_RESERVED`: spec/06_fetch_occulter_apertures.md. -/
def FET_TAG_RESERVED : Nat := 0x3B000C
/-- `FET_HOST_STATUS`: spec/06_fetch_occulter_apertures.md. -/
def FET_HOST_STATUS : Nat := 0x3B0010
/-- `FET_AP_SEL`: spec/06_fetch_occulter_apertures.md. -/
def FET_AP_SEL : Nat := 0x3B0020
/-- `FET_AP_CREDIT_LO`: spec/06_fetch_occulter_apertures.md. -/
def FET_AP_CREDIT_LO : Nat := 0x3B0024
/-- `FET_AP_CREDIT_HI`: spec/06_fetch_occulter_apertures.md. -/
def FET_AP_CREDIT_HI : Nat := 0x3B0028
/-- `FET_PIPE_QUOTA`: spec/06_fetch_occulter_apertures.md. -/
def FET_PIPE_QUOTA (i : Nat) : Nat := 0x3B0100 + 0x4 * i
/-- `FET_PIPE_HOLD`: spec/06_fetch_occulter_apertures.md. -/
def FET_PIPE_HOLD (i : Nat) : Nat := 0x3B0200 + 0x4 * i
/-- `OCC_HEAD_STAT`: spec/06_fetch_occulter_apertures.md. -/
def OCC_HEAD_STAT (i : Nat) : Nat := 0x3B4000 + 0x8 * i
/-- `OCC_HEAD_UNPLANNED`: spec/06_fetch_occulter_apertures.md. -/
def OCC_HEAD_UNPLANNED (i : Nat) : Nat := 0x3B4004 + 0x8 * i
/-- `MC_SCHED_STATUS`: spec/06_fetch_occulter_apertures.md. -/
def MC_SCHED_STATUS (i : Nat) : Nat := 0x8C0010 + 0x1000 * i
/-- `MC_SCHED_SLACK`: spec/06_fetch_occulter_apertures.md. -/
def MC_SCHED_SLACK (i : Nat) : Nat := 0x8C0014 + 0x1000 * i
/-- `CSC_M`: spec/08_colour_blending_dithering.md. -/
def CSC_M (i j : Nat) : Nat := 0x400000 + 0x40 * i + 0x4 * j
/-- `CSC_O`: spec/08_colour_blending_dithering.md. -/
def CSC_O (i j : Nat) : Nat := 0x400024 + 0x40 * i + 0x4 * j
/-- `GAMUT_M`: spec/08. -/
def GAMUT_M (i j : Nat) : Nat := 0x404000 + 0x40 * i + 0x4 * j
/-- `OUT_M`: spec/08. -/
def OUT_M (i j : Nat) : Nat := 0x406000 + 0x40 * i + 0x4 * j
/-- `OUT_O`: spec/08. -/
def OUT_O (i j : Nat) : Nat := 0x406024 + 0x40 * i + 0x4 * j
/-- `HEAD_CCTL`: spec/08_colour_blending_dithering.md. -/
def HEAD_CCTL (i : Nat) : Nat := 0x408000 + 0x10 * i
/-- `CLUT_ADDR_LO`: spec/08_colour_blending_dithering.md. -/
def CLUT_ADDR_LO (i : Nat) : Nat := 0x408800 + 0x8 * i
/-- `CLUT_ADDR_HI`: spec/08_colour_blending_dithering.md. -/
def CLUT_ADDR_HI (i : Nat) : Nat := 0x408804 + 0x8 * i
/-- `CLR_TABLE_FN`: spec/08_colour_blending_dithering.md. -/
def CLR_TABLE_FN (i : Nat) : Nat := 0x409000 + 0x4 * i
/-- `HCOEF_W`: spec/08. -/
def HCOEF_W (i j : Nat) : Nat := 0x410000 + 0x10 * i + 0x4 * j
/-- `VCOEF_W`: spec/08. -/
def VCOEF_W (i j : Nat) : Nat := 0x414000 + 0x10 * i + 0x4 * j
/-- `DEGAMMA_V`: spec/08_colour_blending_dithering.md. -/
def DEGAMMA_V (i : Nat) : Nat := 0x440000 + 0x4 * i
/-- `REGAMMA_V`: spec/08. -/
def REGAMMA_V (i : Nat) : Nat := 0x600000 + 0x4 * i
/-- `EPH_SVC_LOCAL`: spec/09_ephemeris_admission_and_commit.md. -/
def EPH_SVC_LOCAL : Nat := 0x3B8000
/-- `EPH_SVC_HOST`: spec/09_ephemeris_admission_and_commit.md. -/
def EPH_SVC_HOST : Nat := 0x3B8004
/-- `EPH_DEMAND_LOCAL`: spec/09_ephemeris_admission_and_commit.md. -/
def EPH_DEMAND_LOCAL : Nat := 0x3B8008
/-- `EPH_DEMAND_HOST`: spec/09_ephemeris_admission_and_commit.md. -/
def EPH_DEMAND_HOST : Nat := 0x3B800C
/-- `EPH_GC_RATE`: spec/09_ephemeris_admission_and_commit.md. -/
def EPH_GC_RATE : Nat := 0x3B8010
/-- `EPH_STATUS`: spec/09_ephemeris_admission_and_commit.md. -/
def EPH_STATUS : Nat := 0x3B8014
/-- `EPH_QUEUE`: spec/09_ephemeris_admission_and_commit.md. -/
def EPH_QUEUE : Nat := 0x3B8018
/-- `EPH_GRP_FN`: spec/09_ephemeris_admission_and_commit.md. -/
def EPH_GRP_FN (i : Nat) : Nat := 0x3B9000 + 0x10 * i
/-- `EPH_GRP_STATUS`: spec/09_ephemeris_admission_and_commit.md. -/
def EPH_GRP_STATUS (i : Nat) : Nat := 0x3B9004 + 0x10 * i
/-- `EPH_GRP_FRAME`: spec/09_ephemeris_admission_and_commit.md. -/
def EPH_GRP_FRAME (i : Nat) : Nat := 0x3B9008 + 0x10 * i
/-- `EPH_GRP_NEXT`: spec/09_ephemeris_admission_and_commit.md. -/
def EPH_GRP_NEXT (i : Nat) : Nat := 0x3B900C + 0x10 * i
/-- `EPH_GRP_MEMBERS`: spec/09_ephemeris_admission_and_commit.md. -/
def EPH_GRP_MEMBERS (i j : Nat) : Nat := 0x3B9800 + 0x10 * i + 0x4 * j
/-- `EPH_FN_LOCAL`: spec/09_ephemeris_admission_and_commit.md. -/
def EPH_FN_LOCAL (i : Nat) : Nat := 0x3BA000 + 0x10 * i
/-- `EPH_FN_HOST`: spec/09_ephemeris_admission_and_commit.md. -/
def EPH_FN_HOST (i : Nat) : Nat := 0x3BA004 + 0x10 * i
/-- `EPH_FN_USED`: spec/09_ephemeris_admission_and_commit.md. -/
def EPH_FN_USED (i : Nat) : Nat := 0x3BA008 + 0x10 * i
/-- `PRT_QUAD_MODE`: spec/10_heads_timing_and_display_ports.md. -/
def PRT_QUAD_MODE (i : Nat) : Nat := 0x380000 + 0x1000 * i
/-- `PRT_LINK_CTL`: spec/10_heads_timing_and_display_ports.md. -/
def PRT_LINK_CTL (i : Nat) : Nat := 0x380004 + 0x400 * i
/-- `PRT_LINK_STATUS`: spec/10_heads_timing_and_display_ports.md. -/
def PRT_LINK_STATUS (i : Nat) : Nat := 0x380008 + 0x400 * i
/-- `PRT_HPD`: spec/10_heads_timing_and_display_ports.md. -/
def PRT_HPD (i : Nat) : Nat := 0x38000C + 0x400 * i
/-- `PRT_AUX_CMD`: spec/10_heads_timing_and_display_ports.md. -/
def PRT_AUX_CMD (i : Nat) : Nat := 0x380010 + 0x400 * i
/-- `PRT_AUX_STATUS`: spec/10_heads_timing_and_display_ports.md. -/
def PRT_AUX_STATUS (i : Nat) : Nat := 0x380014 + 0x400 * i
/-- `PRT_AUX_DATA`: spec/10_heads_timing_and_display_ports.md. -/
def PRT_AUX_DATA (i j : Nat) : Nat := 0x380018 + 0x400 * i + 0x4 * j
/-- `PRT_MAN_CTL`: spec/10_heads_timing_and_display_ports.md. -/
def PRT_MAN_CTL (i : Nat) : Nat := 0x380028 + 0x400 * i
/-- `PRT_LANE`: spec/10_heads_timing_and_display_ports.md. -/
def PRT_LANE (i : Nat) : Nat := 0x38002C + 0x400 * i
/-- `CD_CTL`: spec/11_clock_drives_and_genlock.md. -/
def CD_CTL (i : Nat) : Nat := 0x800000 + 0x100 * i
/-- `CD_DIV`: spec/11_clock_drives_and_genlock.md. -/
def CD_DIV (i : Nat) : Nat := 0x800004 + 0x100 * i
/-- `CD_FRAC`: spec/11_clock_drives_and_genlock.md. -/
def CD_FRAC (i : Nat) : Nat := 0x800008 + 0x100 * i
/-- `CD_FMAX`: spec/11_clock_drives_and_genlock.md. -/
def CD_FMAX (i : Nat) : Nat := 0x80000C + 0x100 * i
/-- `CD_STATUS`: spec/11_clock_drives_and_genlock.md. -/
def CD_STATUS (i : Nat) : Nat := 0x800010 + 0x100 * i
/-- `CD_NOW_FRAC`: spec/11_clock_drives_and_genlock.md. -/
def CD_NOW_FRAC (i : Nat) : Nat := 0x800014 + 0x100 * i
/-- `CD_NOW_N`: spec/11_clock_drives_and_genlock.md. -/
def CD_NOW_N (i : Nat) : Nat := 0x800018 + 0x100 * i
/-- `CD_REF`: spec/11_clock_drives_and_genlock.md. -/
def CD_REF (i : Nat) : Nat := 0x80001C + 0x100 * i
/-- `CD_PHASE_OFS`: spec/11_clock_drives_and_genlock.md. -/
def CD_PHASE_OFS (i : Nat) : Nat := 0x800020 + 0x100 * i
/-- `CD_PHASE_ERR`: spec/11_clock_drives_and_genlock.md. -/
def CD_PHASE_ERR (i : Nat) : Nat := 0x800024 + 0x100 * i
/-- `CD_SLOPE`: spec/11_clock_drives_and_genlock.md. -/
def CD_SLOPE (i : Nat) : Nat := 0x800028 + 0x100 * i
/-- `CD_QUAL`: spec/11_clock_drives_and_genlock.md. -/
def CD_QUAL (i : Nat) : Nat := 0x80002C + 0x100 * i
/-- `CD_ALIGN_W`: spec/11_clock_drives_and_genlock.md. -/
def CD_ALIGN_W (i j : Nat) : Nat := 0x800030 + 0x100 * i + 0x4 * j
/-- `CD_PROF_CTL`: spec/11_clock_drives_and_genlock.md. -/
def CD_PROF_CTL (i : Nat) : Nat := 0x800040 + 0x100 * i
/-- `CD_PROF_SEG`: spec/11_clock_drives_and_genlock.md. -/
def CD_PROF_SEG (i j : Nat) : Nat := 0x800080 + 0x100 * i + 0x4 * j
/-- `CD_SPARE_REQ`: spec/11_clock_drives_and_genlock.md. -/
def CD_SPARE_REQ : Nat := 0x800A00
/-- `CD_SPARE_STATUS`: spec/11_clock_drives_and_genlock.md. -/
def CD_SPARE_STATUS : Nat := 0x800A04
/-- `CD_OUT_CTL`: spec/11_clock_drives_and_genlock.md. -/
def CD_OUT_CTL (i : Nat) : Nat := 0x801000 + 0x10 * i
/-- `CD_OUT_DIV`: spec/11_clock_drives_and_genlock.md. -/
def CD_OUT_DIV (i : Nat) : Nat := 0x801004 + 0x10 * i
/-- `SID_NOW_LO`: spec/11_clock_drives_and_genlock.md. -/
def SID_NOW_LO : Nat := 0x802000
/-- `SID_NOW_HI`: spec/11_clock_drives_and_genlock.md. -/
def SID_NOW_HI : Nat := 0x802004
/-- `SID_CTL`: spec/11_clock_drives_and_genlock.md. -/
def SID_CTL : Nat := 0x802008
/-- `SID_SET_LO`: spec/11_clock_drives_and_genlock.md. -/
def SID_SET_LO : Nat := 0x80200C
/-- `SID_SET_HI`: spec/11_clock_drives_and_genlock.md. -/
def SID_SET_HI : Nat := 0x802010
/-- `SID_RATE`: spec/11_clock_drives_and_genlock.md. -/
def SID_RATE : Nat := 0x802014
/-- `SID_PTM_OFS_LO`: spec/11_clock_drives_and_genlock.md. -/
def SID_PTM_OFS_LO : Nat := 0x802018
/-- `SID_PTM_OFS_HI`: spec/11_clock_drives_and_genlock.md. -/
def SID_PTM_OFS_HI : Nat := 0x80201C
/-- `SID_ALARM_LO`: spec/11_clock_drives_and_genlock.md. -/
def SID_ALARM_LO (i : Nat) : Nat := 0x802100 + 0x10 * i
/-- `SID_ALARM_HI`: spec/11_clock_drives_and_genlock.md. -/
def SID_ALARM_HI (i : Nat) : Nat := 0x802104 + 0x10 * i
/-- `SID_ALARM_PER`: spec/11_clock_drives_and_genlock.md. -/
def SID_ALARM_PER (i : Nat) : Nat := 0x802108 + 0x10 * i
/-- `SID_ALARM_CTL`: spec/11_clock_drives_and_genlock.md. -/
def SID_ALARM_CTL (i : Nat) : Nat := 0x80210C + 0x10 * i
/-- `JRN_CTL`: spec/12_photometer_and_evidence_journal.md. -/
def JRN_CTL : Nat := 0x810000
/-- `JRN_STATUS`: spec/12_photometer_and_evidence_journal.md. -/
def JRN_STATUS : Nat := 0x810004
/-- `JRN_RING_BASE_LO`: spec/12_photometer_and_evidence_journal.md. -/
def JRN_RING_BASE_LO : Nat := 0x810008
/-- `JRN_RING_BASE_HI`: spec/12_photometer_and_evidence_journal.md. -/
def JRN_RING_BASE_HI : Nat := 0x81000C
/-- `JRN_WR`: spec/12_photometer_and_evidence_journal.md. -/
def JRN_WR : Nat := 0x810010
/-- `JRN_RD`: spec/12_photometer_and_evidence_journal.md. -/
def JRN_RD : Nat := 0x810014
/-- `JRN_WB_ADDR_LO`: spec/12_photometer_and_evidence_journal.md. -/
def JRN_WB_ADDR_LO : Nat := 0x810018
/-- `JRN_WB_ADDR_HI`: spec/12_photometer_and_evidence_journal.md. -/
def JRN_WB_ADDR_HI : Nat := 0x81001C
/-- `JRN_SEQ_LO`: spec/12_photometer_and_evidence_journal.md. -/
def JRN_SEQ_LO : Nat := 0x810020
/-- `JRN_SEQ_HI`: spec/12_photometer_and_evidence_journal.md. -/
def JRN_SEQ_HI : Nat := 0x810024
/-- `JRN_EPOCH`: spec/12_photometer_and_evidence_journal.md. -/
def JRN_EPOCH : Nat := 0x810028
/-- `JRN_SEAL_STATUS`: spec/12_photometer_and_evidence_journal.md. -/
def JRN_SEAL_STATUS : Nat := 0x81002C
/-- `JRN_HEAD_W`: spec/12_photometer_and_evidence_journal.md. -/
def JRN_HEAD_W (i : Nat) : Nat := 0x810030 + 0x4 * i
/-- `JRN_DROPPED`: spec/12_photometer_and_evidence_journal.md. -/
def JRN_DROPPED : Nat := 0x810040
/-- `ING_CFG`: spec/13_ingest_meters_and_dma.md. -/
def ING_CFG (i : Nat) : Nat := 0x820000 + 0x40 * i
/-- `ING_CIR`: spec/13_ingest_meters_and_dma.md. -/
def ING_CIR (i : Nat) : Nat := 0x820004 + 0x40 * i
/-- `ING_PIR`: spec/13_ingest_meters_and_dma.md. -/
def ING_PIR (i : Nat) : Nat := 0x820008 + 0x40 * i
/-- `ING_CBS`: spec/13_ingest_meters_and_dma.md. -/
def ING_CBS (i : Nat) : Nat := 0x82000C + 0x40 * i
/-- `ING_PBS`: spec/13_ingest_meters_and_dma.md. -/
def ING_PBS (i : Nat) : Nat := 0x820010 + 0x40 * i
/-- `ING_SLOT_BASE_LO`: spec/13_ingest_meters_and_dma.md. -/
def ING_SLOT_BASE_LO (i : Nat) : Nat := 0x820014 + 0x40 * i
/-- `ING_SLOT_BASE_HI`: spec/13_ingest_meters_and_dma.md. -/
def ING_SLOT_BASE_HI (i : Nat) : Nat := 0x820018 + 0x40 * i
/-- `ING_FENCE_LO`: spec/13_ingest_meters_and_dma.md. -/
def ING_FENCE_LO (i : Nat) : Nat := 0x82001C + 0x40 * i
/-- `ING_FENCE_HI`: spec/13_ingest_meters_and_dma.md. -/
def ING_FENCE_HI (i : Nat) : Nat := 0x820020 + 0x40 * i
/-- `ING_OPEN`: spec/13_ingest_meters_and_dma.md. -/
def ING_OPEN (i : Nat) : Nat := 0x820024 + 0x40 * i
/-- `ING_DONE`: spec/13_ingest_meters_and_dma.md. -/
def ING_DONE (i : Nat) : Nat := 0x820028 + 0x40 * i
/-- `ING_STATUS`: spec/13_ingest_meters_and_dma.md. -/
def ING_STATUS (i : Nat) : Nat := 0x82002C + 0x40 * i
/-- `ING_YELLOW`: spec/13_ingest_meters_and_dma.md. -/
def ING_YELLOW (i : Nat) : Nat := 0x820030 + 0x40 * i
/-- `ING_RED`: spec/13_ingest_meters_and_dma.md. -/
def ING_RED (i : Nat) : Nat := 0x820034 + 0x40 * i
/-- `ING_FENCE_VAL_LO`: spec/13_ingest_meters_and_dma.md. -/
def ING_FENCE_VAL_LO (i : Nat) : Nat := 0x820038 + 0x40 * i
/-- `ING_FENCE_VAL_HI`: spec/13_ingest_meters_and_dma.md. -/
def ING_FENCE_VAL_HI (i : Nat) : Nat := 0x82003C + 0x40 * i
/-- `DMA_CTL`: spec/13_ingest_meters_and_dma.md. -/
def DMA_CTL (i : Nat) : Nat := 0x860000 + 0x100 * i
/-- `DMA_STATUS`: spec/13_ingest_meters_and_dma.md. -/
def DMA_STATUS (i : Nat) : Nat := 0x860004 + 0x100 * i
/-- `DMA_DESC_LO`: spec/13_ingest_meters_and_dma.md. -/
def DMA_DESC_LO (i : Nat) : Nat := 0x860008 + 0x100 * i
/-- `DMA_DESC_HI`: spec/13_ingest_meters_and_dma.md. -/
def DMA_DESC_HI (i : Nat) : Nat := 0x86000C + 0x100 * i
/-- `DMA_ERR_ADDR_LO`: spec/13_ingest_meters_and_dma.md. -/
def DMA_ERR_ADDR_LO (i : Nat) : Nat := 0x860010 + 0x100 * i
/-- `DMA_ERR_ADDR_HI`: spec/13_ingest_meters_and_dma.md. -/
def DMA_ERR_ADDR_HI (i : Nat) : Nat := 0x860014 + 0x100 * i
/-- `DMA_REMAIN_LO`: spec/13_ingest_meters_and_dma.md. -/
def DMA_REMAIN_LO (i : Nat) : Nat := 0x860018 + 0x100 * i
/-- `DMA_REMAIN_HI`: spec/13_ingest_meters_and_dma.md. -/
def DMA_REMAIN_HI (i : Nat) : Nat := 0x86001C + 0x100 * i
/-- `DMA_GLOBAL`: spec/13_ingest_meters_and_dma.md. -/
def DMA_GLOBAL : Nat := 0x864000
/-- `PCI_LINK_STATUS`: spec/14_pcie_host_interface.md. -/
def PCI_LINK_STATUS : Nat := 0x40000
/-- `PCI_PART_STATUS`: spec/14_pcie_host_interface.md. -/
def PCI_PART_STATUS : Nat := 0x40010
/-- `PCI_HEAD_FN`: spec/14_pcie_host_interface.md. -/
def PCI_HEAD_FN (i : Nat) : Nat := 0x41000 + 0x4 * i
/-- `PCI_FN_LAYER`: spec/14_pcie_host_interface.md. -/
def PCI_FN_LAYER (i : Nat) : Nat := 0x42000 + 0x20 * i
/-- `PCI_FN_STREAM`: spec/14_pcie_host_interface.md. -/
def PCI_FN_STREAM (i : Nat) : Nat := 0x42004 + 0x20 * i
/-- `PCI_FN_DMA_LO`: spec/14_pcie_host_interface.md. -/
def PCI_FN_DMA_LO (i : Nat) : Nat := 0x42008 + 0x20 * i
/-- `PCI_FN_DMA_HI`: spec/14_pcie_host_interface.md. -/
def PCI_FN_DMA_HI (i : Nat) : Nat := 0x4200C + 0x20 * i
/-- `PCI_FN_CTL`: spec/14_pcie_host_interface.md. -/
def PCI_FN_CTL (i : Nat) : Nat := 0x42010 + 0x20 * i
/-- `PCI_APT_BASE_LO`: spec/14_pcie_host_interface.md. -/
def PCI_APT_BASE_LO (i : Nat) : Nat := 0x42014 + 0x20 * i
/-- `PCI_APT_BASE_HI`: spec/14_pcie_host_interface.md. -/
def PCI_APT_BASE_HI (i : Nat) : Nat := 0x42018 + 0x20 * i
/-- `EVC_SRC_CFG`: spec/15_event_controller_and_finder.md. -/
def EVC_SRC_CFG (i : Nat) : Nat := 0x10000 + 0x8 * i
/-- `EVC_SRC_COUNT`: spec/15_event_controller_and_finder.md. -/
def EVC_SRC_COUNT (i : Nat) : Nat := 0x10004 + 0x8 * i
/-- `EVC_VEC_CFG`: spec/15_event_controller_and_finder.md. -/
def EVC_VEC_CFG (i : Nat) : Nat := 0x20000 + 0x4 * i
/-- `EVC_CTL`: spec/15_event_controller_and_finder.md. -/
def EVC_CTL : Nat := 0x30000
/-- `EVC_FN_IDLE`: spec/15_event_controller_and_finder.md. -/
def EVC_FN_IDLE (i : Nat) : Nat := 0x30100 + 0x4 * i
/-- `EVC_SC_CTL`: spec/15_event_controller_and_finder.md. -/
def EVC_SC_CTL (i : Nat) : Nat := 0x30200 + 0x10 * i
/-- `EVC_FN_RING_BASE_LO`: spec/15_event_controller_and_finder.md. -/
def EVC_FN_RING_BASE_LO (i : Nat) : Nat := 0x31000 + 0x20 * i
/-- `EVC_FN_RING_BASE_HI`: spec/15_event_controller_and_finder.md. -/
def EVC_FN_RING_BASE_HI (i : Nat) : Nat := 0x31004 + 0x20 * i
/-- `EVC_FN_RING_CTL`: spec/15_event_controller_and_finder.md. -/
def EVC_FN_RING_CTL (i : Nat) : Nat := 0x31008 + 0x20 * i
/-- `EVC_FN_RING_WR`: spec/15_event_controller_and_finder.md. -/
def EVC_FN_RING_WR (i : Nat) : Nat := 0x3100C + 0x20 * i
/-- `EVC_FN_RING_RD`: spec/15_event_controller_and_finder.md. -/
def EVC_FN_RING_RD (i : Nat) : Nat := 0x31010 + 0x20 * i
/-- `AON_WATCH`: spec/15_event_controller_and_finder.md. -/
def AON_WATCH (i : Nat) : Nat := 0x8B0000 + 0x4 * i
/-- `AON_WAKE_CAUSE`: spec/15_event_controller_and_finder.md. -/
def AON_WAKE_CAUSE : Nat := 0x8B0100
/-- `AON_WAKE_TIME_LO`: spec/15_event_controller_and_finder.md. -/
def AON_WAKE_TIME_LO : Nat := 0x8B0104
/-- `AON_WAKE_TIME_HI`: spec/15_event_controller_and_finder.md. -/
def AON_WAKE_TIME_HI : Nat := 0x8B0108
/-- `AON_STATUS`: spec/15_event_controller_and_finder.md. -/
def AON_STATUS : Nat := 0x8B010C
/-- `PWR_CTL`: spec/16_power_thermal_and_spares.md. -/
def PWR_CTL : Nat := 0x8A0000
/-- `PWR_STATUS`: spec/16_power_thermal_and_spares.md. -/
def PWR_STATUS : Nat := 0x8A0004
/-- `PWR_LAT`: spec/16_power_thermal_and_spares.md. -/
def PWR_LAT (i : Nat) : Nat := 0x8A0100 + 0x4 * i
/-- `THM_CTL`: spec/16_power_thermal_and_spares.md. -/
def THM_CTL : Nat := 0x8A1000
/-- `THM_STATUS`: spec/16_power_thermal_and_spares.md. -/
def THM_STATUS : Nat := 0x8A1004
/-- `THM_SHED`: spec/16_power_thermal_and_spares.md. -/
def THM_SHED : Nat := 0x8A1008
/-- `THM_LIFE`: spec/16_power_thermal_and_spares.md. -/
def THM_LIFE : Nat := 0x8A100C
/-- `THM_SENSOR`: spec/16_power_thermal_and_spares.md. -/
def THM_SENSOR (i : Nat) : Nat := 0x8A1040 + 0x4 * i
/-- `SYS_PIPE_SWAP_REQ`: spec/16_power_thermal_and_spares.md. -/
def SYS_PIPE_SWAP_REQ : Nat := 0x240
/-- `SYS_PIPE_SWAP_STATUS`: spec/16_power_thermal_and_spares.md. -/
def SYS_PIPE_SWAP_STATUS : Nat := 0x244
/-- `SYS_PIPE_CTL`: spec/16_power_thermal_and_spares.md. -/
def SYS_PIPE_CTL : Nat := 0x248
/-- `SYS_SPARE_STATUS`: spec/16_power_thermal_and_spares.md. -/
def SYS_SPARE_STATUS : Nat := 0x24C
/-- `SYS_FAIL_REC0`: spec/17_startup_self_test_safe_station.md. -/
def SYS_FAIL_REC0 : Nat := 0x100
/-- `SYS_FAIL_REC1`: spec/17_startup_self_test_safe_station.md. -/
def SYS_FAIL_REC1 : Nat := 0x104
/-- `SYS_FAIL_TIME_LO`: spec/17_startup_self_test_safe_station.md. -/
def SYS_FAIL_TIME_LO : Nat := 0x108
/-- `SYS_FAIL_TIME_HI`: spec/17_startup_self_test_safe_station.md. -/
def SYS_FAIL_TIME_HI : Nat := 0x10C
/-- `SYS_STRAP`: spec/17_startup_self_test_safe_station.md. -/
def SYS_STRAP : Nat := 0x250
/-- `SYS_POST`: spec/17_startup_self_test_safe_station.md. -/
def SYS_POST : Nat := 0x254
/-- `SYS_SELFTEST`: spec/17_startup_self_test_safe_station.md. -/
def SYS_SELFTEST : Nat := 0x258
/-- `SYS_SS_CMD`: spec/17_startup_self_test_safe_station.md. -/
def SYS_SS_CMD : Nat := 0x300
/-- `SYS_SS_ARG0`: spec/17_startup_self_test_safe_station.md. -/
def SYS_SS_ARG0 : Nat := 0x304
/-- `SYS_SS_ARG1`: spec/17_startup_self_test_safe_station.md. -/
def SYS_SS_ARG1 : Nat := 0x308
/-- `SYS_SS_STATUS`: spec/17_startup_self_test_safe_station.md. -/
def SYS_SS_STATUS : Nat := 0x30C
/-- `SYS_SS_DATA`: spec/17_startup_self_test_safe_station.md. -/
def SYS_SS_DATA (i : Nat) : Nat := 0x400 + 0x4 * i
/-- `SYS_ID`: spec/19_register_map.md. -/
def SYS_ID : Nat := 0x0
/-- `SYS_REV`: spec/19_register_map.md. -/
def SYS_REV : Nat := 0x4
/-- `SYS_SERIAL_LO`: spec/19_register_map.md. -/
def SYS_SERIAL_LO : Nat := 0x8
/-- `SYS_SERIAL_HI`: spec/19_register_map.md. -/
def SYS_SERIAL_HI : Nat := 0xC
/-- `SYS_FW_VER`: spec/19_register_map.md. -/
def SYS_FW_VER : Nat := 0x10
/-- `SYS_LOCK`: spec/19_register_map.md. -/
def SYS_LOCK : Nat := 0x14
/-- `SYS_REG_STATUS`: spec/19_register_map.md. -/
def SYS_REG_STATUS : Nat := 0x18
/-- `SEQ_SHADOW_OVERLAP`: spec/19_register_map.md. -/
def SEQ_SHADOW_OVERLAP : Nat := 0x898000
/-- `VF_PMAP_SEL`: spec/19_register_map.md. -/
def VF_PMAP_SEL (i : Nat) : Nat := 0x1003000 + 0x200000 * i
/-- `VF_PMAP_LO`: spec/19_register_map.md. -/
def VF_PMAP_LO (i : Nat) : Nat := 0x1003004 + 0x200000 * i
/-- `VF_PMAP_HI`: spec/19_register_map.md. -/
def VF_PMAP_HI (i : Nat) : Nat := 0x1003008 + 0x200000 * i
/-- `VF_CLR_ADDR`: spec/19_register_map.md. -/
def VF_CLR_ADDR (i : Nat) : Nat := 0x1003010 + 0x200000 * i
/-- `VF_CLR_DATA`: spec/19_register_map.md. -/
def VF_CLR_DATA (i : Nat) : Nat := 0x1003014 + 0x200000 * i
/-- `VF_FN_HEADS_W`: spec/19. -/
def VF_FN_HEADS_W (i j : Nat) : Nat := 0x1001050 + 0x200000 * i + 0x4 * j
/-- `MSIX_ADDR_LO`: spec/14. -/
def MSIX_ADDR_LO (i : Nat) : Nat := 0x50000 + 0x10 * i
/-- `MSIX_ADDR_HI`: spec/14. -/
def MSIX_ADDR_HI (i : Nat) : Nat := 0x50004 + 0x10 * i
/-- `MSIX_DATA`: spec/14. -/
def MSIX_DATA (i : Nat) : Nat := 0x50008 + 0x10 * i
/-- `MSIX_CTRL`: spec/14. -/
def MSIX_CTRL (i : Nat) : Nat := 0x5000C + 0x10 * i
/-- `VF_MSIX_ADDR_LO`: spec/14. -/
def VF_MSIX_ADDR_LO (i j : Nat) : Nat := 0x1050000 + 0x200000 * i + 0x10 * j
/-- `VF_MSIX_ADDR_HI`: spec/14. -/
def VF_MSIX_ADDR_HI (i j : Nat) : Nat := 0x1050004 + 0x200000 * i + 0x10 * j
/-- `VF_MSIX_DATA`: spec/14. -/
def VF_MSIX_DATA (i j : Nat) : Nat := 0x1050008 + 0x200000 * i + 0x10 * j
/-- `VF_MSIX_CTRL`: spec/14. -/
def VF_MSIX_CTRL (i j : Nat) : Nat := 0x105000C + 0x200000 * i + 0x10 * j

end Reg

namespace Bit

def SYS_ISLAND_ON0_ON : Fld := ⟨0, 32⟩
def SYS_ISLAND_ON1_ON : Fld := ⟨0, 32⟩
def SYS_ISLAND_ON2_ON : Fld := ⟨0, 6⟩
def SYS_CROSS_STATUS_LAST_ISLAND : Fld := ⟨0, 7⟩
def SYS_CROSS_STATUS_SLEEP_ACCESS : Fld := ⟨8, 1⟩
def SYS_CROSS_STATUS_CROSS_RETRY : Fld := ⟨9, 1⟩
def SYS_CROSS_STATUS_CROSS_LOSS : Fld := ⟨10, 1⟩
def SYS_CROSS_STATUS_LOSS_COUNT : Fld := ⟨16, 16⟩
def SYS_RESET_CTL_PERST_SCOPE : Fld := ⟨0, 1⟩
def CP_CTL_ENABLE : Fld := ⟨0, 1⟩
def CP_CTL_RESUME : Fld := ⟨1, 1⟩
def CP_CTL_SKIP : Fld := ⟨2, 1⟩
def CP_CTL_WB_EN : Fld := ⟨3, 1⟩
def CP_STATUS_STATE : Fld := ⟨0, 3⟩
def CP_STATUS_WAIT_TIMEOUT : Fld := ⟨3, 1⟩
def CP_STATUS_FAULT_CODE : Fld := ⟨4, 8⟩
def CP_STATUS_DB_OVER : Fld := ⟨12, 1⟩
def CP_STATUS_SH_DROP : Fld := ⟨13, 1⟩
def CP_STATUS_SH_DROP_COUNT : Fld := ⟨16, 16⟩
def CP_RING_BASE_LO_BASE : Fld := ⟨12, 20⟩
def CP_RING_BASE_HI_BASE : Fld := ⟨0, 5⟩
def CP_RING_SIZE_SIZE : Fld := ⟨0, 4⟩
def CP_DOORBELL_PRODUCER : Fld := ⟨0, 32⟩
def CP_CONSUMED_CONSUMED : Fld := ⟨0, 32⟩
def CP_FAULT_ENTRY_ENTRY : Fld := ⟨0, 32⟩
def CP_FAULT_PC_LO_PC : Fld := ⟨0, 32⟩
def CP_FAULT_PC_HI_PC : Fld := ⟨0, 2⟩
def CP_WB_ADDR_LO_ADDR : Fld := ⟨3, 29⟩
def CP_WB_ADDR_HI_ADDR : Fld := ⟨0, 5⟩
def CP_VIEW_ACTIVE : Fld := ⟨0, 1⟩
def FSQ_CTL_ENABLE : Fld := ⟨0, 1⟩
def FSQ_CTL_RESTART : Fld := ⟨1, 1⟩
def FSQ_CTL_AUTO_RESTART : Fld := ⟨2, 1⟩
def FSQ_CTL_FREE_RUN : Fld := ⟨3, 1⟩
def FSQ_CTL_START_LINE : Fld := ⟨16, 14⟩
def FSQ_STATUS_STATE : Fld := ⟨0, 3⟩
def FSQ_STATUS_FAULT_CODE : Fld := ⟨4, 8⟩
def FSQ_STATUS_OVERRUN : Fld := ⟨12, 1⟩
def FSQ_STATUS_FAULT_RUNS : Fld := ⟨14, 2⟩
def FSQ_STATUS_OVERRUN_COUNT : Fld := ⟨16, 16⟩
def FSQ_ENTRY_LO_ADDR : Fld := ⟨3, 29⟩
def FSQ_ENTRY_HI_ADDR : Fld := ⟨0, 5⟩
def FSQ_FAULT_PC_LO_PC : Fld := ⟨0, 32⟩
def FSQ_FAULT_PC_HI_PC : Fld := ⟨0, 2⟩
def FSQ_RUN_LAST_NS : Fld := ⟨0, 32⟩
def FSQ_RUN_MAX_NS : Fld := ⟨0, 32⟩
def SYS_BENCH_CTL_BENCH_EN : Fld := ⟨0, 1⟩
def SYS_BENCH_CTL_BENCH_REFUSED : Fld := ⟨1, 1⟩
def SYS_BENCH_COMMIT_GROUPS : Fld := ⟨0, 32⟩
def SYS_BENCH_RESULT_RESULT : Fld := ⟨0, 4⟩
def SYS_BENCH_RESULT_BUSY : Fld := ⟨4, 1⟩
def PMAP_ENTRY_LO_VALID : Fld := ⟨0, 1⟩
def PMAP_ENTRY_LO_READ : Fld := ⟨1, 1⟩
def PMAP_ENTRY_LO_WRITE : Fld := ⟨2, 1⟩
def PMAP_ENTRY_LO_FN : Fld := ⟨3, 5⟩
def PMAP_ENTRY_LO_SHARE_READ : Fld := ⟨8, 1⟩
def PMAP_ENTRY_LO_REMAPPED : Fld := ⟨9, 1⟩
def PMAP_ENTRY_LO_RESERVE : Fld := ⟨10, 1⟩
def PMAP_ENTRY_LO_TARGET : Fld := ⟨20, 12⟩
def PMAP_ENTRY_HI_TARGET : Fld := ⟨0, 32⟩
def SYS_PMAP_STATUS_LAST_PAGE : Fld := ⟨0, 17⟩
def SYS_PMAP_STATUS_LAST_FN : Fld := ⟨17, 5⟩
def SYS_PMAP_STATUS_LAST_WRITE : Fld := ⟨22, 1⟩
def SYS_PMAP_STATUS_REFUSED : Fld := ⟨23, 1⟩
def SYS_PMAP_STATUS_REFUSE_COUNT : Fld := ⟨24, 8⟩
def SYS_MEM_CFG_DENSITY : Fld := ⟨0, 1⟩
def SYS_MEM_CFG_CLAMSHELL : Fld := ⟨1, 1⟩
def SYS_MEM_CFG_ECC_EN : Fld := ⟨2, 1⟩
def SYS_MEM_CFG_RATE : Fld := ⟨4, 5⟩
def SYS_MEM_CFG_VALID_PAGES : Fld := ⟨15, 17⟩
def MC_ECC_STATUS_CE : Fld := ⟨0, 1⟩
def MC_ECC_STATUS_UE : Fld := ⟨1, 1⟩
def MC_ECC_STATUS_UE_COUNT : Fld := ⟨16, 8⟩
def MC_ECC_CE_COUNT_COUNT : Fld := ⟨0, 32⟩
def MC_ECC_UE_ADDR_LO_ADDR : Fld := ⟨0, 32⟩
def MC_ECC_UE_ADDR_HI_ADDR : Fld := ⟨0, 5⟩
def SYS_RETIRE_CTL_CE_THRESHOLD : Fld := ⟨0, 8⟩
def SYS_RETIRE_CTL_UE_RETIRE : Fld := ⟨8, 1⟩
def SYS_RETIRE_REQ_PAGE : Fld := ⟨0, 16⟩
def SYS_RETIRE_STATUS_USED : Fld := ⟨0, 11⟩
def SYS_RETIRE_STATUS_BUSY : Fld := ⟨12, 1⟩
def SYS_RETIRE_STATUS_RETIRE_DROP : Fld := ⟨13, 1⟩
def SYS_RETIRE_STATUS_QUEUE_FULL : Fld := ⟨14, 1⟩
def SYS_RETIRE_STATUS_REQ_REFUSED : Fld := ⟨15, 1⟩
def SYS_RETIRE_STATUS_PENDING : Fld := ⟨16, 5⟩
def PST_OWN_OWNER : Fld := ⟨0, 4⟩
def PST_OWN_FN : Fld := ⟨4, 5⟩
def PST_OWN_TRANSIT : Fld := ⟨9, 1⟩
def PST_OWN_FIXED : Fld := ⟨10, 1⟩
def PST_OWN_SUBST : Fld := ⟨11, 1⟩
def PST_OWN_FAILED : Fld := ⟨12, 1⟩
def PST_OWN_SITE : Fld := ⟨16, 6⟩
def PST_OWN_REQ_NEW_OWNER : Fld := ⟨0, 4⟩
def PST_OWN_REQ_NEW_FN : Fld := ⟨4, 5⟩
def PST_OWN_REQ_SCRUB : Fld := ⟨9, 1⟩
def PST_OWN_STATUS_REFUSE_CODE : Fld := ⟨0, 4⟩
def PST_OWN_STATUS_REFUSED : Fld := ⟨4, 1⟩
def PST_OWN_STATUS_DONE : Fld := ⟨5, 1⟩
def PST_PLATE_ERR_NONOWNER_RD : Fld := ⟨0, 1⟩
def PST_PLATE_ERR_NONOWNER_WR : Fld := ⟨1, 1⟩
def PST_PLATE_ERR_CE : Fld := ⟨2, 1⟩
def PST_PLATE_ERR_UE : Fld := ⟨3, 1⟩
def PST_PLATE_ERR_RD_COUNT : Fld := ⟨16, 8⟩
def PST_PLATE_ERR_WR_COUNT : Fld := ⟨24, 8⟩
def PST_COLLIDE_COUNT : Fld := ⟨0, 16⟩
def PST_COLLIDE_LANE_KEPT : Fld := ⟨16, 6⟩
def PST_COLLIDE_LANE_LOST : Fld := ⟨22, 6⟩
def PST_COLLIDE_COLLIDE : Fld := ⟨28, 1⟩
def PST_CE_ROW_BANK : Fld := ⟨0, 4⟩
def PST_CE_ROW_ROW : Fld := ⟨4, 8⟩
def PST_CE_ROW_COUNT : Fld := ⟨16, 8⟩
def PST_CE_ROW_VALID : Fld := ⟨24, 1⟩
def PST_BLINK_CTL_GO : Fld := ⟨0, 1⟩
def PST_BLINK_CTL_STOP : Fld := ⟨1, 1⟩
def PST_BLINK_CTL_ALG : Fld := ⟨2, 2⟩
def PST_BLINK_CTL_PRESERVE : Fld := ⟨4, 1⟩
def PST_BLINK_CTL_REPAIR : Fld := ⟨5, 1⟩
def PST_BLINK_CTL_PLATE : Fld := ⟨6, 5⟩
def PST_BLINK_CTL_SPARE : Fld := ⟨11, 1⟩
def PST_BLINK_CTL_FIRST_STRIPE : Fld := ⟨12, 7⟩
def PST_BLINK_CTL_LAST_STRIPE : Fld := ⟨19, 7⟩
def PST_BLINK_STATUS_STATE : Fld := ⟨0, 3⟩
def PST_BLINK_STATUS_REFUSE_CODE : Fld := ⟨3, 4⟩
def PST_BLINK_STATUS_REFUSED : Fld := ⟨7, 1⟩
def PST_BLINK_STATUS_STRIPE : Fld := ⟨8, 7⟩
def PST_BLINK_STATUS_FAULTS : Fld := ⟨16, 8⟩
def PST_BLINK_STATUS_ROWS_FIXED : Fld := ⟨24, 8⟩
def PST_SITE_STATE : Fld := ⟨0, 2⟩
def PST_SITE_PLATE : Fld := ⟨2, 5⟩
def PST_REPAIR_ROW_LO_ROWS : Fld := ⟨0, 32⟩
def PST_REPAIR_ROW_HI_ROWS : Fld := ⟨0, 32⟩
def PST_REPAIR_COL_COLS : Fld := ⟨0, 32⟩
def PST_SUBST_REQ_PLATE : Fld := ⟨0, 5⟩
def PST_SUBST_STATUS_PLATE : Fld := ⟨0, 5⟩
def PST_SUBST_STATUS_BUSY : Fld := ⟨5, 1⟩
def PST_SUBST_STATUS_DONE : Fld := ⟨6, 1⟩
def PST_SUBST_STATUS_REFUSED : Fld := ⟨7, 1⟩
def PST_SUBST_STATUS_REFUSE_CODE : Fld := ⟨8, 4⟩
def PST_SUBST_STATUS_SPARES_FREE : Fld := ⟨12, 2⟩
def FET_CTL_HOST_LAT : Fld := ⟨0, 8⟩
def FET_CTL_HOST_TIMEOUT : Fld := ⟨8, 8⟩
def FET_TAG_STATUS_IN_USE : Fld := ⟨0, 18⟩
def FET_TAG_STATUS_EXHAUST : Fld := ⟨18, 1⟩
def FET_TAG_HWM_HWM : Fld := ⟨0, 18⟩
def FET_TAG_RESERVED_RESERVED : Fld := ⟨0, 18⟩
def FET_HOST_STATUS_TIMEOUT : Fld := ⟨0, 1⟩
def FET_HOST_STATUS_ERROR : Fld := ⟨1, 1⟩
def FET_HOST_STATUS_TIMEOUT_COUNT : Fld := ⟨16, 8⟩
def FET_HOST_STATUS_ERROR_COUNT : Fld := ⟨24, 8⟩
def FET_AP_SEL_PIPE : Fld := ⟨0, 6⟩
def FET_AP_SEL_SLOT : Fld := ⟨6, 12⟩
def FET_AP_CREDIT_LO_CREDIT : Fld := ⟨0, 32⟩
def FET_AP_CREDIT_HI_CREDIT : Fld := ⟨0, 16⟩
def FET_AP_CREDIT_HI_VALID : Fld := ⟨16, 1⟩
def FET_PIPE_QUOTA_QUOTA : Fld := ⟨0, 18⟩
def FET_PIPE_HOLD_HOLD : Fld := ⟨0, 1⟩
def FET_PIPE_HOLD_WORDS : Fld := ⟨8, 24⟩
def OCC_HEAD_STAT_MAX_DEPTH : Fld := ⟨0, 5⟩
def OCC_HEAD_STAT_HIDDEN_PAIRS : Fld := ⟨8, 24⟩
def OCC_HEAD_UNPLANNED_UNPLANNED : Fld := ⟨0, 1⟩
def OCC_HEAD_UNPLANNED_COUNT : Fld := ⟨16, 16⟩
def MC_SCHED_STATUS_LATE : Fld := ⟨0, 1⟩
def MC_SCHED_STATUS_LATE_COUNT : Fld := ⟨16, 16⟩
def MC_SCHED_SLACK_MIN_SLACK : Fld := ⟨0, 32⟩
def CSC_M_COEF : Fld := ⟨0, 18⟩
def CSC_O_OFFSET : Fld := ⟨0, 20⟩
def GAMUT_M_COEF : Fld := ⟨0, 18⟩
def OUT_M_COEF : Fld := ⟨0, 18⟩
def OUT_O_OFFSET : Fld := ⟨0, 20⟩
def HEAD_CCTL_GAMUT_SEL : Fld := ⟨0, 2⟩
def HEAD_CCTL_REGAMMA_SEL : Fld := ⟨4, 3⟩
def HEAD_CCTL_OUT_SEL : Fld := ⟨8, 3⟩
def HEAD_CCTL_OUT_RANGE : Fld := ⟨12, 1⟩
def HEAD_CCTL_OUT_SAMPLING : Fld := ⟨13, 2⟩
def HEAD_CCTL_OUT_BPC : Fld := ⟨16, 2⟩
def HEAD_CCTL_DITHER_EN : Fld := ⟨18, 1⟩
def HEAD_CCTL_DITHER_TEMPORAL : Fld := ⟨19, 1⟩
def CLUT_ADDR_LO_ADDR : Fld := ⟨0, 32⟩
def CLUT_ADDR_HI_ADDR : Fld := ⟨0, 5⟩
def CLR_TABLE_FN_CSC_FN : Fld := ⟨0, 5⟩
def CLR_TABLE_FN_DEGAMMA_FN : Fld := ⟨8, 5⟩
def CLR_TABLE_FN_CLUT_FN : Fld := ⟨16, 5⟩
def HCOEF_W_TAP0 : Fld := ⟨0, 12⟩
def HCOEF_W_TAP1 : Fld := ⟨16, 12⟩
def VCOEF_W_TAP0 : Fld := ⟨0, 12⟩
def VCOEF_W_TAP1 : Fld := ⟨16, 12⟩
def DEGAMMA_V_V : Fld := ⟨0, 16⟩
def DEGAMMA_V_V_END : Fld := ⟨16, 16⟩
def REGAMMA_V_V : Fld := ⟨0, 16⟩
def REGAMMA_V_V_END : Fld := ⟨16, 16⟩
def EPH_SVC_LOCAL_CAP : Fld := ⟨0, 21⟩
def EPH_SVC_HOST_CAP : Fld := ⟨0, 18⟩
def EPH_DEMAND_LOCAL_DEMAND : Fld := ⟨0, 21⟩
def EPH_DEMAND_HOST_DEMAND : Fld := ⟨0, 18⟩
def EPH_GC_RATE_RATE : Fld := ⟨0, 17⟩
def EPH_STATUS_MOVED : Fld := ⟨0, 1⟩
def EPH_STATUS_LATE_ACK : Fld := ⟨1, 1⟩
def EPH_STATUS_SPLIT : Fld := ⟨2, 1⟩
def EPH_STATUS_MOVE_COUNT : Fld := ⟨16, 16⟩
def EPH_QUEUE_WAITING : Fld := ⟨0, 10⟩
def EPH_QUEUE_BUSY : Fld := ⟨16, 6⟩
def EPH_GRP_FN_FN : Fld := ⟨0, 5⟩
def EPH_GRP_STATUS_LAST_RESULT : Fld := ⟨0, 4⟩
def EPH_GRP_STATUS_EVAL : Fld := ⟨4, 1⟩
def EPH_GRP_STATUS_PENDING : Fld := ⟨5, 4⟩
def EPH_GRP_FRAME_ACT_FRAME : Fld := ⟨0, 32⟩
def EPH_GRP_NEXT_NEXT_FRAME : Fld := ⟨0, 32⟩
def EPH_GRP_MEMBERS_MEMBERS : Fld := ⟨0, 32⟩
def EPH_FN_LOCAL_SHARE : Fld := ⟨0, 21⟩
def EPH_FN_HOST_SHARE : Fld := ⟨0, 18⟩
def EPH_FN_USED_USED : Fld := ⟨0, 21⟩
def PRT_QUAD_MODE_MODE : Fld := ⟨0, 2⟩
def PRT_QUAD_MODE_REFUSED : Fld := ⟨2, 1⟩
def PRT_LINK_CTL_MAX_RATE : Fld := ⟨0, 3⟩
def PRT_LINK_CTL_POLICY : Fld := ⟨4, 2⟩
def PRT_LINK_CTL_AUTO_RETRY : Fld := ⟨6, 1⟩
def PRT_LINK_CTL_RETRAIN : Fld := ⟨7, 1⟩
def PRT_LINK_STATUS_STATE : Fld := ⟨0, 3⟩
def PRT_LINK_STATUS_RATE : Fld := ⟨3, 3⟩
def PRT_LINK_STATUS_LANES : Fld := ⟨6, 2⟩
def PRT_LINK_STATUS_LTTPRS : Fld := ⟨8, 4⟩
def PRT_LINK_STATUS_CTL_REFUSED : Fld := ⟨12, 1⟩
def PRT_LINK_STATUS_TRAIN_FAILED : Fld := ⟨13, 1⟩
def PRT_LINK_STATUS_FAIL_COUNT : Fld := ⟨16, 8⟩
def PRT_LINK_STATUS_TRAIN_COUNT : Fld := ⟨24, 8⟩
def PRT_HPD_LEVEL : Fld := ⟨0, 1⟩
def PRT_HPD_CONNECTED : Fld := ⟨1, 1⟩
def PRT_HPD_CONN_CHANGE : Fld := ⟨2, 1⟩
def PRT_HPD_IRQ : Fld := ⟨3, 1⟩
def PRT_HPD_IRQ_COUNT : Fld := ⟨8, 8⟩
def PRT_HPD_GLITCH_COUNT : Fld := ⟨16, 8⟩
def PRT_AUX_CMD_ADDR : Fld := ⟨0, 20⟩
def PRT_AUX_CMD_CMD : Fld := ⟨20, 4⟩
def PRT_AUX_CMD_LEN : Fld := ⟨24, 4⟩
def PRT_AUX_CMD_ADDR_ONLY : Fld := ⟨28, 1⟩
def PRT_AUX_CMD_GO : Fld := ⟨30, 1⟩
def PRT_AUX_STATUS_BUSY : Fld := ⟨0, 1⟩
def PRT_AUX_STATUS_DONE : Fld := ⟨1, 1⟩
def PRT_AUX_STATUS_GO_LOST : Fld := ⟨2, 1⟩
def PRT_AUX_STATUS_RESULT : Fld := ⟨4, 3⟩
def PRT_AUX_STATUS_REPLY : Fld := ⟨8, 4⟩
def PRT_AUX_STATUS_BYTES : Fld := ⟨12, 5⟩
def PRT_AUX_DATA_DATA : Fld := ⟨0, 32⟩
def PRT_MAN_CTL_RATE : Fld := ⟨0, 3⟩
def PRT_MAN_CTL_LANES : Fld := ⟨3, 2⟩
def PRT_MAN_CTL_PATTERN : Fld := ⟨8, 4⟩
def PRT_MAN_CTL_FFE : Fld := ⟨16, 16⟩
def PRT_LANE_SUBST_REQ : Fld := ⟨0, 1⟩
def PRT_LANE_LOOPBACK_REQ : Fld := ⟨1, 1⟩
def PRT_LANE_SUBST_LANE : Fld := ⟨2, 2⟩
def PRT_LANE_REFUSE_CODE : Fld := ⟨4, 4⟩
def PRT_LANE_REFUSED : Fld := ⟨8, 1⟩
def PRT_LANE_SUBST_DONE : Fld := ⟨9, 1⟩
def PRT_LANE_LOOP_DONE : Fld := ⟨10, 1⟩
def PRT_LANE_LOOP_FAIL : Fld := ⟨11, 1⟩
def PRT_LANE_SUBSTITUTED : Fld := ⟨12, 1⟩
def PRT_LANE_DEGRADED : Fld := ⟨13, 1⟩
def PRT_LANE_SPARE_FREE : Fld := ⟨14, 1⟩
def CD_CTL_EN : Fld := ⟨0, 1⟩
def CD_CTL_REF_SEL : Fld := ⟨1, 2⟩
def CD_CTL_REF_KIND : Fld := ⟨3, 1⟩
def CD_CTL_RETURN : Fld := ⟨4, 2⟩
def CD_CTL_SPARE_AUTO : Fld := ⟨6, 1⟩
def CD_CTL_APPLY : Fld := ⟨7, 1⟩
def CD_CTL_RELOCK : Fld := ⟨8, 1⟩
def CD_CTL_REACQUIRE : Fld := ⟨9, 1⟩
def CD_DIV_N : Fld := ⟨0, 9⟩
def CD_DIV_D : Fld := ⟨16, 6⟩
def CD_FRAC_F : Fld := ⟨0, 32⟩
def CD_FMAX_FMAX : Fld := ⟨0, 20⟩
def CD_STATUS_STATE : Fld := ⟨0, 3⟩
def CD_STATUS_PIN_LOCK : Fld := ⟨3, 1⟩
def CD_STATUS_PHASE_LOCKED : Fld := ⟨4, 1⟩
def CD_STATUS_REF_VALID : Fld := ⟨5, 1⟩
def CD_STATUS_SUBST : Fld := ⟨6, 1⟩
def CD_STATUS_LOCK_LOST : Fld := ⟨7, 1⟩
def CD_STATUS_LOCK_FAIL : Fld := ⟨8, 1⟩
def CD_STATUS_APPLY_REFUSED : Fld := ⟨9, 1⟩
def CD_STATUS_REF_LOST : Fld := ⟨10, 1⟩
def CD_STATUS_ALIGN_MISMATCH : Fld := ⟨11, 1⟩
def CD_STATUS_PROFILE_REFUSED : Fld := ⟨12, 1⟩
def CD_STATUS_RELOCK_COUNT : Fld := ⟨16, 16⟩
def CD_NOW_FRAC_F : Fld := ⟨0, 32⟩
def CD_NOW_N_N : Fld := ⟨0, 9⟩
def CD_REF_NUM : Fld := ⟨0, 16⟩
def CD_REF_DEN : Fld := ⟨16, 16⟩
def CD_PHASE_OFS_OFS : Fld := ⟨0, 32⟩
def CD_PHASE_ERR_ERR : Fld := ⟨0, 32⟩
def CD_SLOPE_SLOPE : Fld := ⟨0, 12⟩
def CD_SLOPE_OFS_LIMIT : Fld := ⟨16, 12⟩
def CD_QUAL_QUAL_MS : Fld := ⟨0, 14⟩
def CD_QUAL_TOL : Fld := ⟨16, 10⟩
def CD_ALIGN_W_ALIGN : Fld := ⟨0, 32⟩
def CD_PROF_CTL_GO : Fld := ⟨0, 1⟩
def CD_PROF_CTL_STOP : Fld := ⟨1, 1⟩
def CD_PROF_CTL_LAST : Fld := ⟨2, 4⟩
def CD_PROF_CTL_LOOP : Fld := ⟨6, 1⟩
def CD_PROF_CTL_RUNNING : Fld := ⟨7, 1⟩
def CD_PROF_CTL_SEG : Fld := ⟨8, 4⟩
def CD_PROF_SEG_TARGET : Fld := ⟨0, 16⟩
def CD_PROF_SEG_SLOPE : Fld := ⟨16, 12⟩
def CD_SPARE_REQ_DRIVE : Fld := ⟨0, 4⟩
def CD_SPARE_STATUS_DRIVE : Fld := ⟨0, 4⟩
def CD_SPARE_STATUS_BUSY : Fld := ⟨4, 1⟩
def CD_SPARE_STATUS_DONE : Fld := ⟨5, 1⟩
def CD_SPARE_STATUS_REFUSED : Fld := ⟨6, 1⟩
def CD_SPARE_STATUS_REFUSE_CODE : Fld := ⟨7, 4⟩
def CD_OUT_CTL_FMT : Fld := ⟨0, 3⟩
def CD_OUT_CTL_PULSE : Fld := ⟨3, 1⟩
def CD_OUT_CTL_SRC : Fld := ⟨4, 3⟩
def CD_OUT_CTL_PULSE_HEAD : Fld := ⟨8, 7⟩
def CD_OUT_CTL_PULSE_W : Fld := ⟨16, 8⟩
def CD_OUT_CTL_CFG_ERR : Fld := ⟨24, 1⟩
def CD_OUT_DIV_DIV : Fld := ⟨0, 12⟩
def SID_NOW_LO_NOW : Fld := ⟨0, 32⟩
def SID_NOW_HI_NOW : Fld := ⟨0, 32⟩
def SID_CTL_PTM_MODE : Fld := ⟨0, 2⟩
def SID_CTL_PTM_STEP : Fld := ⟨2, 1⟩
def SID_CTL_PTM_MS : Fld := ⟨16, 10⟩
def SID_CTL_STEP_REFUSED : Fld := ⟨26, 1⟩
def SID_CTL_PTM_VALID : Fld := ⟨27, 1⟩
def SID_SET_LO_SET : Fld := ⟨0, 32⟩
def SID_SET_HI_SET : Fld := ⟨0, 32⟩
def SID_RATE_RATE : Fld := ⟨0, 32⟩
def SID_PTM_OFS_LO_OFS : Fld := ⟨0, 32⟩
def SID_PTM_OFS_HI_OFS : Fld := ⟨0, 32⟩
def SID_ALARM_LO_AT : Fld := ⟨0, 32⟩
def SID_ALARM_HI_AT : Fld := ⟨0, 32⟩
def SID_ALARM_PER_PER : Fld := ⟨0, 32⟩
def SID_ALARM_CTL_EN : Fld := ⟨0, 1⟩
def SID_ALARM_CTL_PERIODIC : Fld := ⟨1, 1⟩
def SID_ALARM_CTL_FIRED : Fld := ⟨2, 1⟩
def JRN_CTL_EN : Fld := ⟨0, 1⟩
def JRN_CTL_CHAN : Fld := ⟨1, 6⟩
def JRN_CTL_RING_SIZE : Fld := ⟨7, 4⟩
def JRN_CTL_WB_EN : Fld := ⟨11, 1⟩
def JRN_CTL_SEAL_EN : Fld := ⟨12, 1⟩
def JRN_CTL_CP_NOW : Fld := ⟨13, 1⟩
def JRN_STATUS_STATE : Fld := ⟨0, 3⟩
def JRN_STATUS_RING_ERR : Fld := ⟨3, 1⟩
def JRN_STATUS_RING_FULL : Fld := ⟨4, 1⟩
def JRN_STATUS_GAP : Fld := ⟨5, 1⟩
def JRN_STATUS_BUFFERED : Fld := ⟨16, 16⟩
def JRN_RING_BASE_LO_BASE : Fld := ⟨12, 20⟩
def JRN_RING_BASE_HI_BASE : Fld := ⟨0, 5⟩
def JRN_WR_WR : Fld := ⟨0, 32⟩
def JRN_RD_RD : Fld := ⟨0, 32⟩
def JRN_WB_ADDR_LO_ADDR : Fld := ⟨3, 29⟩
def JRN_WB_ADDR_HI_ADDR : Fld := ⟨0, 5⟩
def JRN_SEQ_LO_SEQ : Fld := ⟨0, 32⟩
def JRN_SEQ_HI_SEQ : Fld := ⟨0, 32⟩
def JRN_EPOCH_EPOCH : Fld := ⟨0, 32⟩
def JRN_SEAL_STATUS_NEXT : Fld := ⟨0, 12⟩
def JRN_SEAL_STATUS_DONE : Fld := ⟨12, 1⟩
def JRN_SEAL_STATUS_SKIPPED : Fld := ⟨13, 1⟩
def JRN_HEAD_W_HEADS : Fld := ⟨0, 32⟩
def JRN_DROPPED_COUNT : Fld := ⟨0, 32⟩
def ING_CFG_EN : Fld := ⟨0, 1⟩
def ING_CFG_FEED : Fld := ⟨1, 1⟩
def ING_CFG_RED_ACT : Fld := ⟨2, 1⟩
def ING_CFG_LEN_CHECK : Fld := ⟨3, 1⟩
def ING_CFG_FENCE_EN : Fld := ⟨4, 1⟩
def ING_CFG_SLOTS : Fld := ⟨5, 8⟩
def ING_CFG_FN : Fld := ⟨13, 5⟩
def ING_CFG_CFG_REFUSED : Fld := ⟨18, 1⟩
def ING_CIR_CIR : Fld := ⟨0, 18⟩
def ING_PIR_PIR : Fld := ⟨0, 18⟩
def ING_CBS_CBS : Fld := ⟨0, 25⟩
def ING_PBS_PBS : Fld := ⟨0, 25⟩
def ING_SLOT_BASE_LO_BASE : Fld := ⟨6, 26⟩
def ING_SLOT_BASE_HI_BASE : Fld := ⟨0, 5⟩
def ING_FENCE_LO_ADDR : Fld := ⟨3, 29⟩
def ING_FENCE_HI_ADDR : Fld := ⟨0, 5⟩
def ING_OPEN_SLOT : Fld := ⟨0, 8⟩
def ING_OPEN_OPEN : Fld := ⟨8, 1⟩
def ING_DONE_DONE : Fld := ⟨0, 1⟩
def ING_STATUS_REFUSE_CODE : Fld := ⟨0, 3⟩
def ING_STATUS_OPEN_REFUSED : Fld := ⟨3, 1⟩
def ING_STATUS_INCOMPLETE : Fld := ⟨4, 1⟩
def ING_STATUS_CAUSE : Fld := ⟨5, 3⟩
def ING_STATUS_NEWEST : Fld := ⟨8, 8⟩
def ING_STATUS_HAS_NEWEST : Fld := ⟨16, 1⟩
def ING_STATUS_PROT_DROP : Fld := ⟨17, 1⟩
def ING_YELLOW_COUNT : Fld := ⟨0, 32⟩
def ING_RED_COUNT : Fld := ⟨0, 32⟩
def ING_FENCE_VAL_LO_FENCE : Fld := ⟨0, 32⟩
def ING_FENCE_VAL_HI_FENCE : Fld := ⟨0, 32⟩
def DMA_CTL_START : Fld := ⟨0, 1⟩
def DMA_CTL_STOP : Fld := ⟨1, 1⟩
def DMA_CTL_RESUME : Fld := ⟨2, 1⟩
def DMA_CTL_ABORT : Fld := ⟨3, 1⟩
def DMA_CTL_PRIO : Fld := ⟨4, 2⟩
def DMA_CTL_SRC : Fld := ⟨6, 3⟩
def DMA_CTL_STREAM : Fld := ⟨9, 12⟩
def DMA_CTL_HEAD : Fld := ⟨21, 7⟩
def DMA_STATUS_STATE : Fld := ⟨0, 3⟩
def DMA_STATUS_DONE : Fld := ⟨3, 1⟩
def DMA_STATUS_DONE_ERR : Fld := ⟨4, 1⟩
def DMA_STATUS_KICK_LOST : Fld := ⟨5, 1⟩
def DMA_STATUS_ERR_CODE : Fld := ⟨6, 4⟩
def DMA_STATUS_ERR_WRITE : Fld := ⟨10, 1⟩
def DMA_STATUS_DONE_COUNT : Fld := ⟨16, 16⟩
def DMA_DESC_LO_ADDR : Fld := ⟨6, 26⟩
def DMA_DESC_HI_ADDR : Fld := ⟨0, 5⟩
def DMA_ERR_ADDR_LO_ADDR : Fld := ⟨0, 32⟩
def DMA_ERR_ADDR_HI_ADDR : Fld := ⟨0, 5⟩
def DMA_REMAIN_LO_BYTES : Fld := ⟨0, 32⟩
def DMA_REMAIN_HI_BYTES : Fld := ⟨0, 1⟩
def DMA_GLOBAL_PLATE : Fld := ⟨0, 5⟩
def PCI_LINK_STATUS_LINK_UP : Fld := ⟨0, 1⟩
def PCI_LINK_STATUS_WIDTH : Fld := ⟨1, 2⟩
def PCI_LINK_STATUS_RATE : Fld := ⟨3, 3⟩
def PCI_LINK_STATUS_DEGRADED : Fld := ⟨6, 1⟩
def PCI_LINK_STATUS_LINK_LOST : Fld := ⟨7, 1⟩
def PCI_LINK_STATUS_L0P_DECLINED : Fld := ⟨16, 16⟩
def PCI_PART_STATUS_REFUSE_CODE : Fld := ⟨0, 3⟩
def PCI_PART_STATUS_REFUSED : Fld := ⟨3, 1⟩
def PCI_PART_STATUS_LAST_FN : Fld := ⟨4, 5⟩
def PCI_HEAD_FN_FN : Fld := ⟨0, 5⟩
def PCI_FN_LAYER_BASE : Fld := ⟨0, 12⟩
def PCI_FN_LAYER_COUNT : Fld := ⟨16, 13⟩
def PCI_FN_STREAM_BASE : Fld := ⟨0, 12⟩
def PCI_FN_STREAM_COUNT : Fld := ⟨16, 13⟩
def PCI_FN_DMA_LO_MASK : Fld := ⟨0, 32⟩
def PCI_FN_DMA_HI_MASK : Fld := ⟨0, 32⟩
def PCI_FN_CTL_RECLAIM : Fld := ⟨0, 1⟩
def PCI_FN_CTL_IDE_REQUIRED : Fld := ⟨1, 1⟩
def PCI_APT_BASE_LO_BASE : Fld := ⟨20, 12⟩
def PCI_APT_BASE_HI_BASE : Fld := ⟨0, 5⟩
def EVC_SRC_CFG_EN : Fld := ⟨0, 1⟩
def EVC_SRC_CFG_TARGET : Fld := ⟨1, 2⟩
def EVC_SRC_CFG_VECTOR : Fld := ⟨3, 11⟩
def EVC_SRC_CFG_PRIO : Fld := ⟨16, 8⟩
def EVC_SRC_CFG_FN : Fld := ⟨24, 5⟩
def EVC_SRC_CFG_ALL_VISIBLE : Fld := ⟨29, 1⟩
def EVC_SRC_CFG_PENDING : Fld := ⟨30, 1⟩
def EVC_SRC_CFG_HELD : Fld := ⟨31, 1⟩
def EVC_SRC_COUNT_COUNT : Fld := ⟨0, 32⟩
def EVC_VEC_CFG_MOD : Fld := ⟨0, 10⟩
def EVC_VEC_CFG_MOD_ACTIVE : Fld := ⟨10, 1⟩
def EVC_CTL_GROUP_SPLIT : Fld := ⟨0, 3⟩
def EVC_CTL_FALLBACK : Fld := ⟨3, 2⟩
def EVC_CTL_FALLBACK_VEC : Fld := ⟨5, 11⟩
def EVC_CTL_HOLD_MS : Fld := ⟨16, 16⟩
def EVC_FN_IDLE_IDLE : Fld := ⟨0, 1⟩
def EVC_FN_IDLE_ASLEEP : Fld := ⟨1, 1⟩
def EVC_SC_CTL_MOD : Fld := ⟨0, 10⟩
def EVC_SC_CTL_DEPTH : Fld := ⟨10, 4⟩
def EVC_SC_CTL_WAITING : Fld := ⟨14, 1⟩
def EVC_SC_CTL_ASLEEP : Fld := ⟨15, 1⟩
def EVC_FN_RING_BASE_LO_BASE : Fld := ⟨12, 20⟩
def EVC_FN_RING_BASE_HI_BASE : Fld := ⟨0, 5⟩
def EVC_FN_RING_CTL_EN : Fld := ⟨0, 1⟩
def EVC_FN_RING_CTL_SIZE : Fld := ⟨1, 4⟩
def EVC_FN_RING_CTL_OVERFLOW : Fld := ⟨5, 1⟩
def EVC_FN_RING_WR_WR : Fld := ⟨0, 32⟩
def EVC_FN_RING_RD_RD : Fld := ⟨0, 32⟩
def AON_WATCH_SOURCE : Fld := ⟨0, 13⟩
def AON_WATCH_EN : Fld := ⟨13, 1⟩
def AON_WAKE_CAUSE_SOURCE : Fld := ⟨0, 13⟩
def AON_WAKE_CAUSE_VALID : Fld := ⟨13, 1⟩
def AON_WAKE_TIME_LO_TIME : Fld := ⟨0, 32⟩
def AON_WAKE_TIME_HI_TIME : Fld := ⟨0, 32⟩
def AON_STATUS_WATCH_REFUSED : Fld := ⟨0, 1⟩
def AON_STATUS_ENTRY : Fld := ⟨1, 6⟩
def PWR_CTL_MAX_STATE : Fld := ⟨0, 3⟩
def PWR_CTL_STATIC_FRAMES : Fld := ⟨8, 8⟩
def PWR_STATUS_STATE : Fld := ⟨0, 3⟩
def PWR_STATUS_CEILING : Fld := ⟨3, 3⟩
def PWR_STATUS_RETAIN_MISS : Fld := ⟨6, 1⟩
def PWR_STATUS_RETAINED : Fld := ⟨8, 8⟩
def PWR_LAT_LAT : Fld := ⟨0, 24⟩
def THM_CTL_ALARM_C : Fld := ⟨0, 8⟩
def THM_CTL_AUTO_RESTORE : Fld := ⟨8, 1⟩
def THM_STATUS_TJ : Fld := ⟨0, 12⟩
def THM_STATUS_THROTTLE : Fld := ⟨12, 1⟩
def THM_STATUS_IMON : Fld := ⟨13, 1⟩
def THM_STATUS_ALARM : Fld := ⟨14, 1⟩
def THM_STATUS_SHED_COUNT : Fld := ⟨16, 8⟩
def THM_SHED_RESTORE : Fld := ⟨0, 1⟩
def THM_SHED_RESTORE_ALL : Fld := ⟨1, 1⟩
def THM_LIFE_HOURS : Fld := ⟨0, 32⟩
def THM_SENSOR_TEMP : Fld := ⟨0, 12⟩
def SYS_PIPE_SWAP_REQ_PIPE : Fld := ⟨0, 6⟩
def SYS_PIPE_SWAP_STATUS_PIPE : Fld := ⟨0, 6⟩
def SYS_PIPE_SWAP_STATUS_SPARE : Fld := ⟨6, 6⟩
def SYS_PIPE_SWAP_STATUS_BUSY : Fld := ⟨12, 1⟩
def SYS_PIPE_SWAP_STATUS_DONE : Fld := ⟨13, 1⟩
def SYS_PIPE_SWAP_STATUS_REFUSED : Fld := ⟨14, 1⟩
def SYS_PIPE_SWAP_STATUS_REFUSE_CODE : Fld := ⟨15, 4⟩
def SYS_PIPE_SWAP_STATUS_FAULT : Fld := ⟨19, 1⟩
def SYS_PIPE_CTL_CE_THRESHOLD : Fld := ⟨0, 8⟩
def SYS_SPARE_STATUS_PIPES_FREE : Fld := ⟨0, 3⟩
def SYS_SPARE_STATUS_LANES_FREE : Fld := ⟨3, 4⟩
def SYS_SPARE_STATUS_PLATES_FREE : Fld := ⟨7, 2⟩
def SYS_SPARE_STATUS_CD_FREE : Fld := ⟨9, 1⟩
def SYS_SPARE_STATUS_FRAMES_FREE : Fld := ⟨10, 11⟩
def SYS_FAIL_REC0_STAGE : Fld := ⟨0, 4⟩
def SYS_FAIL_REC0_CAUSE : Fld := ⟨4, 8⟩
def SYS_FAIL_REC0_UNIT : Fld := ⟨12, 7⟩
def SYS_FAIL_REC0_SAFE : Fld := ⟨30, 1⟩
def SYS_FAIL_REC0_VALID : Fld := ⟨31, 1⟩
def SYS_FAIL_REC1_DETAIL : Fld := ⟨0, 32⟩
def SYS_FAIL_TIME_LO_TIME : Fld := ⟨0, 32⟩
def SYS_FAIL_TIME_HI_TIME : Fld := ⟨0, 32⟩
def SYS_STRAP_STRAP : Fld := ⟨0, 3⟩
def SYS_POST_RAIL_FAULT : Fld := ⟨0, 1⟩
def SYS_POST_RECORD_LOST : Fld := ⟨1, 1⟩
def SYS_POST_IMAGE : Fld := ⟨2, 1⟩
def SYS_POST_SPARES_TAKEN : Fld := ⟨4, 8⟩
def SYS_POST_STATION_RESTARTS : Fld := ⟨12, 8⟩
def SYS_POST_POST_MS : Fld := ⟨20, 12⟩
def SYS_SELFTEST_PIPE : Fld := ⟨0, 6⟩
def SYS_SELFTEST_GO : Fld := ⟨6, 1⟩
def SYS_SELFTEST_BUSY : Fld := ⟨7, 1⟩
def SYS_SELFTEST_DONE : Fld := ⟨8, 1⟩
def SYS_SELFTEST_PASS : Fld := ⟨9, 1⟩
def SYS_SELFTEST_REFUSED : Fld := ⟨10, 1⟩
def SYS_SELFTEST_REFUSE_CODE : Fld := ⟨11, 4⟩
def SYS_SS_CMD_OPCODE : Fld := ⟨0, 8⟩
def SYS_SS_CMD_TAG : Fld := ⟨8, 8⟩
def SYS_SS_CMD_LEN : Fld := ⟨16, 11⟩
def SYS_SS_ARG0_ARG : Fld := ⟨0, 32⟩
def SYS_SS_ARG1_ARG : Fld := ⟨0, 32⟩
def SYS_SS_STATUS_BUSY : Fld := ⟨0, 1⟩
def SYS_SS_STATUS_DONE : Fld := ⟨1, 1⟩
def SYS_SS_STATUS_LOST : Fld := ⟨2, 1⟩
def SYS_SS_STATUS_RESULT : Fld := ⟨4, 4⟩
def SYS_SS_STATUS_TAG : Fld := ⟨8, 8⟩
def SYS_SS_STATUS_OUT_LEN : Fld := ⟨16, 11⟩
def SYS_SS_DATA_DATA : Fld := ⟨0, 32⟩
def SYS_ID_PART : Fld := ⟨0, 16⟩
def SYS_ID_FAMILY : Fld := ⟨16, 8⟩
def SYS_ID_VENDOR : Fld := ⟨24, 8⟩
def SYS_REV_STEPPING : Fld := ⟨0, 8⟩
def SYS_REV_MAP_VERSION : Fld := ⟨8, 8⟩
def SYS_SERIAL_LO_SERIAL : Fld := ⟨0, 32⟩
def SYS_SERIAL_HI_SERIAL : Fld := ⟨0, 32⟩
def SYS_FW_VER_VERSION : Fld := ⟨0, 16⟩
def SYS_FW_VER_ROLLBACK : Fld := ⟨16, 8⟩
def SYS_FW_VER_ROM : Fld := ⟨24, 8⟩
def SYS_LOCK_LOCK : Fld := ⟨0, 1⟩
def SYS_REG_STATUS_PARTIAL : Fld := ⟨0, 1⟩
def SYS_REG_STATUS_LOST : Fld := ⟨1, 1⟩
def SYS_REG_STATUS_OFFSET : Fld := ⟨2, 22⟩
def SYS_REG_STATUS_FN : Fld := ⟨24, 5⟩
def SEQ_SHADOW_OVERLAP_COUNT : Fld := ⟨0, 32⟩
def VF_PMAP_SEL_PAGE : Fld := ⟨0, 17⟩
def VF_PMAP_LO_ENTRY : Fld := ⟨0, 32⟩
def VF_PMAP_HI_ENTRY : Fld := ⟨0, 32⟩
def VF_CLR_ADDR_OFFSET : Fld := ⟨2, 20⟩
def VF_CLR_DATA_DATA : Fld := ⟨0, 32⟩
def VF_FN_HEADS_W_HEADS : Fld := ⟨0, 32⟩
def MSIX_ADDR_LO_VALUE : Fld := ⟨0, 32⟩
def MSIX_ADDR_HI_VALUE : Fld := ⟨0, 32⟩
def MSIX_DATA_VALUE : Fld := ⟨0, 32⟩
def MSIX_CTRL_MASK : Fld := ⟨0, 1⟩

end Bit

/-- Part 0 of the register table (R391 and the owning chapters). -/
def regTable0 : List RegDesc := [
  ⟨0x200, [], .core, [(⟨0, 32⟩, .ro)], .word 0xFFFFFFFF⟩,
  ⟨0x204, [], .core, [(⟨0, 32⟩, .ro)], .word 0xFFFFFFFF⟩,
  ⟨0x208, [], .core, [(⟨0, 6⟩, .ro)], .word 0x3F⟩,
  ⟨0x20C, [], .core, [(⟨0, 7⟩, .ro), (⟨8, 1⟩, .w1c), (⟨9, 1⟩, .w1c), (⟨10, 1⟩, .w1c), (⟨16, 16⟩, .ro)], .word 0x0⟩,
  ⟨0x210, [], .cold, [(⟨0, 1⟩, .lk)], .word 0x0⟩,
  ⟨0x870000, [(0x400, 32)], .function, [(⟨0, 1⟩, .rw), (⟨1, 1⟩, .wo), (⟨2, 1⟩, .wo), (⟨3, 1⟩, .rw)], .word 0x0⟩,
  ⟨0x870004, [(0x400, 32)], .function, [(⟨0, 3⟩, .ro), (⟨3, 1⟩, .w1c), (⟨4, 8⟩, .ro), (⟨12, 1⟩, .w1c), (⟨13, 1⟩, .w1c), (⟨16, 16⟩, .ro)], .word 0x0⟩,
  ⟨0x870008, [(0x400, 32)], .function, [(⟨12, 20⟩, .rw)], .word 0x0⟩,
  ⟨0x87000C, [(0x400, 32)], .function, [(⟨0, 5⟩, .rw)], .word 0x0⟩,
  ⟨0x870010, [(0x400, 32)], .function, [(⟨0, 4⟩, .rw)], .word 0x0⟩,
  ⟨0x870014, [(0x400, 32)], .function, [(⟨0, 32⟩, .rw)], .word 0x0⟩,
  ⟨0x870018, [(0x400, 32)], .function, [(⟨0, 32⟩, .ro)], .word 0x0⟩,
  ⟨0x87001C, [(0x400, 32)], .function, [(⟨0, 32⟩, .ro)], .word 0x0⟩,
  ⟨0x870020, [(0x400, 32)], .function, [(⟨0, 32⟩, .ro)], .word 0x0⟩,
  ⟨0x870024, [(0x400, 32)], .function, [(⟨0, 2⟩, .ro)], .word 0x0⟩,
  ⟨0x870028, [(0x400, 32)], .function, [(⟨3, 29⟩, .rw)], .word 0x0⟩,
  ⟨0x87002C, [(0x400, 32)], .function, [(⟨0, 5⟩, .rw)], .word 0x0⟩,
  ⟨0x870030, [(0x400, 32)], .function, [(⟨0, 1⟩, .rw)], .word 0x0⟩,
  ⟨0x878000, [(0x400, 128)], .core, [(⟨0, 1⟩, .rw), (⟨1, 1⟩, .wo), (⟨2, 1⟩, .rw), (⟨3, 1⟩, .rw), (⟨16, 14⟩, .rw)], .word 0x0⟩,
  ⟨0x878004, [(0x400, 128)], .core, [(⟨0, 3⟩, .ro), (⟨4, 8⟩, .ro), (⟨12, 1⟩, .w1c), (⟨14, 2⟩, .ro), (⟨16, 16⟩, .ro)], .word 0x0⟩,
  ⟨0x878008, [(0x400, 128)], .core, [(⟨3, 29⟩, .rw)], .word 0x0⟩,
  ⟨0x87800C, [(0x400, 128)], .core, [(⟨0, 5⟩, .rw)], .word 0x0⟩,
  ⟨0x878010, [(0x400, 128)], .core, [(⟨0, 32⟩, .ro)], .word 0x0⟩,
  ⟨0x878014, [(0x400, 128)], .core, [(⟨0, 2⟩, .ro)], .word 0x0⟩,
  ⟨0x878018, [(0x400, 128)], .core, [(⟨0, 32⟩, .ro)], .word 0x0⟩,
  ⟨0x87801C, [(0x400, 128)], .core, [(⟨0, 32⟩, .rw)], .word 0x0⟩,
  ⟨0x214, [], .core, [(⟨0, 1⟩, .rw), (⟨1, 1⟩, .w1c)], .word 0x0⟩,
  ⟨0x218, [], .core, [(⟨0, 32⟩, .wo)], .word 0x0⟩,
  ⟨0x21C, [], .core, [(⟨0, 4⟩, .ro), (⟨4, 1⟩, .ro)], .word 0x0⟩,
  ⟨0x100000, [(0x8, 131072)], .core, [(⟨0, 1⟩, .rw), (⟨1, 1⟩, .rw), (⟨2, 1⟩, .rw), (⟨3, 5⟩, .rw), (⟨8, 1⟩, .rw), (⟨9, 1⟩, .ro), (⟨10, 1⟩, .ro), (⟨20, 12⟩, .rw)], .pmapLo⟩,
  ⟨0x100004, [(0x8, 131072)], .core, [(⟨0, 32⟩, .rw)], .pmapHi⟩,
  ⟨0x224, [], .core, [(⟨0, 17⟩, .ro), (⟨17, 5⟩, .ro), (⟨22, 1⟩, .ro), (⟨23, 1⟩, .w1c), (⟨24, 8⟩, .ro)], .word 0x0⟩,
  ⟨0x220, [], .core, [(⟨0, 1⟩, .ro), (⟨1, 1⟩, .ro), (⟨2, 1⟩, .ro), (⟨4, 5⟩, .ro), (⟨15, 17⟩, .ro)], .word 0x0⟩,
  ⟨0x8C0000, [(0x1000, 16)], .core, [(⟨0, 1⟩, .w1c), (⟨1, 1⟩, .w1c), (⟨16, 8⟩, .ro)], .word 0x0⟩,
  ⟨0x8C0004, [(0x1000, 16)], .core, [(⟨0, 32⟩, .rw)], .word 0x0⟩,
  ⟨0x8C0008, [(0x1000, 16)], .core, [(⟨0, 32⟩, .ro)], .word 0x0⟩,
  ⟨0x8C000C, [(0x1000, 16)], .core, [(⟨0, 5⟩, .ro)], .word 0x0⟩,
  ⟨0x230, [], .core, [(⟨0, 8⟩, .rw), (⟨8, 1⟩, .rw)], .word 0x110⟩,
  ⟨0x234, [], .core, [(⟨0, 16⟩, .wo)], .word 0x0⟩,
  ⟨0x238, [], .core, [(⟨0, 11⟩, .ro), (⟨12, 1⟩, .ro), (⟨13, 1⟩, .w1c), (⟨14, 1⟩, .w1c), (⟨15, 1⟩, .w1c), (⟨16, 5⟩, .ro)], .word 0x0⟩]

/-- Part 1 of the register table (R391 and the owning chapters). -/
def regTable1 : List RegDesc := [
  ⟨0x80000, [(0x40, 32)], .core, [(⟨0, 4⟩, .ro), (⟨4, 5⟩, .ro), (⟨9, 1⟩, .ro), (⟨10, 1⟩, .ro), (⟨11, 1⟩, .ro), (⟨12, 1⟩, .ro), (⟨16, 6⟩, .ro)], .plateOwn⟩,
  ⟨0x80004, [(0x40, 32)], .core, [(⟨0, 4⟩, .wo), (⟨4, 5⟩, .wo), (⟨9, 1⟩, .wo)], .word 0x0⟩,
  ⟨0x80008, [(0x40, 32)], .core, [(⟨0, 4⟩, .ro), (⟨4, 1⟩, .w1c), (⟨5, 1⟩, .w1c)], .word 0x0⟩,
  ⟨0x8000C, [(0x40, 32)], .core, [(⟨0, 1⟩, .w1c), (⟨1, 1⟩, .w1c), (⟨2, 1⟩, .w1c), (⟨3, 1⟩, .w1c), (⟨16, 8⟩, .ro), (⟨24, 8⟩, .ro)], .word 0x0⟩,
  ⟨0x80010, [(0x40, 32)], .core, [(⟨0, 16⟩, .ro), (⟨16, 6⟩, .ro), (⟨22, 6⟩, .ro), (⟨28, 1⟩, .w1c)], .word 0x0⟩,
  ⟨0x80014, [(0x40, 32), (0x4, 4)], .core, [(⟨0, 4⟩, .ro), (⟨4, 8⟩, .ro), (⟨16, 8⟩, .ro), (⟨24, 1⟩, .w1c)], .word 0x0⟩,
  ⟨0x81000, [(0x100, 4)], .core, [(⟨0, 1⟩, .wo), (⟨1, 1⟩, .wo), (⟨2, 2⟩, .rw), (⟨4, 1⟩, .rw), (⟨5, 1⟩, .rw), (⟨6, 5⟩, .rw), (⟨11, 1⟩, .rw), (⟨12, 7⟩, .rw), (⟨19, 7⟩, .rw)], .word 0x3F80030⟩,
  ⟨0x81004, [(0x100, 4)], .core, [(⟨0, 3⟩, .ro), (⟨3, 4⟩, .ro), (⟨7, 1⟩, .w1c), (⟨8, 7⟩, .ro), (⟨16, 8⟩, .ro), (⟨24, 8⟩, .ro)], .word 0x0⟩,
  ⟨0x82000, [(0x10, 34)], .core, [(⟨0, 2⟩, .ro), (⟨2, 5⟩, .ro)], .plateSite⟩,
  ⟨0x82004, [(0x10, 34)], .core, [(⟨0, 32⟩, .ro)], .word 0x0⟩,
  ⟨0x82008, [(0x10, 34)], .core, [(⟨0, 32⟩, .ro)], .word 0x0⟩,
  ⟨0x8200C, [(0x10, 34)], .core, [(⟨0, 32⟩, .ro)], .word 0x0⟩,
  ⟨0x83000, [], .core, [(⟨0, 5⟩, .wo)], .word 0x0⟩,
  ⟨0x83004, [], .core, [(⟨0, 5⟩, .ro), (⟨5, 1⟩, .ro), (⟨6, 1⟩, .w1c), (⟨7, 1⟩, .w1c), (⟨8, 4⟩, .ro), (⟨12, 2⟩, .ro)], .word 0x2000⟩,
  ⟨0x3B0000, [], .core, [(⟨0, 8⟩, .rw), (⟨8, 8⟩, .rw)], .word 0x3205⟩,
  ⟨0x3B0004, [], .core, [(⟨0, 18⟩, .ro), (⟨18, 1⟩, .w1c)], .word 0x0⟩,
  ⟨0x3B0008, [], .core, [(⟨0, 18⟩, .rw)], .word 0x0⟩,
  ⟨0x3B000C, [], .core, [(⟨0, 18⟩, .ro)], .word 0x0⟩,
  ⟨0x3B0010, [], .core, [(⟨0, 1⟩, .w1c), (⟨1, 1⟩, .w1c), (⟨16, 8⟩, .ro), (⟨24, 8⟩, .ro)], .word 0x0⟩,
  ⟨0x3B0020, [], .core, [(⟨0, 6⟩, .rw), (⟨6, 12⟩, .rw)], .word 0x0⟩,
  ⟨0x3B0024, [], .core, [(⟨0, 32⟩, .ro)], .word 0x0⟩,
  ⟨0x3B0028, [], .core, [(⟨0, 16⟩, .ro), (⟨16, 1⟩, .ro)], .word 0x0⟩,
  ⟨0x3B0100, [(0x4, 36)], .core, [(⟨0, 18⟩, .ro)], .word 0x0⟩,
  ⟨0x3B0200, [(0x4, 36)], .core, [(⟨0, 1⟩, .w1c), (⟨8, 24⟩, .ro)], .word 0x0⟩,
  ⟨0x3B4000, [(0x8, 128)], .core, [(⟨0, 5⟩, .ro), (⟨8, 24⟩, .ro)], .word 0x0⟩,
  ⟨0x3B4004, [(0x8, 128)], .core, [(⟨0, 1⟩, .w1c), (⟨16, 16⟩, .ro)], .word 0x0⟩,
  ⟨0x8C0010, [(0x1000, 16)], .core, [(⟨0, 1⟩, .w1c), (⟨16, 16⟩, .ro)], .word 0x0⟩,
  ⟨0x8C0014, [(0x1000, 16)], .core, [(⟨0, 32⟩, .rw)], .word 0x7FFFFFFF⟩,
  ⟨0x400000, [(0x40, 256), (0x4, 9)], .core, [(⟨0, 18⟩, .sh)], .diag⟩,
  ⟨0x400024, [(0x40, 256), (0x4, 3)], .core, [(⟨0, 20⟩, .sh)], .word 0x0⟩,
  ⟨0x404000, [(0x40, 128), (0x4, 9)], .core, [(⟨0, 18⟩, .sh)], .diag⟩,
  ⟨0x406000, [(0x40, 128), (0x4, 9)], .core, [(⟨0, 18⟩, .sh)], .diag⟩,
  ⟨0x406024, [(0x40, 128), (0x4, 3)], .core, [(⟨0, 20⟩, .sh)], .word 0x0⟩,
  ⟨0x408000, [(0x10, 128)], .core, [(⟨0, 2⟩, .sh), (⟨4, 3⟩, .sh), (⟨8, 3⟩, .sh), (⟨12, 1⟩, .sh), (⟨13, 2⟩, .sh), (⟨16, 2⟩, .sh), (⟨18, 1⟩, .sh), (⟨19, 1⟩, .sh)], .word 0x10010⟩,
  ⟨0x408800, [(0x8, 256)], .core, [(⟨0, 32⟩, .sh)], .word 0x0⟩,
  ⟨0x408804, [(0x8, 256)], .core, [(⟨0, 5⟩, .sh)], .word 0x0⟩,
  ⟨0x409000, [(0x4, 256)], .core, [(⟨0, 5⟩, .rw), (⟨8, 5⟩, .rw), (⟨16, 5⟩, .rw)], .word 0x0⟩,
  ⟨0x410000, [(0x10, 1024), (0x4, 4)], .core, [(⟨0, 12⟩, .sh), (⟨16, 12⟩, .sh)], .hcoef⟩,
  ⟨0x414000, [(0x10, 1024), (0x4, 3)], .core, [(⟨0, 12⟩, .sh), (⟨16, 12⟩, .sh)], .vcoef⟩,
  ⟨0x440000, [(0x4, 262144)], .core, [(⟨0, 16⟩, .sh), (⟨16, 16⟩, .sh)], .degamma⟩]

/-- Part 2 of the register table (R391 and the owning chapters). -/
def regTable2 : List RegDesc := [
  ⟨0x600000, [(0x4, 524288)], .core, [(⟨0, 16⟩, .sh), (⟨16, 16⟩, .sh)], .regamma⟩,
  ⟨0x3B8000, [], .core, [(⟨0, 21⟩, .ro)], .word 0x0⟩,
  ⟨0x3B8004, [], .core, [(⟨0, 18⟩, .ro)], .word 0x0⟩,
  ⟨0x3B8008, [], .core, [(⟨0, 21⟩, .ro)], .word 0x0⟩,
  ⟨0x3B800C, [], .core, [(⟨0, 18⟩, .ro)], .word 0x0⟩,
  ⟨0x3B8010, [], .core, [(⟨0, 17⟩, .rw)], .word 0x1000⟩,
  ⟨0x3B8014, [], .core, [(⟨0, 1⟩, .w1c), (⟨1, 1⟩, .w1c), (⟨2, 1⟩, .w1c), (⟨16, 16⟩, .ro)], .word 0x0⟩,
  ⟨0x3B8018, [], .core, [(⟨0, 10⟩, .ro), (⟨16, 6⟩, .ro)], .word 0x0⟩,
  ⟨0x3B9000, [(0x10, 32)], .core, [(⟨0, 5⟩, .rw)], .word 0x0⟩,
  ⟨0x3B9004, [(0x10, 32)], .core, [(⟨0, 4⟩, .ro), (⟨4, 1⟩, .ro), (⟨5, 4⟩, .ro)], .word 0x0⟩,
  ⟨0x3B9008, [(0x10, 32)], .core, [(⟨0, 32⟩, .ro)], .word 0x0⟩,
  ⟨0x3B900C, [(0x10, 32)], .core, [(⟨0, 32⟩, .ro)], .word 0x0⟩,
  ⟨0x3B9800, [(0x10, 32), (0x4, 4)], .core, [(⟨0, 32⟩, .sh)], .word 0x0⟩,
  ⟨0x3BA000, [(0x10, 32)], .core, [(⟨0, 21⟩, .rw)], .word 0x1FFFFF⟩,
  ⟨0x3BA004, [(0x10, 32)], .core, [(⟨0, 18⟩, .rw)], .word 0x3FFFF⟩,
  ⟨0x3BA008, [(0x10, 32)], .core, [(⟨0, 21⟩, .ro)], .word 0x0⟩,
  ⟨0x380000, [(0x1000, 32)], .core, [(⟨0, 2⟩, .rw), (⟨2, 1⟩, .w1c)], .word 0x2⟩,
  ⟨0x380004, [(0x400, 128)], .core, [(⟨0, 3⟩, .rw), (⟨4, 2⟩, .rw), (⟨6, 1⟩, .rw), (⟨7, 1⟩, .wo)], .word 0x46⟩,
  ⟨0x380008, [(0x400, 128)], .core, [(⟨0, 3⟩, .ro), (⟨3, 3⟩, .ro), (⟨6, 2⟩, .ro), (⟨8, 4⟩, .ro), (⟨12, 1⟩, .w1c), (⟨13, 1⟩, .w1c), (⟨16, 8⟩, .ro), (⟨24, 8⟩, .ro)], .word 0x0⟩,
  ⟨0x38000C, [(0x400, 128)], .core, [(⟨0, 1⟩, .ro), (⟨1, 1⟩, .ro), (⟨2, 1⟩, .w1c), (⟨3, 1⟩, .w1c), (⟨8, 8⟩, .ro), (⟨16, 8⟩, .rw)], .word 0x0⟩,
  ⟨0x380010, [(0x400, 128)], .core, [(⟨0, 20⟩, .rw), (⟨20, 4⟩, .rw), (⟨24, 4⟩, .rw), (⟨28, 1⟩, .rw), (⟨30, 1⟩, .wo)], .word 0x0⟩,
  ⟨0x380014, [(0x400, 128)], .core, [(⟨0, 1⟩, .ro), (⟨1, 1⟩, .w1c), (⟨2, 1⟩, .w1c), (⟨4, 3⟩, .ro), (⟨8, 4⟩, .ro), (⟨12, 5⟩, .ro)], .word 0x0⟩,
  ⟨0x380018, [(0x400, 128), (0x4, 4)], .core, [(⟨0, 32⟩, .rw)], .word 0x0⟩,
  ⟨0x380028, [(0x400, 128)], .core, [(⟨0, 3⟩, .rw), (⟨3, 2⟩, .rw), (⟨8, 4⟩, .rw), (⟨16, 16⟩, .rw)], .word 0x0⟩,
  ⟨0x38002C, [(0x400, 128)], .core, [(⟨0, 1⟩, .wo), (⟨1, 1⟩, .wo), (⟨2, 2⟩, .rw), (⟨4, 4⟩, .ro), (⟨8, 1⟩, .w1c), (⟨9, 1⟩, .w1c), (⟨10, 1⟩, .w1c), (⟨11, 1⟩, .ro), (⟨12, 1⟩, .ro), (⟨13, 1⟩, .ro), (⟨14, 1⟩, .ro)], .word 0x4000⟩,
  ⟨0x800000, [(0x100, 9)], .core, [(⟨0, 1⟩, .rw), (⟨1, 2⟩, .rw), (⟨3, 1⟩, .rw), (⟨4, 2⟩, .rw), (⟨6, 1⟩, .rw), (⟨7, 1⟩, .wo), (⟨8, 1⟩, .wo), (⟨9, 1⟩, .wo)], .word 0x40⟩,
  ⟨0x800004, [(0x100, 9)], .core, [(⟨0, 9⟩, .rw), (⟨16, 6⟩, .rw)], .word 0x1000A0⟩,
  ⟨0x800008, [(0x100, 9)], .core, [(⟨0, 32⟩, .rw)], .word 0x0⟩,
  ⟨0x80000C, [(0x100, 9)], .core, [(⟨0, 20⟩, .rw)], .word 0xF4240⟩,
  ⟨0x800010, [(0x100, 9)], .core, [(⟨0, 3⟩, .ro), (⟨3, 1⟩, .ro), (⟨4, 1⟩, .ro), (⟨5, 1⟩, .ro), (⟨6, 1⟩, .ro), (⟨7, 1⟩, .w1c), (⟨8, 1⟩, .w1c), (⟨9, 1⟩, .w1c), (⟨10, 1⟩, .w1c), (⟨11, 1⟩, .w1c), (⟨12, 1⟩, .w1c), (⟨16, 16⟩, .ro)], .word 0x0⟩,
  ⟨0x800014, [(0x100, 9)], .core, [(⟨0, 32⟩, .ro)], .word 0x0⟩,
  ⟨0x800018, [(0x100, 9)], .core, [(⟨0, 9⟩, .ro)], .word 0xA0⟩,
  ⟨0x80001C, [(0x100, 9)], .core, [(⟨0, 16⟩, .rw), (⟨16, 16⟩, .rw)], .word 0x10001⟩,
  ⟨0x800020, [(0x100, 9)], .core, [(⟨0, 32⟩, .rw)], .word 0x0⟩,
  ⟨0x800024, [(0x100, 9)], .core, [(⟨0, 32⟩, .ro)], .word 0x0⟩,
  ⟨0x800028, [(0x100, 9)], .core, [(⟨0, 12⟩, .rw), (⟨16, 12⟩, .rw)], .word 0x3E80064⟩,
  ⟨0x80002C, [(0x100, 9)], .core, [(⟨0, 14⟩, .rw), (⟨16, 10⟩, .rw)], .word 0x6403E8⟩,
  ⟨0x800030, [(0x100, 9), (0x4, 4)], .core, [(⟨0, 32⟩, .rw)], .word 0x0⟩,
  ⟨0x800040, [(0x100, 9)], .core, [(⟨0, 1⟩, .wo), (⟨1, 1⟩, .wo), (⟨2, 4⟩, .rw), (⟨6, 1⟩, .rw), (⟨7, 1⟩, .ro), (⟨8, 4⟩, .ro)], .word 0x0⟩,
  ⟨0x800080, [(0x100, 9), (0x4, 16)], .core, [(⟨0, 16⟩, .rw), (⟨16, 12⟩, .rw)], .word 0x640000⟩]

/-- Part 3 of the register table (R391 and the owning chapters). -/
def regTable3 : List RegDesc := [
  ⟨0x800A00, [], .core, [(⟨0, 4⟩, .wo)], .word 0x0⟩,
  ⟨0x800A04, [], .core, [(⟨0, 4⟩, .ro), (⟨4, 1⟩, .ro), (⟨5, 1⟩, .w1c), (⟨6, 1⟩, .w1c), (⟨7, 4⟩, .ro)], .word 0xF⟩,
  ⟨0x801000, [(0x10, 4)], .core, [(⟨0, 3⟩, .rw), (⟨3, 1⟩, .rw), (⟨4, 3⟩, .rw), (⟨8, 7⟩, .rw), (⟨16, 8⟩, .rw), (⟨24, 1⟩, .w1c)], .word 0x100000⟩,
  ⟨0x801004, [(0x10, 4)], .core, [(⟨0, 12⟩, .rw)], .word 0x10⟩,
  ⟨0x802000, [], .cold, [(⟨0, 32⟩, .ro)], .word 0x0⟩,
  ⟨0x802004, [], .cold, [(⟨0, 32⟩, .ro)], .word 0x0⟩,
  ⟨0x802008, [], .cold, [(⟨0, 2⟩, .rw), (⟨2, 1⟩, .rw), (⟨16, 10⟩, .rw), (⟨26, 1⟩, .w1c), (⟨27, 1⟩, .ro)], .word 0xA0000⟩,
  ⟨0x80200C, [], .cold, [(⟨0, 32⟩, .rw)], .word 0x0⟩,
  ⟨0x802010, [], .cold, [(⟨0, 32⟩, .rw)], .word 0x0⟩,
  ⟨0x802014, [], .cold, [(⟨0, 32⟩, .rw)], .word 0x0⟩,
  ⟨0x802018, [], .cold, [(⟨0, 32⟩, .ro)], .word 0x0⟩,
  ⟨0x80201C, [], .cold, [(⟨0, 32⟩, .ro)], .word 0x0⟩,
  ⟨0x802100, [(0x10, 8)], .cold, [(⟨0, 32⟩, .rw)], .word 0x0⟩,
  ⟨0x802104, [(0x10, 8)], .cold, [(⟨0, 32⟩, .rw)], .word 0x0⟩,
  ⟨0x802108, [(0x10, 8)], .cold, [(⟨0, 32⟩, .rw)], .word 0x0⟩,
  ⟨0x80210C, [(0x10, 8)], .cold, [(⟨0, 1⟩, .rw), (⟨1, 1⟩, .rw), (⟨2, 1⟩, .w1c)], .word 0x0⟩,
  ⟨0x810000, [], .core, [(⟨0, 1⟩, .rw), (⟨1, 6⟩, .rw), (⟨7, 4⟩, .rw), (⟨11, 1⟩, .rw), (⟨12, 1⟩, .rw), (⟨13, 1⟩, .wo)], .word 0x1000⟩,
  ⟨0x810004, [], .core, [(⟨0, 3⟩, .ro), (⟨3, 1⟩, .w1c), (⟨4, 1⟩, .w1c), (⟨5, 1⟩, .w1c), (⟨16, 16⟩, .ro)], .word 0x0⟩,
  ⟨0x810008, [], .core, [(⟨12, 20⟩, .rw)], .word 0x0⟩,
  ⟨0x81000C, [], .core, [(⟨0, 5⟩, .rw)], .word 0x0⟩,
  ⟨0x810010, [], .core, [(⟨0, 32⟩, .ro)], .word 0x0⟩,
  ⟨0x810014, [], .core, [(⟨0, 32⟩, .rw)], .word 0x0⟩,
  ⟨0x810018, [], .core, [(⟨3, 29⟩, .rw)], .word 0x0⟩,
  ⟨0x81001C, [], .core, [(⟨0, 5⟩, .rw)], .word 0x0⟩,
  ⟨0x810020, [], .core, [(⟨0, 32⟩, .ro)], .word 0x0⟩,
  ⟨0x810024, [], .core, [(⟨0, 32⟩, .ro)], .word 0x0⟩,
  ⟨0x810028, [], .core, [(⟨0, 32⟩, .ro)], .word 0x0⟩,
  ⟨0x81002C, [], .core, [(⟨0, 12⟩, .ro), (⟨12, 1⟩, .w1c), (⟨13, 1⟩, .w1c)], .word 0x0⟩,
  ⟨0x810030, [(0x4, 4)], .core, [(⟨0, 32⟩, .rw)], .word 0x0⟩,
  ⟨0x810040, [], .core, [(⟨0, 32⟩, .ro)], .word 0x0⟩,
  ⟨0x820000, [(0x40, 4096)], .core, [(⟨0, 1⟩, .rw), (⟨1, 1⟩, .rw), (⟨2, 1⟩, .rw), (⟨3, 1⟩, .rw), (⟨4, 1⟩, .rw), (⟨5, 8⟩, .rw), (⟨13, 5⟩, .ro), (⟨18, 1⟩, .w1c)], .word 0x8⟩,
  ⟨0x820004, [(0x40, 4096)], .core, [(⟨0, 18⟩, .rw)], .word 0x0⟩,
  ⟨0x820008, [(0x40, 4096)], .core, [(⟨0, 18⟩, .rw)], .word 0x0⟩,
  ⟨0x82000C, [(0x40, 4096)], .core, [(⟨0, 25⟩, .rw)], .word 0x1000⟩,
  ⟨0x820010, [(0x40, 4096)], .core, [(⟨0, 25⟩, .rw)], .word 0x1000⟩,
  ⟨0x820014, [(0x40, 4096)], .core, [(⟨6, 26⟩, .rw)], .word 0x0⟩,
  ⟨0x820018, [(0x40, 4096)], .core, [(⟨0, 5⟩, .rw)], .word 0x0⟩,
  ⟨0x82001C, [(0x40, 4096)], .core, [(⟨3, 29⟩, .rw)], .word 0x0⟩,
  ⟨0x820020, [(0x40, 4096)], .core, [(⟨0, 5⟩, .rw)], .word 0x0⟩,
  ⟨0x820024, [(0x40, 4096)], .core, [(⟨0, 8⟩, .rw), (⟨8, 1⟩, .ro)], .word 0x0⟩]

/-- Part 4 of the register table (R391 and the owning chapters). -/
def regTable4 : List RegDesc := [
  ⟨0x820028, [(0x40, 4096)], .core, [(⟨0, 1⟩, .wo)], .word 0x0⟩,
  ⟨0x82002C, [(0x40, 4096)], .core, [(⟨0, 3⟩, .ro), (⟨3, 1⟩, .w1c), (⟨4, 1⟩, .w1c), (⟨5, 3⟩, .ro), (⟨8, 8⟩, .ro), (⟨16, 1⟩, .ro), (⟨17, 1⟩, .w1c)], .word 0x0⟩,
  ⟨0x820030, [(0x40, 4096)], .core, [(⟨0, 32⟩, .rw)], .word 0x0⟩,
  ⟨0x820034, [(0x40, 4096)], .core, [(⟨0, 32⟩, .rw)], .word 0x0⟩,
  ⟨0x820038, [(0x40, 4096)], .core, [(⟨0, 32⟩, .ro)], .word 0x0⟩,
  ⟨0x82003C, [(0x40, 4096)], .core, [(⟨0, 32⟩, .ro)], .word 0x0⟩,
  ⟨0x860000, [(0x100, 64)], .function, [(⟨0, 1⟩, .wo), (⟨1, 1⟩, .wo), (⟨2, 1⟩, .wo), (⟨3, 1⟩, .wo), (⟨4, 2⟩, .rw), (⟨6, 3⟩, .rw), (⟨9, 12⟩, .rw), (⟨21, 7⟩, .rw)], .word 0x30⟩,
  ⟨0x860004, [(0x100, 64)], .function, [(⟨0, 3⟩, .ro), (⟨3, 1⟩, .w1c), (⟨4, 1⟩, .w1c), (⟨5, 1⟩, .w1c), (⟨6, 4⟩, .ro), (⟨10, 1⟩, .ro), (⟨16, 16⟩, .ro)], .word 0x0⟩,
  ⟨0x860008, [(0x100, 64)], .function, [(⟨6, 26⟩, .rw)], .word 0x0⟩,
  ⟨0x86000C, [(0x100, 64)], .function, [(⟨0, 5⟩, .rw)], .word 0x0⟩,
  ⟨0x860010, [(0x100, 64)], .function, [(⟨0, 32⟩, .ro)], .word 0x0⟩,
  ⟨0x860014, [(0x100, 64)], .function, [(⟨0, 5⟩, .ro)], .word 0x0⟩,
  ⟨0x860018, [(0x100, 64)], .function, [(⟨0, 32⟩, .ro)], .word 0x0⟩,
  ⟨0x86001C, [(0x100, 64)], .function, [(⟨0, 1⟩, .ro)], .word 0x0⟩,
  ⟨0x864000, [], .core, [(⟨0, 5⟩, .rw)], .word 0x1C⟩,
  ⟨0x40000, [], .core, [(⟨0, 1⟩, .ro), (⟨1, 2⟩, .ro), (⟨3, 3⟩, .ro), (⟨6, 1⟩, .w1c), (⟨7, 1⟩, .w1c), (⟨16, 16⟩, .rw)], .word 0x0⟩,
  ⟨0x40010, [], .core, [(⟨0, 3⟩, .ro), (⟨3, 1⟩, .w1c), (⟨4, 5⟩, .ro)], .word 0x0⟩,
  ⟨0x41000, [(0x4, 128)], .core, [(⟨0, 5⟩, .rw)], .word 0x0⟩,
  ⟨0x42000, [(0x20, 32)], .core, [(⟨0, 12⟩, .rw), (⟨16, 13⟩, .rw)], .word 0x0⟩,
  ⟨0x42004, [(0x20, 32)], .core, [(⟨0, 12⟩, .rw), (⟨16, 13⟩, .rw)], .word 0x0⟩,
  ⟨0x42008, [(0x20, 32)], .core, [(⟨0, 32⟩, .rw)], .word 0x0⟩,
  ⟨0x4200C, [(0x20, 32)], .core, [(⟨0, 32⟩, .rw)], .word 0x0⟩,
  ⟨0x42010, [(0x20, 32)], .core, [(⟨0, 1⟩, .wo), (⟨1, 1⟩, .rw)], .word 0x0⟩,
  ⟨0x42014, [(0x20, 32)], .core, [(⟨20, 12⟩, .rw)], .word 0x0⟩,
  ⟨0x42018, [(0x20, 32)], .core, [(⟨0, 5⟩, .rw)], .word 0x0⟩,
  ⟨0x10000, [(0x8, 5539)], .core, [(⟨0, 1⟩, .rw), (⟨1, 2⟩, .rw), (⟨3, 11⟩, .rw), (⟨16, 8⟩, .rw), (⟨24, 5⟩, .ro), (⟨29, 1⟩, .ro), (⟨30, 1⟩, .ro), (⟨31, 1⟩, .ro)], .srcCfg⟩,
  ⟨0x10004, [(0x8, 5539)], .core, [(⟨0, 32⟩, .ro)], .word 0x0⟩,
  ⟨0x20000, [(0x4, 4032)], .function, [(⟨0, 10⟩, .rw), (⟨10, 1⟩, .ro)], .word 0x0⟩,
  ⟨0x30000, [], .core, [(⟨0, 3⟩, .rw), (⟨3, 2⟩, .rw), (⟨5, 11⟩, .rw), (⟨16, 16⟩, .rw)], .word 0x640000⟩,
  ⟨0x30100, [(0x4, 32)], .function, [(⟨0, 1⟩, .w1s), (⟨1, 1⟩, .ro)], .word 0x0⟩,
  ⟨0x30200, [(0x10, 2)], .core, [(⟨0, 10⟩, .rw), (⟨10, 4⟩, .ro), (⟨14, 1⟩, .ro), (⟨15, 1⟩, .ro)], .word 0x0⟩,
  ⟨0x31000, [(0x20, 32)], .function, [(⟨12, 20⟩, .rw)], .word 0x0⟩,
  ⟨0x31004, [(0x20, 32)], .function, [(⟨0, 5⟩, .rw)], .word 0x0⟩,
  ⟨0x31008, [(0x20, 32)], .function, [(⟨0, 1⟩, .rw), (⟨1, 4⟩, .rw), (⟨5, 1⟩, .w1c)], .word 0x0⟩,
  ⟨0x3100C, [(0x20, 32)], .function, [(⟨0, 32⟩, .ro)], .word 0x0⟩,
  ⟨0x31010, [(0x20, 32)], .function, [(⟨0, 32⟩, .rw)], .word 0x0⟩,
  ⟨0x8B0000, [(0x4, 64)], .cold, [(⟨0, 13⟩, .rw), (⟨13, 1⟩, .rw)], .word 0x0⟩,
  ⟨0x8B0100, [], .cold, [(⟨0, 13⟩, .ro), (⟨13, 1⟩, .w1c)], .word 0x0⟩,
  ⟨0x8B0104, [], .cold, [(⟨0, 32⟩, .ro)], .word 0x0⟩,
  ⟨0x8B0108, [], .cold, [(⟨0, 32⟩, .ro)], .word 0x0⟩]

/-- Part 5 of the register table (R391 and the owning chapters). -/
def regTable5 : List RegDesc := [
  ⟨0x8B010C, [], .cold, [(⟨0, 1⟩, .w1c), (⟨1, 6⟩, .ro)], .word 0x0⟩,
  ⟨0x8A0000, [], .core, [(⟨0, 3⟩, .rw), (⟨8, 8⟩, .rw)], .word 0x3C05⟩,
  ⟨0x8A0004, [], .core, [(⟨0, 3⟩, .ro), (⟨3, 3⟩, .ro), (⟨6, 1⟩, .w1c), (⟨8, 8⟩, .ro)], .word 0x0⟩,
  ⟨0x8A0100, [(0x4, 32)], .function, [(⟨0, 24⟩, .rw)], .word 0x0⟩,
  ⟨0x8A1000, [], .core, [(⟨0, 8⟩, .rw), (⟨8, 1⟩, .rw)], .word 0x15A⟩,
  ⟨0x8A1004, [], .core, [(⟨0, 12⟩, .ro), (⟨12, 1⟩, .ro), (⟨13, 1⟩, .ro), (⟨14, 1⟩, .w1c), (⟨16, 8⟩, .ro)], .word 0x0⟩,
  ⟨0x8A1008, [], .core, [(⟨0, 1⟩, .wo), (⟨1, 1⟩, .wo)], .word 0x0⟩,
  ⟨0x8A100C, [], .cold, [(⟨0, 32⟩, .ro)], .word 0x0⟩,
  ⟨0x8A1040, [(0x4, 16)], .core, [(⟨0, 12⟩, .ro)], .word 0x0⟩,
  ⟨0x240, [], .core, [(⟨0, 6⟩, .wo)], .word 0x0⟩,
  ⟨0x244, [], .core, [(⟨0, 6⟩, .ro), (⟨6, 6⟩, .ro), (⟨12, 1⟩, .ro), (⟨13, 1⟩, .w1c), (⟨14, 1⟩, .w1c), (⟨15, 4⟩, .ro), (⟨19, 1⟩, .ro)], .word 0x0⟩,
  ⟨0x248, [], .core, [(⟨0, 8⟩, .rw)], .word 0x20⟩,
  ⟨0x24C, [], .core, [(⟨0, 3⟩, .ro), (⟨3, 4⟩, .ro), (⟨7, 2⟩, .ro), (⟨9, 1⟩, .ro), (⟨10, 11⟩, .ro)], .word 0x100344⟩,
  ⟨0x100, [], .core, [(⟨0, 4⟩, .ro), (⟨4, 8⟩, .ro), (⟨12, 7⟩, .ro), (⟨30, 1⟩, .ro), (⟨31, 1⟩, .ro)], .word 0x0⟩,
  ⟨0x104, [], .core, [(⟨0, 32⟩, .ro)], .word 0x0⟩,
  ⟨0x108, [], .core, [(⟨0, 32⟩, .ro)], .word 0x0⟩,
  ⟨0x10C, [], .core, [(⟨0, 32⟩, .ro)], .word 0x0⟩,
  ⟨0x250, [], .core, [(⟨0, 3⟩, .ro)], .word 0x0⟩,
  ⟨0x254, [], .core, [(⟨0, 1⟩, .w1c), (⟨1, 1⟩, .w1c), (⟨2, 1⟩, .ro), (⟨4, 8⟩, .ro), (⟨12, 8⟩, .ro), (⟨20, 12⟩, .ro)], .word 0x0⟩,
  ⟨0x258, [], .core, [(⟨0, 6⟩, .rw), (⟨6, 1⟩, .wo), (⟨7, 1⟩, .ro), (⟨8, 1⟩, .w1c), (⟨9, 1⟩, .ro), (⟨10, 1⟩, .w1c), (⟨11, 4⟩, .ro)], .word 0x0⟩,
  ⟨0x300, [], .core, [(⟨0, 8⟩, .wo), (⟨8, 8⟩, .wo), (⟨16, 11⟩, .wo)], .word 0x0⟩,
  ⟨0x304, [], .core, [(⟨0, 32⟩, .rw)], .word 0x0⟩,
  ⟨0x308, [], .core, [(⟨0, 32⟩, .rw)], .word 0x0⟩,
  ⟨0x30C, [], .core, [(⟨0, 1⟩, .ro), (⟨1, 1⟩, .w1c), (⟨2, 1⟩, .w1c), (⟨4, 4⟩, .ro), (⟨8, 8⟩, .ro), (⟨16, 11⟩, .ro)], .word 0x0⟩,
  ⟨0x400, [(0x4, 256)], .core, [(⟨0, 32⟩, .rw)], .word 0x0⟩,
  ⟨0x0, [], .core, [(⟨0, 16⟩, .ro), (⟨16, 8⟩, .ro), (⟨24, 8⟩, .ro)], .word 0xCA017128⟩,
  ⟨0x4, [], .core, [(⟨0, 8⟩, .ro), (⟨8, 8⟩, .ro)], .stepping⟩,
  ⟨0x8, [], .core, [(⟨0, 32⟩, .ro)], .serialLo⟩,
  ⟨0xC, [], .core, [(⟨0, 32⟩, .ro)], .serialHi⟩,
  ⟨0x10, [], .core, [(⟨0, 16⟩, .ro), (⟨16, 8⟩, .ro), (⟨24, 8⟩, .ro)], .fwVer⟩,
  ⟨0x14, [], .cold, [(⟨0, 1⟩, .w1s)], .word 0x0⟩,
  ⟨0x18, [], .core, [(⟨0, 1⟩, .w1c), (⟨1, 1⟩, .w1c), (⟨2, 22⟩, .ro), (⟨24, 5⟩, .ro)], .word 0x0⟩,
  ⟨0x898000, [], .core, [(⟨0, 32⟩, .rw)], .word 0x0⟩,
  ⟨0x1003000, [(0x200000, 32)], .function, [(⟨0, 17⟩, .rw)], .word 0x0⟩,
  ⟨0x1003004, [(0x200000, 32)], .function, [(⟨0, 32⟩, .ro)], .word 0x0⟩,
  ⟨0x1003008, [(0x200000, 32)], .function, [(⟨0, 32⟩, .ro)], .word 0x0⟩,
  ⟨0x1003010, [(0x200000, 32)], .function, [(⟨2, 20⟩, .rw)], .word 0x0⟩,
  ⟨0x1003014, [(0x200000, 32)], .function, [(⟨0, 32⟩, .sh)], .word 0x0⟩,
  ⟨0x1001050, [(0x200000, 32), (0x4, 4)], .function, [(⟨0, 32⟩, .ro)], .word 0x0⟩,
  ⟨0x50000, [(0x10, 2048)], .function, [(⟨0, 32⟩, .rw)], .word 0x0⟩]

/-- Part 6 of the register table (R391 and the owning chapters). -/
def regTable6 : List RegDesc := [
  ⟨0x50004, [(0x10, 2048)], .function, [(⟨0, 32⟩, .rw)], .word 0x0⟩,
  ⟨0x50008, [(0x10, 2048)], .function, [(⟨0, 32⟩, .rw)], .word 0x0⟩,
  ⟨0x5000C, [(0x10, 2048)], .function, [(⟨0, 1⟩, .rw)], .word 0x1⟩,
  ⟨0x1050000, [(0x200000, 32), (0x10, 64)], .function, [(⟨0, 32⟩, .rw)], .word 0x0⟩,
  ⟨0x1050004, [(0x200000, 32), (0x10, 64)], .function, [(⟨0, 32⟩, .rw)], .word 0x0⟩,
  ⟨0x1050008, [(0x200000, 32), (0x10, 64)], .function, [(⟨0, 32⟩, .rw)], .word 0x0⟩,
  ⟨0x105000C, [(0x200000, 32), (0x10, 64)], .function, [(⟨0, 1⟩, .rw)], .word 0x1⟩]

/-- Every register kind of the device. -/
def regTable : List RegDesc := regTable0 ++ regTable1 ++ regTable2 ++ regTable3 ++ regTable4 ++ regTable5 ++ regTable6

/-- The indices of the instance of a replicated register that lies `rel` bytes after its base (R391); none when no
instance lies there. -/
def instanceAt : List (Nat × Nat) → Nat → Option (List Nat)
  | [], rel => if rel = 0 then some [] else none
  | (stride, count) :: rest, rel =>
    if rel / stride < count then (instanceAt rest (rel % stride)).map (rel / stride :: ·) else none

/-- The register that lies at an offset of the table, with its indices. -/
def findIn : List RegDesc → Nat → Option (RegDesc × List Nat)
  | [], _ => none
  | d :: rest, off =>
    if d.base ≤ off then
      match instanceAt d.dims (off - d.base) with
      | some ix => some (d, ix)
      | none => findIn rest off
    else findIn rest off

/-- The register at a BAR0 offset; none for a reserved offset (R7). -/
def regAt (off : Nat) : Option (RegDesc × List Nat) := findIn regTable off

/-- The sources visible to all functions (R333). -/
def allVisible (s : Nat) : Bool := s = 5497 || s = 5498 || s = 5523 || s = 5524 || s = 5526

/-- The reset value of a register's instance. `V` is the count of valid pages, on which `RESERVE` of a Plate Map entry
depends; it is 0 until POST completes (R98). -/
def resetOf (r : ResetRule) (ix : List Nat) : Nat :=
  let i := ix.headD 0
  let j := ix.getD 1 0
  match r with
  | .word n => n
  | .stepping => Config.stepping.toNat + 0x100
  | .serialLo => Config.serial.toNat % 2 ^ 32
  | .serialHi => Config.serial.toNat / 2 ^ 32
  | .fwVer => Config.rollback.toNat * 2 ^ 16 + 0x01000000
  | .pmapLo => if i < 65536 then (i % 4096) * 2 ^ 20 else 0
  | .pmapHi => if i < 65536 then i / 4096 else 0
  | .plateOwn => 8 + i * 2 ^ 16
  | .plateSite => if i ≤ 31 then i * 4 else 1
  | .diag => if j / 3 = j % 3 then 16384 else 0
  | .hcoef => Presets.hcoefWord i j
  | .vcoef => Presets.vcoefWord i j
  | .degamma => Presets.degammaWord (i % 1024)
  | .regamma => Presets.regammaWord (i % 4096)
  | .srcCfg => 0x800000 + (if allVisible i then 2 ^ 29 else 0)

/-- The reset value of the word at a BAR0 offset; zero at a reserved offset (R7). -/
def resetWord (off : Nat) : Nat :=
  match regAt off with
  | some (d, ix) => resetOf d.reset ix
  | none => 0

/-- The clock island that holds a register (R10, R391, R397: `SYS`, `CD`, `PWR`, `THM` and `AON` lie in island 0; the
other blocks lie with their unit; log entry 9). -/
def islandOf (off : Nat) : Nat :=
  if off < 0x10000 then 0
  else if off < 0x40000 then 2
  else if off < 0x80000 then 1
  else if off < 0x81000 then 6 + (off - 0x80000) / 0x200
  else if off < 0x82000 then 6 + (off - 0x81000) / 0x100 % 4
  else if off < 0x82200 then 6 + (off - 0x82000) / 0x80
  else if off < 0x82210 then 6
  else if off < 0x83000 then 8
  else if off < 0x100000 then 6
  else if off < 0x200000 then 1
  else if off < 0x380000 then 2
  else if off < 0x3A0000 then 62 + (off - 0x380000) / 0x4000
  else if off < 0x3B0100 then 4
  else if off < 0x3B0200 then 26 + min ((off - 0x3B0100) / 4) 35
  else if off < 0x3B4000 then 26 + min ((off - 0x3B0200) / 4) 35
  else if off < 0x400000 then 4
  else if off < 0x800000 then 2
  else if off < 0x810000 then 0
  else if off < 0x820000 then 5
  else if off < 0x870000 then 3
  else if off < 0x8A0000 then 2
  else if off < 0x8C0000 then 0
  else if off < 0x8D0000 then 10 + min ((off - 0x8C0000) / 0x1000) 15
  else if off < 0x1000000 then 0
  else 1

end Sys2Proof.Machine
end

