-- ==== Sys2Proof/Machine/Catalogue.lean ====
section
/-! DEFINITION. The catalogues of shadow and status fields: layer descriptors (R32), heads (R231) and signature regions
(R277), with the places of their words in BAR0 (R391). -/

namespace Sys2Proof.Machine

/-- One field of a catalogue: index in its class, the bits it stores, program (true) or status (false), reset. -/
structure CatField where
  index : Nat
  mask : Nat
  program : Bool
  reset : Nat
deriving DecidableEq, Repr

/-! Index of the layer descriptor fields (R32). -/
namespace Lyr
def LAYER_EN : Nat := 0x0
def HEAD : Nat := 0x1
def ZORDER : Nat := 0x2
def DST_X : Nat := 0x3
def DST_Y : Nat := 0x4
def DST_W : Nat := 0x5
def DST_H : Nat := 0x6
def CROP_X : Nat := 0x7
def CROP_Y : Nat := 0x8
def CROP_W : Nat := 0x9
def CROP_H : Nat := 0xA
def FLIP : Nat := 0xB
def FORMAT : Nat := 0xC
def TILING : Nat := 0xD
def ROTATE : Nat := 0xE
def SURF_W : Nat := 0xF
def SURF_H : Nat := 0x10
def P0_ADDR_LO : Nat := 0x11
def P0_ADDR_HI : Nat := 0x12
def P0_PITCH : Nat := 0x13
def P1_ADDR_LO : Nat := 0x14
def P1_ADDR_HI : Nat := 0x15
def P1_PITCH : Nat := 0x16
def EMAP_ADDR_LO : Nat := 0x17
def EMAP_ADDR_HI : Nat := 0x18
def CLT_INNER : Nat := 0x19
def CHROMA_SITING : Nat := 0x1A
def SOLID_EN : Nat := 0x1B
def INGEST_STREAM : Nat := 0x1C
def INGEST_MODE : Nat := 0x1D
def BUF_INDEX : Nat := 0x1E
def READY_POLICY : Nat := 0x1F
def READY_WAIT : Nat := 0x20
def AP_BURST : Nat := 0x21
def PLANE_ALPHA : Nat := 0x22
def BLEND_MODE : Nat := 0x23
def ALPHA_IGNORE : Nat := 0x24
def SOLID_RG : Nat := 0x25
def SOLID_BA : Nat := 0x26
def SCALER_CTX : Nat := 0x27
def HCOEF_SET : Nat := 0x28
def VCOEF_SET : Nat := 0x29
def H_PHASE : Nat := 0x2A
def V_PHASE : Nat := 0x2B
def EDGE_MODE : Nat := 0x2C
def SCALE_FORCE : Nat := 0x2D
def IN_RANGE : Nat := 0x2E
def CSC_SEL : Nat := 0x2F
def CSC_TABLE : Nat := 0x30
def DEGAMMA_SEL : Nat := 0x31
def DEGAMMA_TABLE : Nat := 0x32
def CLUT_TABLE : Nat := 0x33
def SIG_BIND : Nat := 0x34
def ACT_FRAME : Nat := 0x35
def ACT_BUF : Nat := 0x36
def HOLD_COUNT : Nat := 0x37
def FALLBACK_COUNT : Nat := 0x38
def FETCH_TILES : Nat := 0x39
def PLAN_RATE : Nat := 0x3A
def OWNER_FN : Nat := 0x3B
def USER0 : Nat := 0x3C
def USER1 : Nat := 0x3D
def USER2 : Nat := 0x3E
def USER3 : Nat := 0x3F
end Lyr

/-! Index of the head fields (R231). -/
namespace Hd
def HEAD_EN : Nat := 0x0
def CD_SEL : Nat := 0x1
def PIX_INC : Nat := 0x2
def PPC : Nat := 0x3
def HACTIVE : Nat := 0x4
def HFP : Nat := 0x5
def HSYNC : Nat := 0x6
def HBP : Nat := 0x7
def VACTIVE : Nat := 0x8
def VFP : Nat := 0x9
def VSYNC : Nat := 0xA
def VBP : Nat := 0xB
def SYNC_POL : Nat := 0xC
def VTOTAL_MIN : Nat := 0xD
def VTOTAL_MAX : Nat := 0xE
def PIPE : Nat := 0xF
def PAIR_EN : Nat := 0x10
def PIPE2 : Nat := 0x11
def DSC_EN : Nat := 0x12
def DSC_SLICES : Nat := 0x13
def DSC_SLICE_H : Nat := 0x14
def DSC_BPP : Nat := 0x15
def DSC_BLOCK_PRED : Nat := 0x16
def VSC_EN : Nat := 0x17
def VSC_COLORIMETRY : Nat := 0x18
def WB_EN : Nat := 0x19
def WB_DIV : Nat := 0x1A
def WB_CHAN : Nat := 0x1B
def SHED_RANK : Nat := 0x1C
def USER : Nat := 0x1D
def HEAD_STATE : Nat := 0x20
def ACT_VTOTAL : Nat := 0x21
def WB_SKIP : Nat := 0x22
end Hd

/-! Index of the signature-region fields (R277). -/
namespace Sg
def SIG_EN : Nat := 0x0
def SIG_X : Nat := 0x1
def SIG_Y : Nat := 0x2
def SIG_W : Nat := 0x3
def SIG_H : Nat := 0x4
def SIG_ACTION : Nat := 0x5
def WARN_C01 : Nat := 0x6
def WARN_C2 : Nat := 0x7
def EXP0 : Nat := 0x8
def EXP1 : Nat := 0x9
def EXP2 : Nat := 0xA
def EXP3 : Nat := 0xB
def CMP_EN : Nat := 0xC
def LAST_CRC : Nat := 0xD
def LAST_FRAME : Nat := 0xE
def MISMATCH_COUNT : Nat := 0xF
end Sg

/-- Layer descriptor fields 0x00 to 0x1F (R32). -/
def layerFields0 : List CatField := [
  ⟨0x0, 0x1, true, 0⟩,
  ⟨0x1, 0x7F, true, 0⟩,
  ⟨0x2, 0x1FF, true, 0⟩,
  ⟨0x3, 0xFFFF, true, 0⟩,
  ⟨0x4, 0xFFFF, true, 0⟩,
  ⟨0x5, 0x7FFF, true, 1⟩,
  ⟨0x6, 0x7FFF, true, 1⟩,
  ⟨0x7, 0x3FFF, true, 0⟩,
  ⟨0x8, 0x3FFF, true, 0⟩,
  ⟨0x9, 0x7FFF, true, 1⟩,
  ⟨0xA, 0x7FFF, true, 1⟩,
  ⟨0xB, 0x3, true, 0⟩,
  ⟨0xC, 0xF, true, 0⟩,
  ⟨0xD, 0x1, true, 0⟩,
  ⟨0xE, 0x3, true, 0⟩,
  ⟨0xF, 0x7FFF, true, 1⟩,
  ⟨0x10, 0x7FFF, true, 1⟩,
  ⟨0x11, 0xFFFFFFFF, true, 0⟩,
  ⟨0x12, 0x1F, true, 0⟩,
  ⟨0x13, 0x3FFFF, true, 64⟩,
  ⟨0x14, 0xFFFFFFFF, true, 0⟩,
  ⟨0x15, 0x1F, true, 0⟩,
  ⟨0x16, 0x3FFFF, true, 64⟩,
  ⟨0x17, 0xFFFFFFFF, true, 0⟩,
  ⟨0x18, 0x1F, true, 0⟩,
  ⟨0x19, 0xF, true, 0⟩,
  ⟨0x1A, 0x3, true, 0⟩,
  ⟨0x1B, 0x1, true, 0⟩,
  ⟨0x1C, 0x1FFF, true, 8191⟩,
  ⟨0x1D, 0x1, true, 0⟩,
  ⟨0x1E, 0xFF, true, 0⟩,
  ⟨0x1F, 0x3, true, 0⟩]

/-- Layer descriptor fields 0x20 to 0x3F (R32). -/
def layerFields1 : List CatField := [
  ⟨0x20, 0xFF, true, 1⟩,
  ⟨0x21, 0x1FFF, true, 0⟩,
  ⟨0x22, 0xFFFF, true, 65535⟩,
  ⟨0x23, 0x7, true, 1⟩,
  ⟨0x24, 0x1, true, 0⟩,
  ⟨0x25, 0xFFFFFFFF, true, 0⟩,
  ⟨0x26, 0xFFFFFFFF, true, 0⟩,
  ⟨0x27, 0x3F, true, 0⟩,
  ⟨0x28, 0xF, true, 0⟩,
  ⟨0x29, 0xF, true, 0⟩,
  ⟨0x2A, 0xFFFF, true, 0⟩,
  ⟨0x2B, 0xFFFF, true, 0⟩,
  ⟨0x2C, 0x3, true, 0⟩,
  ⟨0x2D, 0x1, true, 0⟩,
  ⟨0x2E, 0x1, true, 0⟩,
  ⟨0x2F, 0x7, true, 0⟩,
  ⟨0x30, 0xFF, true, 0⟩,
  ⟨0x31, 0x7, true, 0⟩,
  ⟨0x32, 0xFF, true, 0⟩,
  ⟨0x33, 0xFF, true, 0⟩,
  ⟨0x34, 0x1F, true, 0⟩,
  ⟨0x35, 0xFFFFFFFF, false, 0⟩,
  ⟨0x36, 0xFF, false, 0⟩,
  ⟨0x37, 0xFFFF, false, 0⟩,
  ⟨0x38, 0xFFFF, false, 0⟩,
  ⟨0x39, 0x7FFFF, false, 0⟩,
  ⟨0x3A, 0xFFFFFFFF, false, 0⟩,
  ⟨0x3B, 0x1F, false, 0⟩,
  ⟨0x3C, 0xFFFFFFFF, true, 0⟩,
  ⟨0x3D, 0xFFFFFFFF, true, 0⟩,
  ⟨0x3E, 0xFFFFFFFF, true, 0⟩,
  ⟨0x3F, 0xFFFFFFFF, true, 0⟩]

/-- Head fields (R231). -/
def headFields : List CatField := [
  ⟨0x0, 0x1, true, 0⟩,
  ⟨0x1, 0xF, true, 0⟩,
  ⟨0x2, 0x1FFFFFF, true, 16777216⟩,
  ⟨0x3, 0x3, true, 0⟩,
  ⟨0x4, 0x7FFF, true, 640⟩,
  ⟨0x5, 0x7FFF, true, 16⟩,
  ⟨0x6, 0x7FFF, true, 96⟩,
  ⟨0x7, 0x7FFF, true, 48⟩,
  ⟨0x8, 0x7FFF, true, 480⟩,
  ⟨0x9, 0x7FFF, true, 10⟩,
  ⟨0xA, 0x7FFF, true, 2⟩,
  ⟨0xB, 0x7FFF, true, 33⟩,
  ⟨0xC, 0x3, true, 0⟩,
  ⟨0xD, 0x7FFF, true, 525⟩,
  ⟨0xE, 0x7FFF, true, 525⟩,
  ⟨0xF, 0x3F, true, 0⟩,
  ⟨0x10, 0x1, true, 0⟩,
  ⟨0x11, 0x3F, true, 0⟩,
  ⟨0x12, 0x1, true, 0⟩,
  ⟨0x13, 0x7, true, 0⟩,
  ⟨0x14, 0x7FFF, true, 8⟩,
  ⟨0x15, 0x3FF, true, 192⟩,
  ⟨0x16, 0x1, true, 1⟩,
  ⟨0x17, 0x1, true, 0⟩,
  ⟨0x18, 0xF, true, 0⟩,
  ⟨0x19, 0x1, true, 0⟩,
  ⟨0x1A, 0xFF, true, 1⟩,
  ⟨0x1B, 0x3F, true, 0⟩,
  ⟨0x1C, 0x7F, true, 0⟩,
  ⟨0x1D, 0xFFFFFFFF, true, 0⟩,
  ⟨0x20, 0x3, false, 0⟩,
  ⟨0x21, 0x7FFF, false, 0⟩,
  ⟨0x22, 0xFFFF, false, 0⟩]

/-- Signature-region fields (R277); bits [15:12] of `WARN_C01` are reserved (R34). -/
def sigFields : List CatField := [
  ⟨0x0, 0x1, true, 0⟩,
  ⟨0x1, 0x3FFF, true, 0⟩,
  ⟨0x2, 0x3FFF, true, 0⟩,
  ⟨0x3, 0x7FFF, true, 1⟩,
  ⟨0x4, 0x7FFF, true, 1⟩,
  ⟨0x5, 0x1, true, 0⟩,
  ⟨0x6, 0xFFF0FFF, true, 0⟩,
  ⟨0x7, 0xFFF, true, 0⟩,
  ⟨0x8, 0xFFFFFFFF, true, 0⟩,
  ⟨0x9, 0xFFFFFFFF, true, 0⟩,
  ⟨0xA, 0xFFFFFFFF, true, 0⟩,
  ⟨0xB, 0xFFFFFFFF, true, 0⟩,
  ⟨0xC, 0x1, true, 0⟩,
  ⟨0xD, 0xFFFFFFFF, false, 0⟩,
  ⟨0xE, 0xFFFFFFFF, false, 0⟩,
  ⟨0xF, 0xFFFF, false, 0⟩]

/-- Every layer descriptor field (R32). -/
def layerFields : List CatField := layerFields0 ++ layerFields1

/-- The entry of a field index in a catalogue. -/
def catFind : List CatField → Nat → Option CatField
  | [], _ => none
  | f :: rest, i => if f.index = i then some f else catFind rest i

/-- BAR0 offset of field i of layer slot s (R32). -/
def lyrOff (s i : Nat) : Nat := 0x200000 + 256 * s + 4 * i
/-- BAR0 offset of field i of head h (R231). -/
def hdOff (h i : Nat) : Nat := 0x300000 + 0x1000 * h + 4 * i
/-- BAR0 offset of field i of signature region r of head h (R277, R391). -/
def sgOff (h r i : Nat) : Nat := 0x300800 + 0x1000 * h + 0x40 * r + 4 * i

/-- What kind of shadow object the word at a BAR0 offset is part of, with its indices. -/
inductive ShadowObj
  | layer (slot field : Nat) | head (h field : Nat) | sig (h r field : Nat)
  | csc (t word : Nat) | gamut (h word : Nat) | outm (h word : Nat) | cctl (h : Nat) | clut (t word : Nat)
  | hcoef (row word : Nat) | vcoef (row word : Nat) | degamma (t k : Nat) | regamma (h k : Nat)
  | members (g word : Nat)
deriving DecidableEq, Repr

/-- The shadow object word at a BAR0 offset (R32, R208, R231, R277, `EPH_GRP_MEMBERS`); none elsewhere. Offsets are
multiples of 4. -/
def shadowObj (off : Nat) : Option ShadowObj :=
  if off % 4 ≠ 0 then none
  else if 0x200000 ≤ off ∧ off < 0x300000 then
    some (.layer ((off - 0x200000) / 256) ((off - 0x200000) % 256 / 4))
  else if 0x300000 ≤ off ∧ off < 0x380000 then
    let h := (off - 0x300000) / 0x1000
    let o := (off - 0x300000) % 0x1000
    if o < 0x800 then (if o / 4 < 0x23 then some (.head h (o / 4)) else none)
    else if o < 0xC00 then some (.sig h ((o - 0x800) / 0x40) ((o - 0x800) % 0x40 / 4))
    else none
  else if 0x400000 ≤ off ∧ off < 0x404000 then
    if (off - 0x400000) % 64 / 4 < 12 then some (.csc ((off - 0x400000) / 64) ((off - 0x400000) % 64 / 4)) else none
  else if 0x404000 ≤ off ∧ off < 0x406000 then
    if (off - 0x404000) % 64 / 4 < 9 then some (.gamut ((off - 0x404000) / 64) ((off - 0x404000) % 64 / 4)) else none
  else if 0x406000 ≤ off ∧ off < 0x408000 then
    if (off - 0x406000) % 64 / 4 < 12 then some (.outm ((off - 0x406000) / 64) ((off - 0x406000) % 64 / 4)) else none
  else if 0x408000 ≤ off ∧ off < 0x408800 then
    if (off - 0x408000) % 16 = 0 then some (.cctl ((off - 0x408000) / 16)) else none
  else if 0x408800 ≤ off ∧ off < 0x409000 then
    some (.clut ((off - 0x408800) / 8) ((off - 0x408800) % 8 / 4))
  else if 0x410000 ≤ off ∧ off < 0x414000 then some (.hcoef ((off - 0x410000) / 16) ((off - 0x410000) % 16 / 4))
  else if 0x414000 ≤ off ∧ off < 0x418000 then
    if (off - 0x414000) % 16 / 4 < 3 then some (.vcoef ((off - 0x414000) / 16) ((off - 0x414000) % 16 / 4)) else none
  else if 0x440000 ≤ off ∧ off < 0x540000 then some (.degamma ((off - 0x440000) / 4096) ((off - 0x440000) % 4096 / 4))
  else if 0x600000 ≤ off ∧ off < 0x800000 then
    some (.regamma ((off - 0x600000) / 16384) ((off - 0x600000) % 16384 / 4))
  else if 0x3B9800 ≤ off ∧ off < 0x3B9A00 then some (.members ((off - 0x3B9800) / 16) ((off - 0x3B9800) % 16 / 4))
  else none

/-- The bits that a shadow word stores; zero when the word is a status field, reserved or a fixed preset row (R34, R35,
R181, R187, R208). -/
def shadowMask : ShadowObj → Nat
  | .layer _ i => match catFind layerFields i with | some f => if f.program then f.mask else 0 | none => 0
  | .head _ i => match catFind headFields i with | some f => if f.program then f.mask else 0 | none => 0
  | .sig _ _ i => match catFind sigFields i with | some f => if f.program then f.mask else 0 | none => 0
  | .csc _ w => if w < 9 then 0x3FFFF else 0xFFFFF
  | .gamut _ _ => 0x3FFFF
  | .outm _ w => if w < 9 then 0x3FFFF else 0xFFFFF
  | .cctl _ => 0xF7773
  | .clut _ w => if w = 0 then 0xFFFFFFFF else 0x1F
  | .hcoef r _ => if 256 ≤ r then 0x0FFF0FFF else 0
  | .vcoef r _ => if 256 ≤ r then 0x0FFF0FFF else 0
  | .degamma _ k => if k = 1023 then 0xFFFFFFFF else 0xFFFF
  | .regamma _ k => if k = 4095 then 0xFFFFFFFF else 0xFFFF
  | .members _ _ => 0xFFFFFFFF

/-- The reset value of a shadow word (R32, R231, R277, R187; a sync group has no members at reset). -/
def shadowReset (off : Nat) : Nat :=
  match shadowObj off with
  | some (.layer _ i) => match catFind layerFields i with | some f => f.reset | none => 0
  | some (.head _ i) => match catFind headFields i with | some f => f.reset | none => 0
  | some (.sig _ _ i) => match catFind sigFields i with | some f => f.reset | none => 0
  | some _ => resetWord off
  | none => 0

end Sys2Proof.Machine
end

