-- ==== Sys2Proof/Machine/State.lean ====
section
/-! DEFINITION. The state of the NDC-7128 as plain data: its registers under their BAR0 offsets, shadow and active copies,
memory, and the state of every engine the spec names; the state right after reset. -/

namespace Sys2Proof.Machine

/-- One occurrence of an event source on its way to island 2 (R332, R334): stamped when raised. -/
structure Occ where
  source : Nat
  cause : Nat
  detail : Nat
  time : Nat
  island : Nat
deriving DecidableEq, Repr

/-- What the device puts into the PCIe transmit queue, in order. -/
inductive Outbound
  /-- A posted write of function `fn` (R71, R104). -/
  | write (fn addr : Nat) (bytes : List Byte)
  /-- An MSI-X message (R321, R341). -/
  | msix (fn vector addr data : Nat)
  /-- A completion with data of a host read; `poisoned` sets the poisoned-TLP bit (R12, R317). -/
  | completion (fn : Nat) (data : List Byte) (poisoned : Bool)
  /-- A completion with Unsupported Request (R323). -/
  | unsupported (fn : Nat)
  /-- A completion with Request Retry Status (R315). -/
  | retryStatus (fn : Nat)
  /-- A successful completion of a configuration request. -/
  | configDone (fn : Nat)
  /-- A memory read request of the device (R104, R148). -/
  | readRequest (fn addr len : Nat)
  /-- Readiness messages, PME and LTR (R315, R347, R324). -/
  | drs | frs (fn : Nat) | pme (fn : Nat) | ltr (ns : Nat)
  /-- A status and data block of the SMBus in Safe Station (R378). -/
  | smbus (status : Nat) (data : List Byte)
  /-- An answer over the DOE mailbox (R329). -/
  | doe (protocol : Nat) (answer : BitVec 8192)
deriving DecidableEq, Repr

/-- A request that waits at a memory controller in class GC or BE (R145, R217): the controller, the source (sequencer q; 160 + n
for the ring of `CP`n; 192 + c for DMA channel c; 256 + s for ingest stream s), the 64-byte word, whether its class is BE. -/
structure McReq where
  mc : Nat
  source : Nat
  word : Nat
  be : Bool
  /-- When it arrived. -/
  at_ : Nat
deriving DecidableEq, Repr

/-- A transfer on its way to an island that has not arrived whole (R12, R13): its parity as it first arrives, whether it failed and
waits for its resend, whether it waits for the gated island to wake. -/
structure Crossing where
  island : Nat
  transfer : Transfer
  ok : Bool
  failed : Bool
  asleep : Bool
deriving DecidableEq, Repr

/-- An unperformed store of a sequencer (R71): where it goes was settled at issue. -/
inductive StoreDest
  | localMem (phys : Nat)
  | hostWin (fn addr : Nat)
  | register (off : Nat)
deriving DecidableEq, Repr

/-- A store that has been issued and not performed: the 8-byte word it lies in, where it goes, its bytes, when it issued. -/
structure Store where
  word : Nat
  at_ : Nat
  dest : StoreDest
  bytes : List Byte
deriving DecidableEq, Repr

/-- A shadow write of a sequencer not yet accepted (R81): masked words, or one `LCOPY` unit (R80). -/
inductive ShadowWrite
  | words (ws : List (Nat × Nat × Nat))
  | lcopy (dst src : Nat) (keepHead keepEn fromActive : Bool)
deriving DecidableEq, Repr

/-- What a sequencer waits for. -/
inductive Waiting
  | nothing
  /-- An instruction fetch of the line at this byte address (R26): whence, and the time of issue. -/
  | fetch (line : Nat) (src : StoreDest) (at_ : Nat)
  /-- A load (R69); `next` is the program counter behind it. -/
  | load (dest size addr : Nat) (src : StoreDest) (at_ next : Nat)
  /-- An `ATOM` (R70). -/
  | atom (dest size oper addr phys at_ : Nat) (operand compare : DWord)
  /-- `WAITEV` (R73). -/
  | event (dest source last : Nat) (deadline : Option Nat)
  /-- `WAITLN` (R74): until line `target` of the frame `frame` begins, or, when `out`, until the next boundary. -/
  | line (head target frame : Nat) (out : Bool)
  /-- `FENCE` (R77) with its CTL bits. -/
  | fence (ctl : Nat)
  /-- `HALT` (R66). -/
  | halt
  /-- A `CHECK` or `COMMIT` with `WAIT` (R83): the identifier of its commit. -/
  | result (dest id : Nat)
  /-- `ABORT` (R87). -/
  | abort (mask : Nat)
deriving DecidableEq, Repr

/-- A ring entry read by a command processor: its index and its 64 bytes, or a failed read (R38, R42). -/
structure RingEntry where
  index : Nat
  bytes : List Byte
  failed : Bool
deriving DecidableEq, Repr

/-- A read of a command processor or a DMA channel in flight: frame-store address, place and time of its translation (R96), when it
times out if it is a host read (R149, R322). -/
structure Flight where
  addr : Nat
  src : StoreDest
  at_ : Nat
  deadline : Nat
deriving DecidableEq, Repr

/-- One sequencer (R54): registers, flags, program counter, return stack, program buffer and the work it has in hand. -/
structure Seq where
  regs : List (Nat × DWord)
  z : Bool
  n : Bool
  c : Bool
  v : Bool
  /-- In 8-byte words; 2^34 is the value past the end, which faults at the next fetch (R56). -/
  pc : Nat
  stack : List Nat
  /-- Program buffer (R89): line number ↦ (line address, its 8 words). -/
  buffer : List (Nat × Nat × List DWord)
  stores : List Store
  shadowQ : List ShadowWrite
  waiting : Waiting
  /-- LINK_WAIT: the access is issued again when the link is back (R72). -/
  linkWait : Bool
  nextTicket : Nat
  /-- Sidereal time at which the run in progress began (`FSQ_RUN_LAST`). -/
  runStart : Nat
  /-- Command processor: entries read ahead (R38), the next index to read, the entry in hand. -/
  ahead : List RingEntry
  nextRead : Nat
  entry : Option RingEntry
  /-- The entry in hand has begun; it has completed. -/
  begun : Bool
  done : Bool
  /-- The entry in hand runs from the entry itself (`INLINE`). -/
  inl : Bool
  /-- When a `WAIT` entry began; when it last polled (R38). -/
  waitFrom : Nat
  polledAt : Nat
  /-- When the host read in hand times out, fixed at its issue (R72). -/
  deadline : Nat
  /-- The read of the next ring entry in flight (R38). -/
  ringRead : Option Flight
  /-- The read of the word of a `WAIT` entry in flight (R38). -/
  pollRead : Option Flight
deriving DecidableEq, Repr

/-- A sequencer with nothing in hand (R55). -/
def Seq.reset : Seq :=
  { regs := [], z := false, n := false, c := false, v := false, pc := 0, stack := [], buffer := [], stores := [],
    shadowQ := [], waiting := .nothing, linkWait := false, nextTicket := 0, runStart := 0, ahead := [], nextRead := 0,
    entry := none, begun := false, done := false, inl := false, waitFrom := 0, polledAt := 0,
    deadline := 0, ringRead := none, pollRead := none }

/-- The configuration space of one function as far as the spec gives it an effect (R315 to R323). -/
structure PciFn where
  /-- Configuration requests are answered (R315). -/
  ready : Bool
  /-- A Function Level Reset is under way (R315). -/
  inFlr : Bool
  busMaster : Bool
  memEnable : Bool
  /-- 0 to 3: D0 to D3hot; 4: D3cold. -/
  dstate : Nat
  pmeEnable : Bool
  msixEnable : Bool
  msixMask : Bool
  /-- Completion Timeout of Device Control 2, ns (R322). -/
  timeout : Nat
  /-- Base-2 logarithm of the BAR2 size in force, and a size written that waits (R316). -/
  bar2 : Nat
  bar2Next : Option Nat
  /-- The PF's SR-IOV control: VF Enable, NumVFs, ARI Capable Hierarchy (R318). -/
  vfEnable : Bool
  numVfs : Nat
  ari : Bool
  /-- Max_Read_Request_Size, bytes (R314). -/
  maxRead : Nat
  /-- Uncorrectable Error Severity: 1 is fatal (R323). -/
  severity : Word
  /-- The PF's ASPM L1 enable, and the enables of L1.1 and L1.2 (R325). -/
  aspm : Bool × Bool × Bool
  /-- Errors logged in the function's AER capability, oldest first (R323). -/
  aer : List Nat
deriving DecidableEq, Repr

/-- Configuration space at reset: 256 MiB of BAR2 for the PF, 64 MiB for a VF, completion timeout 50 ms (R316, R322), the
severities of R323 (malformed TLP, receiver overflow and flow control fatal), requests of 512 bytes. -/
def PciFn.reset (f : Nat) : PciFn :=
  { ready := false, inFlr := false, busMaster := false, memEnable := false, dstate := 0, pmeEnable := false,
    msixEnable := false, msixMask := false, timeout := 50000000, bar2 := if f = 0 then 28 else 26, bar2Next := none,
    vfEnable := false, numVfs := 0, ari := false, maxRead := 512, severity := 0x62000, aspm := (false, false, false), aer := [] }

/-- A retirement in progress (R103). -/
structure Retirement where
  page : Nat
  fromFrame : Nat
  toFrame : Nat
  copied : Bool
deriving DecidableEq, Repr

/-- What one pipe must give to a state of one group (R421): pixel rate in units of 2⁻²⁴ Hz, heads, counts of distinct
programmed input matrices and degamma tables, encoder slices, tags (R142). -/
structure PipeReq where
  pipe : Nat
  load : Nat
  /-- Heads on the pipe: head, its rate, whether paired. -/
  heads : List (Nat × Nat × Bool)
  matrices : Nat
  degammas : Nat
  slices : Nat
  tags : Nat
deriving DecidableEq, Repr

/-- An item of the Plate Store placed for a state (R124, R125): a landing or line buffer of a pipe. -/
structure Item where
  pipe : Nat
  head : Nat
  /-- Layer slot of a line buffer; 4096 for a landing. -/
  slot : Nat
  size : Nat
  plate : Nat
  start : Nat
deriving DecidableEq, Repr

/-- A shadow or active copy (R27), or the words that a commit carries. -/
abbrev View := List (Nat × Word)

/-- What the admission fixed for a state beside its fields: the layers that are opaque wherever they cover a tile (R151)
and the admitted occupancy of its CLT layers, as slot and tile number ty × TX + tx (R154). -/
structure Occlusion where
  opaque_ : List Nat
  occupied : List (Nat × List Nat)
deriving DecidableEq, Repr

/-- What Ephemeris keeps of one admitted state of one group (R223). -/
structure GroupPlan where
  localPeak : Nat
  hostPeak : Nat
  pipes : List PipeReq
  items : List Item
  /-- `PLAN_RATE` and `FETCH_TILES` per layer slot, Aperture rate per (slot, pipe) as slot × 64 + pipe (R221). -/
  rates : List (Nat × Nat)
  tiles : List (Nat × Nat)
  /-- Host-window layers of the state (R420). -/
  hostLayers : List Nat
  /-- The fixed visible sets and occupancy (R152, R154). -/
  occlusion : Occlusion
  /-- Fetching layers with their pipe, as slot × 64 + pipe, and the plan-default burst (R156). -/
  bursts : List (Nat × Nat)
deriving DecidableEq, Repr

/-- A Clock Drive (R255 to R273): the settings in force, the present divider value and its anchor times 2³², and what
its control loops hold. -/
structure Drive where
  n : Nat
  frac : Nat
  d : Nat
  /-- Value at the last declaration of inner lock (R261). -/
  anchor : Option Nat
  /-- The ramp: the value it left, when, and where it goes (R261 to R263). -/
  rampFrom : Nat
  rampAt : Nat
  rampTo : Nat
  gated : Bool
  /-- Failed attempts of the relock in hand (R258). -/
  tries : Nat
  /-- Period of the reference as the monitor measures it, 2⁻¹⁶ ns (R264). -/
  refPeriod : Nat
  /-- Consecutive pulses within one stream-clock period; a step is to be planned at the next pulse; the heads whose
  accumulators are to be cleared at their next boundary (R267 to R269). -/
  goodPulses : Nat
  wantStep : Bool
  clearAccum : List Nat
  /-- Lines still to lengthen (positive) or shorten by; the change fixed last and when (R269). -/
  steps : Int
  delta : Int
  deltaAt : Nat
  /-- Start of the attempt to lock in hand (R258). -/
  relockAt : Nat
  /-- When the comparator came to read above its threshold (R257). -/
  pinAt : Nat
  /-- The outer loop's estimate: the value that gives the reference's frequency, times 2³² (R265, R266). -/
  refTo : Nat
  /-- The last pulse of a frame-pulse reference (R267). -/
  pulseAt : Nat
deriving DecidableEq, Repr

/-- A drive with the reset settings of `CD_DIV` and `CD_FRAC`, off. -/
def Drive.reset : Drive :=
  { n := 160, frac := 0, d := 16, anchor := none, rampFrom := 160 * 2 ^ 32, rampAt := 0, rampTo := 160 * 2 ^ 32, gated := true,
    tries := 0, refPeriod := 0, goodPulses := 0, wantStep := false, clearAccum := [], steps := 0, delta := 0,
    deltaAt := 0, relockAt := 0, pinAt := 0, refTo := 160 * 2 ^ 32, pulseAt := 0 }

/-- A `CHECK`, `COMMIT` or bench commit from its issue to the delivery of its result (R83, R50). -/
structure Commit where
  id : Nat
  /-- The sequencer, or 160 for a bench commit. -/
  by_ : Nat
  fn : Nat
  ticket : Nat
  mask : Nat
  dry : Bool
  result : Nat
  target : Option Nat
  issue : Nat
  snap : List (Nat × Word)
  bench : Bool
  arrived : Bool
  tS : Option Nat
  /-- The registers, Clock Drives, roles of pipes and pipe substitutions as they stood at t_s (R214). -/
  sampled : List (Nat × Word)
  sampledDrives : List (Nat × Drive)
  sampledRoles : List (Nat × Nat)
  sampledSubst : List (Nat × Nat)
  /-- Plane 0, plane 1 and map addresses of every buffer that a layer may show, by layer slot, sampled at t_s; none for a
  descriptor whose read was refused (R168, R214). -/
  sources : List (Nat × List (Option (Nat × Nat × Nat)))
  /-- Occlusion of the new state, from what R151 and R154 read at t_s. -/
  occlusion : Occlusion
  /-- A tile-map read of R154 was refused. -/
  mapRefused : Bool
  verdict : Option Nat
  frame : Nat
deriving DecidableEq, Repr

/-- An admitted commit that has not yet taken effect on every group (R225 to R228). -/
structure Admitted where
  id : Nat
  by_ : Nat
  fn : Nat
  ticket : Nat
  mask : Nat
  result : Nat
  issue : Nat
  /-- The whole copy once this commit has taken effect. -/
  view : View
  bench : Bool
  /-- (group, frame of its lowest member, predicted boundary time) for each group still to take effect. -/
  frames : List (Nat × Nat × Nat)
  /-- The frame from which each member head shows the state. -/
  headFrames : List (Nat × Nat)
  windowEnd : Nat
  extra : Bool
  plans : List (Nat × GroupPlan)
  opened : Bool
  waitOk : Bool
  /-- Failed tests of R166, by layer slot; layers that passed by exhausting `READY_WAIT` alone. -/
  waited : List (Nat × Nat)
  exhausted : List Nat
  /-- The result has been delivered (R228). -/
  told : Bool
  /-- Islands that hold state for the heads, that have the latch copy, that have acknowledged in time, that have the
  decision (with its sense), that have switched. -/
  need : List Nat
  copies : List Nat
  acked : List Nat
  decision : Option Bool
  decided : List (Nat × Bool)
  switched : List Nat
deriving DecidableEq, Repr

/-- The raster of a head (R76, R140, R230). -/
structure HeadRun where
  frame : Nat
  boundary : Nat
  line : Nat
  /-- Pixels that the line has advanced at its first edge; the pixel-enable accumulator then (R232, R235). -/
  pixel : Nat
  accum : Nat
  /-- Vertical total fixed for the next frame (R140). -/
  nextV : Nat
deriving DecidableEq, Repr

/-- What the device holds of a slot of an ingest stream (R294, R298): 0 empty, 1 writing, 2 complete, 3 incomplete. -/
structure Slot where
  state : Nat
  stamp : Nat
  cause : Nat
  seq : Nat
deriving DecidableEq, Repr

/-- An island that lost both copies of a decision: it keeps the old state of the group until the next boundary (R227). -/
structure Split where
  island : Nat
  group : Nat
  view : View
  plan : GroupPlan
  /-- The boundary at which the split began. -/
  since : Nat
deriving DecidableEq, Repr

/-- An Aperture of a layer on a pipe (R156): rate in 2⁻¹⁶ bytes/µs, burst in bytes, credit in 2⁻¹⁶ byte. -/
structure Aperture where
  rate : Nat
  burst : Nat
  credit : Int
deriving DecidableEq, Repr


/-- A tag of the fetch engine (R141). -/
structure Tag where
  pipe : Nat
  head : Nat
  slot : Nat
  /-- 0 plane 0, 1 plane 1, 2 tile map, 3 palette. -/
  kind : Nat
  band : Nat
  word : Nat
  frame : Nat
  /-- Frame-store address, when it was translated, where it goes. -/
  addr : Nat
  at_ : Nat
  dest : StoreDest
  deadline : Int
  /-- 0 `HELD`, 1 `ISSUED`, 2 `STALE`, 3 `LANDING`; a tag that is not listed is `FREE`. -/
  state : Nat
  /-- Taken from the spare pool (R142). -/
  spare : Bool
  /-- The request has entered its queue; it has moved to class SU (R145); the host read that carries it. -/
  issued : Bool
  urgent : Bool
  request : Option Nat
  /-- What has been read: 0 nothing yet, 1 data, 2 poison, 3 an error completion. -/
  answer : Nat
  data : List Byte
  /-- When the request entered its queue (R145). -/
  arrived : Nat
deriving DecidableEq, Repr

/-- A host read of the fetch engine in flight (R148). -/
structure HostRead where
  id : Nat
  fn : Nat
  /-- Its address in host memory. -/
  addr : Nat
  /-- When it times out, fixed by `FET_CTL.HOST_TIMEOUT` when it was sent (R149). -/
  deadline : Nat
  tags : List Nat
deriving DecidableEq, Repr

/-- A word of a landing (R124, R138): what became of it. -/
structure Landed where
  pipe : Nat
  head : Nat
  slot : Nat
  kind : Nat
  word : Nat
  frame : Nat
  /-- 0 room reserved, 1 intact, 2 poisoned, 3 failed by an error completion, 4 refused, 5 never granted,
  6 freed. -/
  status : Nat
  data : List Byte
  /-- Read by the pipe; held (R160); its room is free and only the line buffer keeps it (R161). -/
  used : Bool
  held : Bool
  freed : Bool
  /-- Address in the Plate Store of the 64 bytes reserved for it (log entry 132). -/
  at_ : Nat
deriving DecidableEq, Repr

/-- What a layer shows on one frame (R164, R165): ring slot, plane and map addresses; nothing for a layer removed or
composed as transparent. -/
structure Shown where
  frame : Nat
  ring : Option Nat
  source : Option (Nat × Nat × Nat)
  fresh : Bool
  fallback : Bool
deriving DecidableEq, Repr

/-- What a head gathers over the frame in progress. -/
structure FrameRun where
  /-- Line period sampled at the boundary, 2⁻¹⁶ ns (R140). -/
  lineT : Nat
  /-- `FLAGS` of the frame's record (R284). -/
  flags : Nat
  /-- Layers with a held word (R162); tiles reported, as slot, tile and cause (R111, R155). -/
  heldLayers : List Nat
  tiles : List (Nat × Nat × Nat)
  /-- Values behind stage 6 by 2 × line + part, part 1 being the right pipe of a pair. -/
  rows : List (Nat × List (Nat × Nat × Nat))
  /-- Pixel pairs replaced after a failed check (R364), as line and first column. -/
  patches : List (Nat × Nat)
  /-- The head composes the black code (R358); reads its retained frame (R353); builds one (R352). -/
  black : Bool
  reading : Bool
  building : Bool
  /-- A commit took effect; a bound layer was fresh (R352). -/
  committed : Bool
  freshBuf : Bool
  /-- The journal records the frame (R282); its record has been made. -/
  journal : Bool
  recorded : Bool
  /-- The frame is one that the head writes back, and its writeback runs (R251). -/
  chosen : Bool
  /-- Regions that show the warning pattern (R281). -/
  warn : Nat
  /-- The frame number, 64 bits, and its boundary (R283). -/
  number : Nat
  opened : Nat
  /-- When its last active line was composed (R282). -/
  doneAt : Nat
deriving DecidableEq, Repr

/-- A frame of a head that is not running. -/
def FrameRun.reset : FrameRun :=
  { lineT := 0, flags := 0, heldLayers := [], tiles := [], rows := [], patches := [], black := false, reading := false,
    building := false, committed := false, freshBuf := false, journal := false, recorded := true, chosen := false, warn := 0, number := 0,
    opened := 0, doneAt := 0 }

/-- A retained frame (R352, R353): the values behind stage 6 of the frame that it holds, the plate space it takes. -/
structure Retained where
  rows : List (Nat × List (Nat × Nat × Nat))
  items : List Item
  /-- The bytes that the layers of the frame were composed from: slot, kind, word, bytes; what each layer showed (R353). -/
  content : List (Nat × Nat × Nat × List Byte)
  sources : List (Nat × Option (Nat × Nat × Nat))
deriving DecidableEq, Repr

/-- What a port holds beside its registers (R241 to R254). -/
structure Port where
  /-- When `HPD` last fell and rose (R246). -/
  fallAt : Option Nat
  riseAt : Option Nat
  /-- Training is asked for; an attempt runs; the rates and lane counts still to try, the running one first. -/
  wanted : Bool
  running : Bool
  attempts : List (Nat × Nat)
  /-- Rate and lane count to begin with after a lane substitution (R252). -/
  held : Option (Nat × Nat)
  /-- Retries of R242 made; when the port entered `TRAIN_FAIL`. -/
  retries : Nat
  failAt : Nat
  /-- Disconnected, or an IRQ_HPD, during the attempt (R243). -/
  dropping : Bool
  irqSeen : Bool
  /-- AUX engine (R244, R245): 0 free, 1 a driver transaction, 2 a link-status read of the link engine, 3 a transaction of a
  training; the parties that wait; the retries made; a retry waits for 400 µs. -/
  aux : Nat
  driverWaits : Bool
  engineWaits : Bool
  tries : Nat
  defers : Nat
  deferred : Bool
  /-- Port lanes whose slice has failed without substitution (R253). -/
  failedLanes : List Nat
  /-- A substitution ends when the port is back in `VIDEO` (R252); a loopback runs (R254). -/
  substituting : Bool
  looping : Bool
  /-- When the request of the transaction in hand was sent, or its DEFER came (R244). -/
  auxAt : Nat
  /-- When the loopback began (R254). -/
  loopAt : Nat
deriving DecidableEq, Repr

/-- A port with nothing in hand. -/
def Port.reset : Port :=
  { fallAt := none, riseAt := none, wanted := false, running := false, attempts := [], held := none, retries := 0,
    failAt := 0, dropping := false, irqSeen := false, aux := 0, driverWaits := false, engineWaits := false, tries := 0,
    defers := 0, deferred := false, failedLanes := [], substituting := false, looping := false, auxAt := 0, loopAt := 0 }

/-- A spare lane on its way in front of an output stage (R252). -/
structure Steer where
  port : Nat
  lane : Nat
  wasSending : Bool
deriving DecidableEq, Repr

/-- A state in effect for a group to which an island has still to switch (R20). -/
structure SwitchTodo where
  id : Nat
  island : Nat
  group : Nat
  old : GroupPlan
  new : GroupPlan
  /-- Layers and pipes to which the commit gives a segment, as slot × 64 + pipe (R158). -/
  keep : List Nat
deriving DecidableEq, Repr

/-- A swap of a pipe to its cluster's spare (R363, R364): whether after a failure, since when, whether the spare is loaded,
the heads that have moved. -/
structure Swap where
  pipe : Nat
  spare : Nat
  fault : Bool
  at_ : Nat
  loaded : Bool
  moved : List Nat
deriving DecidableEq, Repr

/-- A write-combining line of a stream (R297): its address, the bytes written by offset, whether any was yellow, when it was
last written, whether it is to drain, the slot that wrote it. -/
structure WcLine where
  /-- Which of the 16 lines of the stream's area. -/
  index : Nat
  addr : Nat
  /-- Offsets of the bytes written into it. -/
  mask : List Nat
  yellow : Bool
  /-- When it was last written. -/
  at_ : Nat
  slot : Nat
  /-- It drains: the physical address, and when that was translated. -/
  drain : Option (Nat × Nat)
deriving DecidableEq, Repr

/-- A completion in progress (R298): the slot, its first cause, accepted bytes and the bytes its descriptor states. -/
structure Completing where
  slot : Nat
  cause : Nat
  accepted : Nat
  want : Nat
deriving DecidableEq, Repr

/-- What an ingest stream holds beside its registers (R294 to R302). -/
structure Stream where
  /-- First cause and accepted bytes of the open slot, the sum of its lengths, whether red has been reported. -/
  cause : Nat
  accepted : Nat
  want : Nat
  redSeen : Bool
  completions : List Completing
  /-- Opens that wait for the completion of their slot, in order (R295), with what their descriptor reads would return. -/
  waitOpen : List (Nat × ReadResult)
  lines : List WcLine
  tc : Nat
  tp : Nat
  fence : Nat
  /-- Bytes not yet counted in `ING_YELLOW` and `ING_RED`. -/
  yellowBytes : Nat
  redBytes : Nat
deriving DecidableEq, Repr

/-- A stream that has never been enabled. -/
def Stream.reset : Stream :=
  { cause := 0, accepted := 0, want := 0, redSeen := false, completions := [], waitOpen := [], lines := [], tc := 0, tp := 0,
    fence := 0, yellowBytes := 0, redBytes := 0 }

/-- A DMA descriptor (R305). -/
structure DmaDesc where
  op : Nat
  event : Bool
  last : Bool
  fenceWr : Bool
  ingDone : Bool
  lines : Nat
  src : Nat
  dst : Nat
  length : Nat
  srcPitch : Nat
  dstPitch : Nat
  next : Nat
  fenceAddr : Nat
  fenceValue : Nat
  /-- The work runs in descending order (R307). -/
  down : Bool
deriving DecidableEq, Repr

/-- A beat in a channel's staging buffer or on its way: its position in the work, its destination and length, the 64-byte word of
the buffer that holds it; once it is issued, its physical address, its bytes and when it was translated. -/
structure Beat where
  pos : Nat
  dst : Nat
  len : Nat
  word : Nat
  phys : Nat
  bytes : List Byte
  at_ : Nat
deriving DecidableEq, Repr

/-- A source read of a channel in flight: its position in the work, where its beat goes, its address, length, the word of the
staging buffer kept for it, place and time of translation, when it times out if it is a host read. -/
structure DmaRead where
  pos : Nat
  dst : Nat
  addr : Nat
  len : Nat
  word : Nat
  src : StoreDest
  at_ : Nat
  deadline : Nat
deriving DecidableEq, Repr

/-- A part of a line in a writeback buffer (R251, R304): plane, line of the plane, offset in it, and its bytes' first place in the
buffer and number. -/
structure WbPiece where
  plane : Nat
  line : Nat
  off : Nat
  start : Nat
  len : Nat
deriving DecidableEq, Repr

/-- What a DMA channel holds beside its registers (R304 to R313). -/
structure Chan where
  desc : Option DmaDesc
  /-- The descriptor read in flight. -/
  descRead : Option Flight
  /-- Bytes of the work; asked for; issued as writes. -/
  total : Nat
  fetched : Nat
  issued : Nat
  reads : List DmaRead
  staged : List Beat
  acks : List Beat
  /-- A read error that waits for the staged beats before it (R309): code, address. -/
  readErr : Option (Nat × Nat)
  /-- A `STOP` waits for the burst in hand. -/
  stopping : Bool
  /-- Writeback: the head and frame in hand; what waits in the writeback buffer; its next free byte; the frame was abandoned and its
  descriptor is to be passed over (R312). -/
  wbHead : Option (Nat × Nat)
  wbQueue : List WbPiece
  wbNext : Nat
  skip : Bool
deriving DecidableEq, Repr

/-- A channel with nothing in hand. -/
def Chan.reset : Chan :=
  { desc := none, descRead := none, total := 0, fetched := 0, issued := 0, reads := [], staged := [], acks := [],
    readErr := none, stopping := false, wbHead := none, wbQueue := [], wbNext := 0, skip := false }

/-- What the journal engine holds beside its registers (R282 to R292). -/
structure Journal where
  /-- The opening checkpoint is signed; records that wait for it, without their `CHAIN` (R285, R287). -/
  opened : Bool
  unchained : List (List Byte)
  /-- Chained records of the epoch; hash of the last (of the opening checkpoint before the first); hash of the previous
  checkpoint; chained records since the last periodic checkpoint. -/
  seq : Nat
  lastHash : List Byte
  prevCp : List Byte
  sincePeriodic : Nat
  /-- Frames not recorded in the epoch; those since the last gap record with the times of the first and last (R289). -/
  dropped : Nat
  gap : Nat
  gapFirst : Nat
  gapLast : Nat
  /-- Kinds of the checkpoints due; the 160 bytes of the one being signed (R287). -/
  due : List Nat
  signing : Option (List Byte)
  /-- Entries in `PL30`, oldest first; a bus error on the ring holds them (R289). -/
  buffer : List (List Byte)
  halted : Bool
  /-- `PWR_WARN_N` is asserted; the seal: 0 none, 1 being signed, 2 being programmed, 3 made; its bytes (R290). -/
  warned : Bool
  sealing : Nat
  sealBytes : List Byte
  /-- Frames that opened before this time are not recorded (R292). -/
  resumeAt : Nat
deriving DecidableEq, Repr

/-- A journal that has never been enabled. -/
def Journal.reset : Journal :=
  { opened := false, unchained := [], seq := 0, lastHash := [], prevCp := [], sincePeriodic := 0, dropped := 0, gap := 0,
    gapFirst := 0, gapLast := 0, due := [], signing := none, buffer := [], halted := false, warned := false, sealing := 0,
    sealBytes := [], resumeAt := 0 }

/-- A Blink test in progress (R126 to R129). -/
structure BlinkRun where
  /-- The plate, or 32 or 33 for a spare site under test. -/
  plate : Nat
  alg : Nat
  preserve : Bool
  repair : Bool
  stripe : Nat
  last : Nat
  /-- 0 copy-in (of a preserving test), 1 march, 2 copy-back, 3 a fault that waits for substitution (R133); a throttle
  holds the next stripe (R357). -/
  phase : Nat
  paused : Bool
  /-- How the test ends after the stripe in hand: 0 runs on, 1 `STOP`, 2 abandoned. -/
  ending : Nat
  /-- Faults without repair so far. -/
  unrepaired : Bool
deriving DecidableEq, Repr

/-- A selective IDE stream (R328): its state, 0 not keyed, 1 Secure, 2 Insecure, the functions bound to it by RID
association, and the host address ranges (base, length) bound to it by address association. -/
structure IdeStream where
  state : Nat
  first : Nat
  last : Nat
  ranges : List (Nat × Nat)
deriving DecidableEq, Repr

/-- What the thermal unit holds beside its registers (R355 to R360). -/
structure Thermal where
  /-- The throttle of 95 °C holds; since when the junction has stayed below 92 °C, at 105 °C or more, below 100 °C. -/
  hot : Bool
  cool92 : Option Nat
  hot105 : Option Nat
  cool100 : Option Nat
  /-- When the throttle of a deasserted `IMON_ALERT_N` ends. -/
  imonEnd : Nat
  /-- Shed steps and swaps (pipe, after a failure) that wait for an exit to PS0 (R351). -/
  shedWait : Nat
  swapWait : List (Nat × Bool)
  /-- A drive whose substitution by `CD8` waits for an exit to PS0 (R389). -/
  driveWait : Option Nat
  /-- Equivalent seconds times 2³², seconds counted, and `THM_LIFE` as board flash holds it (R360). -/
  life : Nat
  seconds : Nat
  saved : Nat
deriving DecidableEq, Repr

/-- A thermal unit with nothing in hand. -/
def Thermal.reset : Thermal :=
  { hot := false, cool92 := none, hot105 := none, cool100 := none, imonEnd := 0, shedWait := 0, swapWait := [], driveWait := none, life := 0,
    seconds := 0, saved := 0 }

/-- The pins `AVS_VID` (R410): the code that they drive, when it moved last, whether fuse load has ended. -/
structure Avs where
  vid : Nat
  at_ : Nat
  loaded : Bool
deriving DecidableEq, Repr

/-- What POST has done to the plates (R130, R375): its march has left those other than `PL30`, and `PL30`, zero since they last lost
their contents; the repairs that the fuses state, in the kinds of the flash log. -/
structure Marched where
  others : Bool
  pl30 : Bool
  fused : List (Nat × Nat)
deriving DecidableEq, Repr

/-- Why a step stops with a fault. No meaning of this model faults: "No behaviour of the device is left undefined. Every
error has a named response" (spec/00, Wording). -/
inductive Fault
deriving DecidableEq, Repr

/-- Why a step is refused. -/
inductive Refusal
  /-- Raised by an arm of `exec` whose command has no meaning yet; safe: the model stops and claims nothing. -/
  | notModelled (mnemonic : String)
deriving DecidableEq, Repr

/-- A host access to GDDR6 that waits while the memory controllers are without power, and what must stay behind it (R40, R298, R351). -/
inductive HeldHost
  | write (fn addr : Nat) (bytes : List Byte)
  | read (fn addr len : Nat) (fresh : Bool)
  | openSlot (stream slot : Nat) (r : ReadResult)
  | done (stream : Nat)
deriving DecidableEq, Repr

/-- The machine. Registers are kept under their BAR0 offsets (log entry 4). -/
structure State where
  /-- The Sidereal master, ns (R14). -/
  sid : DWord
  /-- The model's own counter, to which the free values of `Config` are applied; no register of the spec. -/
  fresh : Nat
  /-- Registers that differ from their reset value, by BAR0 offset. -/
  regs : List (Nat × Word)
  /-- Shadow and active copies that differ from their reset value, by BAR0 offset of the word (R27). -/
  shadow : List (Nat × Word)
  active : List (Nat × Word)
  /-- GDDR6 bytes by physical address (R93, R99). -/
  mem : List Host.Cell
  /-- Counts full POSTs: what unwritten GDDR6 and plates hold is a free value of this epoch (R372). -/
  epoch : Nat
  /-- Physical addresses of poisoned 64-byte words (R101). -/
  poison : List Nat
  /-- Correctable errors per frame (R102). -/
  frameErrors : List (Nat × Nat)
  /-- Pages waiting to be retired, oldest first (R102). -/
  retireQueue : List Nat
  /-- The retirement in progress (R103). -/
  retiring : Option Retirement
  /-- Frames retired (R103). -/
  retired : List Nat
  /-- What has entered the PCIe transmit queue, newest last. -/
  hostTx : List Outbound
  /-- Occurrences on their way to island 2, oldest first (R334). -/
  occs : List Occ
  /-- TIME of the oldest undelivered occurrence of each pending source (R335). -/
  pendTime : List (Nat × Nat)
  /-- When a held source began to be held (R345). -/
  heldSince : List (Nat × Nat)
  /-- Record rings that owe a `LOST` mark: functions 0 to 31, Station cores 32 and 33 (R336). -/
  ringLost : List Nat
  /-- Records in the Station cores' rings, with the core (R336). -/
  stationRecords : List (Nat × List Byte)
  /-- Handler levels entered by each Station core, innermost first: priorities (R339). -/
  stationLevels : List (Nat × List Nat)
  /-- When each Station core last entered a handler (R339). -/
  stationEntry : List (Nat × Nat)
  /-- End of each host vector's moderation interval (R342). -/
  modEnd : List (Nat × Nat)
  /-- Occurrences latched by the Finder (R347). -/
  finder : List Occ
  /-- `WAKE_N` is asserted (R347). -/
  wakeN : Bool
  /-- Sequencers that differ from reset: 0 to 31 `CP`n, 32 to 159 `FSQ`n (R54). -/
  seqs : List (Nat × Seq)
  /-- The sequencer with which the round robin of R28 goes on. -/
  shadowTurn : Nat
  /-- Shadow writes over BAR0 in bench mode that are not yet accepted (R28, R50). -/
  benchQ : List ShadowWrite
  /-- Configuration spaces that differ from reset, by function. -/
  fns : List (Nat × PciFn)
  /-- Rasters of the heads (R230). -/
  heads : List (Nat × HeadRun)
  /-- Commits and checks whose result is not yet delivered, in issue order (R83, R212); the next identifier. -/
  commits : List Commit
  nextCommit : Nat
  /-- Admitted commits not yet in effect everywhere (R225 to R228). -/
  admitted : List Admitted
  /-- What Ephemeris holds for each group's active state (R223). -/
  activePlans : List (Nat × GroupPlan)
  /-- Level of the class GC token bucket, bytes (R217). -/
  gcTokens : Nat
  /-- When each Plate Map entry was last written (R96). -/
  pmapStamp : List (Nat × Nat)
  /-- Until when a controller serves class M only: refresh or retraining (R145). -/
  mcBusy : List (Nat × Nat)
  /-- Clock Drives that differ from reset (R255). -/
  drives : List (Nat × Drive)
  /-- Slots that have been opened, by stream × 256 + slot (R294). -/
  slots : List (Nat × Slot)
  /-- Roles of pipes that differ from those at reset: 0 active, 1 spare, 2 failed (R362, R364). -/
  pipeRoles : List (Nat × Nat)
  /-- Islands that keep an old state after a lost decision (R227). -/
  splits : List Split
  /-- Apertures by layer slot × 64 + pipe. -/
  apertures : List (Nat × Aperture)
  /-- Groups whose active state was admitted through bench mode (R284). -/
  benchGroups : List Nat
  /-- The drive that a substitution by `CD8` is moving (R271). -/
  spareFor : Option Nat
  /-- One-shot alarms that have fired (R276). -/
  alarmsSpent : List Nat
  /-- What board flash records, newest last: kind and value. 1 row repair, 2 site substitution, 3 lane substitution, 4 Clock
  Drive substitution, 5 pipe substitution, 6 retirement, 7 column fault, 8 column repair, 9 pipe, 10 drive, 11 lane
  failed without a spare (R103, R131, R133, R253, R271, R361, R363, R372). -/
  flashLog : List (Nat × Nat)
  /-- Host minus Sidereal of the last PTM dialogue (R275). -/
  ptmOffset : DWord
  /-- Tags that are not `FREE`, by number; the landings' words; host reads of the fetch engine in flight. -/
  tags : List (Nat × Tag)
  landed : List Landed
  hostReads : List HostRead
  nextRead : Nat
  /-- Requests that a controller has served since its last one of class BE (R357). -/
  beGap : List (Nat × Nat)
  /-- What layers show, by layer slot × 4 + frame parity × 2, plus 1 for the selection of a state not yet in effect. -/
  shown : List (Nat × Shown)
  /-- When a head last selected (R164). -/
  selectedAt : List (Nat × Nat)
  /-- Slots held (R299): stream × 256 + slot, head, frame. -/
  holds : List (Nat × Nat × Nat)
  /-- What each head gathers over its frame in progress. -/
  frames : List (Nat × FrameRun)
  /-- Consecutive frames of a head that meet R352. -/
  staticRun : List (Nat × Nat)
  /-- Retained frames, by head (R352). -/
  retained : List (Nat × Retained)
  /-- Pipes that a spare serves: pipe, spare (R363, R364). -/
  pipeSubst : List (Nat × Nat)
  /-- The device is leaving a power state (R348, R351). -/
  waking : Bool
  /-- Held sources whose hold time ran out while both targets slept (R345). -/
  timedOut : List Nat
  /-- Pending sources that go to the fallback target (R345). -/
  redirected : List Nat
  /-- Functions that owe a PME message once the link is up (R347). -/
  pmeWait : List Nat
  /-- Ports. -/
  ports : List (Nat × Port)
  /-- Spare lanes being steered, by lane group (R252). -/
  steering : List (Nat × Steer)
  /-- Islands that have the decision and have not reached their switch points (R20). -/
  switches : List SwitchTodo
  /-- Shed steps in force, newest first, with their heads (R358, R359). -/
  shedSteps : List (List Nat)
  /-- Heads whose host-window layers are removed (R23); when the link last came up. -/
  hostGone : List Nat
  /-- When the link last came up. -/
  linkBackAt : Nat
  /-- The frame of a head at which a commit last took effect. -/
  committedAt : List (Nat × Nat)
  /-- The frame for which a head has selected last (R164). -/
  selectedFor : List (Nat × Nat)
  /-- Mismatched regions of the last frame of a head (R280, R281). -/
  mismatch : List (Nat × Nat)
  /-- Heads whose last chosen frame is still being written back (R251). -/
  wbBusy : List Nat
  /-- Pipe swaps that run (R362 to R364). -/
  swaps : List Swap
  /-- Ingest streams. -/
  streams : List (Nat × Stream)
  /-- Ranges of slots as their descriptors named them when they were last opened, by stream × 256 + slot (R299). -/
  slotRanges : List (Nat × List (Nat × Nat))
  /-- DMA channels. -/
  chans : List (Nat × Chan)
  /-- The channel that the mover served last in each level (R308). -/
  moverTurn : List (Nat × Nat)
  /-- When the mover may write its next beat (R304, R357). -/
  moverAt : Nat
  /-- The burst in hand of the mover: channel and beats written (R308). -/
  moverBurst : Option (Nat × Nat)
  /-- The journal engine. -/
  jrn : Journal
  /-- The epoch number that board flash holds (R287). -/
  epochNo : Nat
  /-- Board flash (R369): bytes that differ from the erased value 0xFF. -/
  flash : List Host.Cell
  /-- Plate Store bytes by plate × 8 MiB + address (R113), 32 and 33 being the spare sites. -/
  plateMem : List Host.Cell
  /-- Poisoned words of the Plate Store (R114). -/
  platePoison : List Nat
  /-- What the reads of the last plate access returned: owner, lane, and the word unless it is poisoned (R117, R118). -/
  plateAnswers : List (Nat × Nat × Option (List Byte))
  /-- Handovers in transit: plate, new owner, new function, scrub (R122). -/
  handovers : List (Nat × Nat × Nat × Bool)
  /-- Blink tests by quadrant. -/
  blinks : List (Nat × BlinkRun)
  /-- Substitution in progress: plate and spare site; plates that wait for one (R133, R134). -/
  subst : Option (Nat × Nat)
  /-- Plates that wait for a substitution to end (R133). -/
  substWait : List Nat
  /-- The power state to which the device is going while `waking` holds (R349). -/
  exitTo : Nat
  /-- A deeper target and since when it stands (R349). -/
  pwrTarget : Option (Nat × Nat)
  /-- Events that became due in an island without power (R15); returning islands whose replica is reloaded. -/
  heldOccs : List Occ
  /-- Returning islands whose replica has been reloaded. -/
  reloaded : List Nat
  /-- `PERST_N` is asserted; a rail is out of range; `THERMTRIP_N` is asserted; POST runs, since when (R356, R365, R373). -/
  perst : Bool
  /-- A rail is out of range. -/
  railBad : Bool
  /-- `THERMTRIP_N` is asserted. -/
  tripped : Bool
  /-- POST runs, since when. -/
  posting : Option Nat
  /-- Counts losses of the plates other than `PL30`: what they hold unwritten is a free value of it (R348, R372). -/
  plateEpoch : Nat
  /-- Transfers that have not arrived whole, in the order in which they were sent (R12, R13). -/
  crossings : List Crossing
  /-- The 4 selective IDE streams (R328). -/
  ide : List IdeStream
  /-- The LTR value sent last, ns; 0 with the requirement bits clear (R324). -/
  ltrSent : Nat
  /-- The thermal unit. -/
  thermal : Thermal
  /-- Corrected failures by pipe (R362). -/
  pipeCe : List (Nat × Nat)
  /-- The pipe under self-test (R382). -/
  testing : Option Nat
  /-- The Safe Station command that waits: opcode, tag, length (R378). -/
  ssCmd : Option (Nat × Nat × Nat)
  /-- A Station core restarts (R381). -/
  stationDown : Bool
  /-- Rollback index burnt in service, at least which `SYS_FW_VER.ROLLBACK` reads (R371). -/
  rollback : Nat
  /-- An assertion of `PERST_N` holds the core and function domains in reset (R24). -/
  resetHeld : Bool
  /-- DOE requests that wait for a restart of the Station cores (R381). -/
  doeWait : List DoeReq
  /-- Requests of classes GC and BE that wait at the memory controllers, in arrival order (R145). -/
  mcQueue : List McReq
  /-- The source that a controller served last in class GC or BE, by controller × 2 + 1 for BE (R145). -/
  mcTurn : List (Nat × Nat)
  /-- What ECC found in a 64-byte word whose request was served and whose data its accessor has not taken (R100, R101). -/
  found : List (Nat × Ecc)
  /-- What the master has gained by its corrected rate beyond whole ns, 10⁻¹⁵ ns (R274). -/
  sidFrac : Int
  /-- The correction of the rate in force, 10⁻¹⁵ (R274). -/
  sidRate : Int
  /-- When the PTM requester last asked (R275). -/
  ptmAt : Nat
  /-- When the frame pulse of a clock output last rose at the ball (R273). -/
  outRise : List (Nat × Nat)
  /-- The row last opened in each bank of GDDR6, by channel × 16 + bank group × 4 + bank (R99, R146). -/
  rowOpen : List (Nat × Nat)
  /-- The multiple of 1,000 ns that a unit acted on last, in µs: 0 meters, 1 the class GC bucket, 2 + p the Apertures of pipe p (R157, R217, R301). -/
  ticked : List (Nat × Nat)
  /-- Host accesses that wait while the memory controllers are without power, in arrival order (R40, R351). -/
  held : List HeldHost
  /-- The page after the newest seal in board flash (R291). -/
  sealAt : Nat
  /-- What POST has done to the plates (R130). -/
  march : Marched
  /-- The pins AVS_VID (R410). -/
  avs : Avs
  /-- The commands waiting, first in first out. -/
  pending : List Instr
deriving DecidableEq, Repr

/-- The machine right after reset: every register at the value of its table, memory with nothing listed, every engine
idle, no command waiting. The Sidereal master starts at 0 (log entry 8). -/
def State.reset : State :=
  { sid := 0, fresh := 0, regs := [], shadow := [], active := [], mem := [], epoch := 0, poison := [],
    frameErrors := [], retireQueue := [], retiring := none, retired := [], hostTx := [], occs := [], pendTime := [],
    heldSince := [], ringLost := [], stationRecords := [], stationLevels := [], stationEntry := [], modEnd := [],
    finder := [], wakeN := false, seqs := [], shadowTurn := 0, benchQ := [], fns := [],
    heads := [], commits := [], nextCommit := 0, admitted := [], activePlans := [],
    gcTokens := 65536,
    pmapStamp := [], mcBusy := [],
    drives := [],
    slots := [], pipeRoles := [],
    splits := [], apertures := [], benchGroups := [],
    spareFor := none, alarmsSpent := [], flashLog := [],
    ptmOffset := 0,
    tags := [], landed := [], hostReads := [], nextRead := 0, beGap := [], shown := [], selectedAt := [], holds := [],
    frames := [], staticRun := [], retained := [], pipeSubst := [],
    waking := false,
    timedOut := [],
    redirected := [],
    pmeWait := [],
    ports := [],
    steering := [],
    switches := [],
    shedSteps := [],
    hostGone := [],
    linkBackAt := 0,
    committedAt := [],
    selectedFor := [],
    mismatch := [],
    wbBusy := [],
    swaps := [],
    streams := [],
    slotRanges := [],
    chans := [],
    moverTurn := [],
    moverAt := 0,
    moverBurst := none,
    jrn := Journal.reset,
    epochNo := 0,
    flash := [],
    plateMem := [],
    platePoison := [],
    plateAnswers := [],
    handovers := [],
    blinks := [],
    subst := none,
    substWait := [],
    exitTo := 0,
    pwrTarget := none,
    heldOccs := [],
    reloaded := [],
    perst := false,
    railBad := false,
    tripped := false,
    posting := (some 0),
    plateEpoch := 0,
    crossings := [],
    ide := [],
    ltrSent := 0,
    thermal := Thermal.reset,
    pipeCe := [],
    testing := none,
    ssCmd := none,
    stationDown := false,
    rollback := 0,
    resetHeld := false,
    doeWait := [],
    mcQueue := [],
    mcTurn := [],
    found := [],
    sidFrac := 0,
    sidRate := 0,
    ptmAt := 0,
    outRise := [],
    rowOpen := [],
    ticked := [],
    held := [],
    sealAt := 0,
    march := ⟨false, false, []⟩,
    avs := ⟨20, 0, false⟩,
    pending := [] }

end Sys2Proof.Machine
end

