-- ==== Sys2Proof/Machine/Ops.lean ====
section
/-! DEFINITION. The named operations over the state: sparse tables, register words and fields (R6, R8), time and events
(R14, R334), ownership (R319, R333), the Plate Map (R93 to R95) and memory (R99 to R101). -/

namespace Sys2Proof.Machine

/-! Sparse tables, sorted by key. -/

/-- The entry of a table at a key. -/
def tabGet {α : Type} : List (Nat × α) → Nat → Option α
  | [], _ => none
  | (k, v) :: rest, key => if k = key then some v else tabGet rest key

/-- The table with the entry at a key set; keys that rise go on rising. -/
def tabPut {α : Type} (key : Nat) (val : α) : List (Nat × α) → List (Nat × α)
  | [] => [(key, val)]
  | (k, v) :: rest =>
    if key < k then (key, val) :: (k, v) :: rest
    else if k = key then (key, val) :: rest
    else (k, v) :: tabPut key val rest

/-- The table without an entry at a key. -/
def tabDel {α : Type} (key : Nat) (l : List (Nat × α)) : List (Nat × α) := l.filter fun e => e.1 ≠ key

/-- Keys strictly rising. -/
def tabSorted {α : Type} : List (Nat × α) → Bool
  | [] => true
  | (k, _) :: rest => (match rest with | [] => true | (k', _) :: _ => k < k') && tabSorted rest

/-- A number inserted into a list of numbers without repeats. -/
def setAdd (n : Nat) (l : List Nat) : List Nat := if n ∈ l then l else n :: l

/-! Bit fields of words. -/

/-- Field of width `w` at bit `lo` of a number. -/
def getBits (n lo w : Nat) : Nat := n / 2 ^ lo % 2 ^ w

/-- The number with the field of width `w` at bit `lo` set to the low bits of `v`. -/
def setBits (n lo w v : Nat) : Nat := n % 2 ^ lo + 2 ^ lo * (v % 2 ^ w) + 2 ^ (lo + w) * (n / 2 ^ (lo + w))

/-- Sign extension of a `w`-bit number to an integer. -/
def signed (w n : Nat) : Int := if n % 2 ^ w < 2 ^ (w - 1) then (n % 2 ^ w : Nat) else (n % 2 ^ w : Nat) - (2 ^ w : Nat)

/-- Bit `i` of a number. -/
def bitOf (n i : Nat) : Bool := n / 2 ^ i % 2 = 1

/-- One or zero. -/
def b2n (b : Bool) : Nat := if b then 1 else 0

/-- `n` little-endian bytes of a number (R3). -/
def toBytes : Nat → Nat → List Byte
  | 0, _ => []
  | n + 1, v => BitVec.ofNat 8 (v % 256) :: toBytes n (v / 256)

/-- The number of little-endian bytes (R3). -/
def ofBytes : List Byte → Nat
  | [] => 0
  | b :: rest => b.toNat + 256 * ofBytes rest

/-- ⌈a ÷ b⌉. -/
def ceilDiv (a b : Nat) : Nat := (a + b - 1) / b

/-! Registers. -/

/-- The word of a register (R391). -/
def State.rd (s : State) (off : Nat) : Nat :=
  match tabGet s.regs off with
  | some w => w.toNat
  | none => resetWord off

/-- The state with the word of a register set; a word at its reset value is not listed. -/
def State.wr (s : State) (off v : Nat) : State :=
  { s with regs := if v % 2 ^ 32 = resetWord off then tabDel off s.regs
                   else tabPut off (BitVec.ofNat 32 v) s.regs }

/-- A field of a register. -/
def State.fget (s : State) (off : Nat) (f : Fld) : Nat := getBits (s.rd off) f.lo f.width

/-- A one-bit field of a register. -/
def State.fbit (s : State) (off : Nat) (f : Fld) : Bool := s.fget off f = 1

/-- The state with a field of a register set. -/
def State.fset (s : State) (off : Nat) (f : Fld) (v : Nat) : State := s.wr off (setBits (s.rd off) f.lo f.width v)

/-- A saturating count in a field goes up by one. -/
def State.fsat (s : State) (off : Nat) (f : Fld) : State :=
  s.fset off f (min (s.fget off f + 1) (2 ^ f.width - 1))

/-- A wrapping count in a field goes up by one. -/
def State.finc (s : State) (off : Nat) (f : Fld) : State := s.fset off f (s.fget off f + 1)

/-- The word of a shadow or active copy (R27). -/
def viewWord (m : List (Nat × Word)) (off : Nat) : Nat :=
  match tabGet m off with
  | some w => w.toNat
  | none => shadowReset off

/-- The copy with one word set; a word at its reset value is not listed. -/
def viewPut (m : List (Nat × Word)) (off v : Nat) : List (Nat × Word) :=
  if v % 2 ^ 32 = shadowReset off then tabDel off m else tabPut off (BitVec.ofNat 32 v) m

/-- Field i of layer slot `sl` in a copy. -/
def lyr (m : List (Nat × Word)) (sl i : Nat) : Nat := viewWord m (lyrOff sl i)
/-- Field i of head h in a copy. -/
def hdf (m : List (Nat × Word)) (h i : Nat) : Nat := viewWord m (hdOff h i)
/-- Field i of region r of head h in a copy. -/
def sgf (m : List (Nat × Word)) (h r i : Nat) : Nat := viewWord m (sgOff h r i)

/-- Head h is a member of group g in a copy (R211). -/
def inGroup (m : List (Nat × Word)) (g h : Nat) : Bool := bitOf (viewWord m (0x3B9800 + 16 * g + 4 * (h / 32))) (h % 32)
/-- The member heads of a group in a copy, ascending (R211). -/
def membersOf (m : List (Nat × Word)) (g : Nat) : List Nat := (List.range 128).filter (inGroup m g)

/-! Time and events. -/

/-- Master time in ns. -/
def State.now (s : State) : Nat := s.sid.toNat

/-- The replica of an island reads within 4 ns of the master (R14); island 0 holds the master. -/
def State.replica (s : State) (island : Nat) : Nat :=
  if island = 0 then s.now else s.now + Config.replicaSkew island s.fresh % 9 - 4

/-- Multiples of 1,000 ns that an island's replica has reached since a unit of `ticked` last acted on one. -/
def State.ticksDue (s : State) (unit island : Nat) : Nat := s.replica island / 1000 - (tabGet s.ticked unit).getD 0
/-- The unit has acted on them. -/
def State.markTick (s : State) (unit island : Nat) : State :=
  { s with ticked := tabPut unit (s.replica island / 1000) s.ticked }

/-- The next free value. -/
def State.draw (s : State) : State := { s with fresh := s.fresh + 1 }

/-- An island is powered (R13): its bit of `SYS_ISLAND_ON`n. -/
def State.islandOn (s : State) (i : Nat) : Bool := bitOf (s.rd (0x200 + 4 * (i / 32))) (i % 32)

/-- An event source raises (R332, R334): the occurrence is stamped with the replica of the raising island. In an island
without power it is held until the replica of that island is reloaded (R15). -/
def State.raiseAt (s : State) (source cause detail island time : Nat) : State :=
  if s.islandOn island || decide (island ∈ s.reloaded) then
    { s with occs := s.occs ++ [⟨source, cause, detail, time, island⟩], fresh := s.fresh + 1 }
  else { s with heldOccs := s.heldOccs ++ [⟨source, cause, detail, time, island⟩] }

/-- As `raiseAt`, stamped now. -/
def State.raise (s : State) (source cause detail island : Nat) : State :=
  s.raiseAt source cause detail island (s.replica island)

/-- Event sources of R332. -/
def srcBoundary (h : Nat) : Nat := 4096 + h
def srcHead (h : Nat) : Nat := 4224 + h
def srcPort (n : Nat) : Nat := 4352 + n
def srcSeqFault (q : Nat) : Nat := 4480 + q
def srcCommitResult (q : Nat) : Nat := 4640 + q
def srcCommitMoved (q : Nat) : Nat := 4800 + q
def srcRing (n : Nat) : Nat := 4960 + n
def srcDmaDone (c : Nat) : Nat := 4992 + c
def srcDmaError (c : Nat) : Nat := 5056 + c
def srcIncomplete (f : Nat) : Nat := 5120 + f
def srcRed (f : Nat) : Nat := 5152 + f
def srcPlate (p : Nat) : Nat := 5440 + p
def srcMc (n : Nat) : Nat := 5472 + n
def srcDrive (n : Nat) : Nat := 5488 + n
def srcRef (r : Nat) : Nat := 5497 + r
def srcAlarm (k : Nat) : Nat := 5499 + k
def srcGpio (k : Nat) : Nat := 5507 + k

/-- Islands of R10. -/
def islandQuadrant (p : Nat) : Nat := 6 + (if p = 32 then 0 else if p = 33 then 2 else p / 8)
def islandMc (n : Nat) : Nat := 10 + n
def islandPipe (p : Nat) : Nat := 26 + p
def islandHead (h : Nat) : Nat := 62 + h / 16

/-- The core and function domains are held in reset (R24, R356, R365): `THERMTRIP_N` is asserted, a rail is out of range, or
`PERST_N` is asserted and resets the whole device. -/
def State.inReset (s : State) : Bool := s.tripped || s.railBad || s.resetHeld

/-- The device is in Safe Station (R376, R377). -/
def State.safe (s : State) : Bool := s.fbit Reg.SYS_FAIL_REC0 Bit.SYS_FAIL_REC0_SAFE

/-- Offsets that Safe Station implements (R377). -/
def safeOffset (off : Nat) : Bool :=
  decide (off < 0x14) || decide (off = 0x250) || decide (off = 0x254) || (decide (0x100 ≤ off) && decide (off < 0x110)) ||
    (decide (0x300 ≤ off) && decide (off < 0x310)) || (decide (0x400 ≤ off) && decide (off < 0x800)) ||
    decide (off = Reg.THM_STATUS) || (decide (Reg.THM_SENSOR 0 ≤ off) && decide (off < Reg.THM_SENSOR 16))

/-- A BAR0 access reaches a powered-down island (R13). -/
def State.sleepAccess (s : State) (island : Nat) : State :=
  (s.fset Reg.SYS_CROSS_STATUS Bit.SYS_CROSS_STATUS_SLEEP_ACCESS 1).fset Reg.SYS_CROSS_STATUS
    Bit.SYS_CROSS_STATUS_LAST_ISLAND island

/-- A write to the register at `off`: its effect while its island has power, otherwise the powered-down response (R13). A
write during a reset is discarded (R396), as is one in Safe Station to an offset that does not exist there (R377). -/
def State.access (s : State) (off : Nat) (effect : State → State) : State :=
  if s.inReset || (s.safe && !safeOffset off) then s
  else if s.islandOn (islandOf off) then effect s else s.sleepAccess (islandOf off)

/-- A dropped write is recorded (R12, R392): `LOST` or `PARTIAL`, the word offset in the writer's view, the function. -/
def State.regStatus (s : State) (flag : Fld) (f off : Nat) : State :=
  let r := Reg.SYS_REG_STATUS
  ((s.fset r flag 1).fset r Bit.SYS_REG_STATUS_OFFSET (off / 4)).fset r Bit.SYS_REG_STATUS_FN f

/-- A transfer to an island is lost in a crossing (R12): recorded, with the function and offset of a register access, and the
crossing-loss event. -/
def State.crossingLoss (s : State) (island : Nat) (access : Option (Nat × Nat)) : State :=
  let off := Reg.SYS_CROSS_STATUS
  let s := s.fset off Bit.SYS_CROSS_STATUS_CROSS_LOSS 1
  let s := s.fsat off Bit.SYS_CROSS_STATUS_LOSS_COUNT
  let s := s.fset off Bit.SYS_CROSS_STATUS_LAST_ISLAND island
  match access with
  | some (f, o) => (s.regStatus Bit.SYS_REG_STATUS_LOST f o).raise 5529 0 (island + 2 ^ 7 + 2 ^ 8 * f) island
  | none => s.raise 5529 0 island island

/-- The transfer waits between its sender and its island (R12, R13). -/
def State.inTransit (s : State) (x : Transfer) : Bool := s.crossings.any fun e => decide (e.transfer = x)

/-! Functions and what they own. -/

/-- The configuration space of a function. -/
def State.fn (s : State) (f : Nat) : PciFn := (tabGet s.fns f).getD (PciFn.reset f)
/-- The state with a function's configuration space set. -/
def State.setFn (s : State) (f : Nat) (c : PciFn) : State := { s with fns := tabPut f c s.fns }

/-- The function holding index `i` of a contiguous-range partition register; the PF when no VF holds it (R319). -/
def rangeFn (s : State) (reg : Nat → Nat) (i : Nat) : Nat :=
  (((List.range 31).map (· + 1)).find? fun f =>
    let base := getBits (s.rd (reg f)) 0 12
    let count := getBits (s.rd (reg f)) 16 13
    base ≤ i && i < base + count).getD 0

/-- The function owning a head (R319). -/
def State.headFn (s : State) (h : Nat) : Nat := s.fget (Reg.PCI_HEAD_FN h) Bit.PCI_HEAD_FN_FN
/-- The function owning a layer slot. -/
def State.slotFn (s : State) (sl : Nat) : Nat := rangeFn s Reg.PCI_FN_LAYER sl
/-- The function owning an ingest stream. -/
def State.streamFn (s : State) (st : Nat) : Nat := rangeFn s Reg.PCI_FN_STREAM st
/-- The function owning a DMA channel. -/
def State.chanFn (s : State) (c : Nat) : Nat :=
  (((List.range 31).map (· + 1)).find? fun f =>
    if c < 32 then bitOf (s.rd (Reg.PCI_FN_DMA_LO f)) c else bitOf (s.rd (Reg.PCI_FN_DMA_HI f)) (c - 32)).getD 0
/-- The function owning a sync group (R319). -/
def State.groupFn (s : State) (g : Nat) : Nat := s.fget (Reg.EPH_GRP_FN g) Bit.EPH_GRP_FN_FN
/-- The function of a sequencer (R25). -/
def State.seqFn (s : State) (q : Nat) : Nat := if q < 32 then q else s.headFn (q - 32)

/-- The function of an event source (R333). -/
def State.sourceFn (s : State) (src : Nat) : Nat :=
  if src < 4096 then s.streamFn src
  else if src < 4224 then s.headFn (src - 4096)
  else if src < 4352 then s.headFn (src - 4224)
  else if src < 4480 then s.headFn (src - 4352)
  else if src < 4640 then s.seqFn (src - 4480)
  else if src < 4800 then s.seqFn (src - 4640)
  else if src < 4960 then s.seqFn (src - 4800)
  else if src < 4992 then src - 4960
  else if src < 5056 then s.chanFn (src - 4992)
  else if src < 5120 then s.chanFn (src - 5056)
  else if src < 5152 then src - 5120
  else if src < 5184 then src - 5152
  else if src < 5440 then s.fget (Reg.EVC_SRC_CFG src) Bit.EVC_SRC_CFG_FN
  else 0

/-! The Plate Map (R93 to R96). -/

/-- The count of valid local pages, V (R98). -/
def State.validPages (s : State) : Nat := s.fget Reg.SYS_MEM_CFG Bit.SYS_MEM_CFG_VALID_PAGES

/-- Whether a local page lies in the retirement reserve (R95). -/
def State.isReserve (s : State) (p : Nat) : Bool := s.validPages - 1024 ≤ p && p < s.validPages

/-- `VALID` as the entry reads it: forced to 0 for invalid and reserve pages (R95). -/
def State.pageValid (s : State) (p : Nat) : Bool :=
  s.fbit (Reg.PMAP_ENTRY_LO p) Bit.PMAP_ENTRY_LO_VALID &&
    (decide (65536 ≤ p) || decide (p < s.validPages - 1024))

/-- `TARGET` of an entry, a byte address (R93). -/
def State.pageTarget (s : State) (p : Nat) : Nat :=
  2 ^ 20 * getBits (s.rd (Reg.PMAP_ENTRY_LO p)) 20 12 + 2 ^ 32 * s.rd (Reg.PMAP_ENTRY_HI p)

/-- What right an access needs (R94). -/
inductive Right | read | write | both
deriving DecidableEq, Repr

/-- The access check of R94: function `f`, page `p`. -/
def State.permitted (s : State) (f p : Nat) (r : Right) : Bool :=
  let e := Reg.PMAP_ENTRY_LO p
  s.pageValid p &&
  (match r with
   | .read => s.fbit e Bit.PMAP_ENTRY_LO_READ
   | .write => s.fbit e Bit.PMAP_ENTRY_LO_WRITE
   | .both => s.fbit e Bit.PMAP_ENTRY_LO_READ && s.fbit e Bit.PMAP_ENTRY_LO_WRITE) &&
  (f = 0 || f = s.fget e Bit.PMAP_ENTRY_LO_FN ||
    (r = Right.read && s.fbit e Bit.PMAP_ENTRY_LO_SHARE_READ))

/-- Where an address goes (R93, R94, R104). -/
inductive Place
  | localMem (phys : Nat)
  | hostWin (fn addr : Nat)
  | refused (page : Nat)
deriving DecidableEq, Repr

/-- The translation of a frame-store address for function `f` (R94, R104). -/
def State.translate (s : State) (f addr : Nat) (r : Right) : Place :=
  let p := addr / 2 ^ 20
  if p < 131072 && s.permitted f p r then
    if p < 65536 then .localMem (s.pageTarget p + addr % 2 ^ 20)
    else .hostWin (s.fget (Reg.PMAP_ENTRY_LO p) Bit.PMAP_ENTRY_LO_FN) (s.pageTarget p + addr % 2 ^ 20)
  else .refused p

/-- A Plate Map refusal is recorded and raises its event (R94), from the island of the accessor. -/
def State.refusal (s : State) (page f : Nat) (write : Bool) (island : Nat) : State :=
  let off := Reg.SYS_PMAP_STATUS
  let s := s.fset off Bit.SYS_PMAP_STATUS_LAST_PAGE page
  let s := s.fset off Bit.SYS_PMAP_STATUS_LAST_FN f
  let s := s.fset off Bit.SYS_PMAP_STATUS_LAST_WRITE (b2n write)
  let s := s.fset off Bit.SYS_PMAP_STATUS_REFUSED 1
  let s := s.fsat off Bit.SYS_PMAP_STATUS_REFUSE_COUNT
  s.raise 5530 0 page island

/-! GDDR6 (R99 to R101). -/

/-- The channel of a physical address (R99). -/
def channelOf (phys : Nat) : Nat := Nat.xor (getBits phys 8 5) (getBits phys 13 5)
/-- The controller of a physical address (R99). -/
def mcOf (phys : Nat) : Nat := channelOf phys / 2
/-- The address within the channel, A′ (R99): A[36:13] followed by A[7:0]. -/
def channelAddr (phys : Nat) : Nat := 256 * getBits phys 13 24 + getBits phys 0 8
/-- Where a physical address lies in its channel (R99): byte within the row, bank within the bank group, bank group, row. -/
structure DramPlace where
  byte : Nat
  bank : Nat
  bankGroup : Nat
  row : Nat
deriving DecidableEq, Repr
/-- The fields of A′ (R99). -/
def dramPlace (phys : Nat) : DramPlace :=
  let a := channelAddr phys
  ⟨getBits a 0 11, getBits a 11 2, getBits a 13 2, getBits a 15 17⟩
/-- The bank of GDDR6 of a physical address: channel × 16 + bank group × 4 + bank (R99). -/
def dramBank (phys : Nat) : Nat := 16 * channelOf phys + 4 * (dramPlace phys).bankGroup + (dramPlace phys).bank
/-- The 64-byte word of a physical address. -/
def wordOf (phys : Nat) : Nat := phys / 64 * 64

/-- Inline ECC is on (R100). -/
def State.eccOn (s : State) : Bool := s.fbit Reg.SYS_MEM_CFG Bit.SYS_MEM_CFG_ECC_EN

/-- A byte of GDDR6: what was written, or a free value (R372). -/
def State.loadByte (s : State) (phys : Nat) : Byte :=
  match tabGet s.mem phys with
  | some b => b
  | none => Config.powerOnByte s.epoch phys

/-- Successive bytes of GDDR6. -/
def State.loadBytes (s : State) : Nat → Nat → List Byte
  | _, 0 => []
  | phys, n + 1 => s.loadByte phys :: s.loadBytes (phys + 1) n

/-- Memory with successive bytes written. -/
def memWrite : List Host.Cell → Nat → List Byte → List Host.Cell
  | m, _, [] => m
  | m, a, b :: bs => memWrite (tabPut a b m) (a + 1) bs

/-- The canonical form of a byte memory: addresses strictly rise. What an unlisted byte reads as is a free value, so no listed
value is left out. -/
abbrev Memory.wf (m : List Host.Cell) : Bool := tabSorted m

/-- A 64-byte word is poisoned (R101): with ECC off no read returns poison. -/
def State.poisoned (s : State) (phys : Nat) : Bool := s.eccOn && decide (wordOf phys ∈ s.poison)

/-- A frame becomes a candidate for retirement (R102). With the queue full and the reserve used up at once, the reserve's
response is given (log entry 122). -/
def State.candidate (s : State) (page : Nat) : State :=
  if page ∈ s.retireQueue || (match s.retiring with | some r => r.page = page | none => false) then s
  else if s.fget Reg.SYS_RETIRE_STATUS Bit.SYS_RETIRE_STATUS_USED = 1024 then
    (s.fset Reg.SYS_RETIRE_STATUS Bit.SYS_RETIRE_STATUS_RETIRE_DROP 1).raise 5535 2 page 0
  else if 16 ≤ s.retireQueue.length then
    s.fset Reg.SYS_RETIRE_STATUS Bit.SYS_RETIRE_STATUS_QUEUE_FULL 1
  else
    { s with retireQueue := s.retireQueue ++ [page] }.fset Reg.SYS_RETIRE_STATUS
      Bit.SYS_RETIRE_STATUS_PENDING (s.retireQueue.length + 1)

/-- The local page whose `TARGET` names the frame of a physical address: the frame's own page, or the page that a
retirement has moved there (R103). -/
def State.pageOfFrame (s : State) (frame : Nat) : Nat :=
  match (s.regs.find? fun e => decide (0x100000 ≤ e.1) && decide (e.1 < 0x180000) && decide (e.1 % 8 = 0) &&
      bitOf e.2.toNat 9 && decide (s.pageTarget ((e.1 - 0x100000) / 8) / 2 ^ 20 = frame)) with
  | some e => (e.1 - 0x100000) / 8
  | none => frame

/-- An uncorrectable error at a physical address (R101): recorded at its controller, reported, and a cause of
retirement by choice of `UE_RETIRE` (R102). -/
def State.uncorrectable (s : State) (phys : Nat) : State :=
  let n := mcOf phys
  let page := s.pageOfFrame (phys / 2 ^ 20)
  let s := s.fset (Reg.MC_ECC_STATUS n) Bit.MC_ECC_STATUS_UE 1
  let s := s.fsat (Reg.MC_ECC_STATUS n) Bit.MC_ECC_STATUS_UE_COUNT
  let s := s.wr (Reg.MC_ECC_UE_ADDR_LO n) (wordOf phys % 2 ^ 32)
  let s := s.wr (Reg.MC_ECC_UE_ADDR_HI n) (wordOf phys / 2 ^ 32)
  let s := s.raise (srcMc n) 0 page (islandMc n)
  if s.fbit Reg.SYS_RETIRE_CTL Bit.SYS_RETIRE_CTL_UE_RETIRE then s.candidate page else s

/-- A correctable error (R101, R102): counted at the controller and for its frame. -/
def State.correctable (s : State) (phys : Nat) : State :=
  let n := mcOf phys
  let s := s.fset (Reg.MC_ECC_STATUS n) Bit.MC_ECC_STATUS_CE 1
  let s := s.fsat (Reg.MC_ECC_CE_COUNT n) Bit.MC_ECC_CE_COUNT_COUNT
  let frame := phys / 2 ^ 20
  let k := (tabGet s.frameErrors frame).getD 0 + 1
  let s := { s with frameErrors := tabPut frame k s.frameErrors }
  let limit := s.fget Reg.SYS_RETIRE_CTL Bit.SYS_RETIRE_CTL_CE_THRESHOLD
  if k = limit then s.candidate (s.pageOfFrame frame) else s

/-- An uncorrectable error that this read finds (R101): the word is poisoned from now on. -/
def State.freshError (s : State) (phys : Nat) : State := { s with poison := setAdd (wordOf phys) s.poison }.uncorrectable phys

/-- What ECC found in the word when its request was served; with ECC off it finds nothing (R100, R101). -/
def State.finding (s : State) (phys : Nat) : Ecc := if s.eccOn then (tabGet s.found (wordOf phys)).getD .clean else .clean
/-- The finding has been taken. -/
def State.clearFinding (s : State) (phys : Nat) : State := { s with found := tabDel (wordOf phys) s.found }

/-- Successive bytes of a miscorrected word (R100). -/
def wrongBytes (n phys : Nat) : Nat → List Byte
  | 0 => []
  | k + 1 => Config.miscorrected n phys :: wrongBytes n (phys + 1) k

/-- The place to which writes of a frame under retirement are mirrored (R103). -/
def State.mirrorOf (s : State) (phys : Nat) : Option Nat :=
  match s.retiring with
  | some r => if phys / 2 ^ 20 = r.fromFrame then some (2 ^ 20 * r.toFrame + phys % 2 ^ 20) else none
  | none => none

/-- The bytes of one write put into memory, at the frame and, while it is being retired, at its mirror (R103). -/
def State.putBytes (s : State) (phys : Nat) (bytes : List Byte) : State :=
  let s' := { s with mem := memWrite s.mem phys bytes }
  match s.mirrorOf phys with
  | some q => { s' with mem := memWrite s'.mem q bytes }
  | none => s'

/-- The read of a read-modify-write (R100, R101) and then its write: a poisoned word and one found uncorrectable fail and the
written bytes are discarded; a word that ECC miscorrects is written back as it was read. -/
def State.mergeWord (s : State) (phys : Nat) (write : State → State) : State :=
  if s.poisoned phys then s.uncorrectable phys
  else
    let t := s.clearFinding phys
    match s.finding phys with
    | .clean => write t
    | .corrected => write (t.correctable phys)
    | .uncorrectable => t.freshError phys
    | .miscorrected => write (((t.correctable phys).putBytes (wordOf phys) (wrongBytes t.fresh (wordOf phys) 64)).draw)

/-- A write to GDDR6 within one 64-byte word (R100, R101): a full word replaces poison; a part of a word is a
read-modify-write. -/
def State.storeWord (s : State) (phys : Nat) (bytes : List Byte) : State :=
  if bytes.length = 64 then
    let clean := (s.poison.erase (wordOf phys)).filter fun a => decide (some a ≠ (s.mirrorOf phys).map wordOf)
    (({ s with poison := clean }).clearFinding phys).putBytes phys bytes
  else s.mergeWord phys fun s => s.putBytes phys bytes

/-- A write of any length to GDDR6, cut at 64-byte words; `n` bounds the pieces. -/
def State.storeBytes (s : State) (phys : Nat) (bytes : List Byte) : Nat → State
  | 0 => s
  | n + 1 =>
    if bytes = [] then s
    else
      let len := 64 - phys % 64
      (s.storeWord phys (bytes.take len)).storeBytes (phys + (bytes.take len).length) (bytes.drop len) n

/-- A write to GDDR6. -/
def State.store (s : State) (phys : Nat) (bytes : List Byte) : State := s.storeBytes phys bytes (bytes.length / 64 + 2)

/-- A read of `n` bytes within one 64-byte word with what ECC finds (R100, R101): the bytes, or none when the word is
uncorrectable. With ECC off every read returns the bits as stored. -/
def State.wordRead (s : State) (phys n : Nat) (e : Ecc) : State × Option (List Byte) :=
  if s.poisoned phys then (s.uncorrectable phys, none)
  else
    match (if s.eccOn then e else .clean) with
    | .clean => (s, some (s.loadBytes phys n))
    | .corrected => (s.correctable phys, some (s.loadBytes phys n))
    | .uncorrectable => (s.freshError phys, none)
    | .miscorrected => ((s.correctable phys).draw, some (wrongBytes s.fresh phys n))

/-- A read of `n` bytes within one 64-byte word, as its controller found it; `fresh` says that an uncorrectable error appears
with this read. -/
def State.localRead (s : State) (phys n : Nat) (fresh : Bool) : State × Option (List Byte) :=
  (s.clearFinding phys).wordRead phys n (if fresh then .uncorrectable else s.finding phys)

/-- The memory controllers are powered (R348): local requests are served. -/
def State.memOn (s : State) : Bool := s.islandOn 10

/-- A local-memory request that finds the memory controllers powered down is held and begins an exit to PS0 (R351). -/
def State.touchMem (s : State) : State := if s.memOn then s else { s with waking := true, exitTo := 0, pwrTarget := none }

/-- The class GC bucket is refilled for every multiple of 1,000 ns that has come (R217). -/
def State.gcRefill (s : State) : State :=
  let n := s.ticksDue 1 4
  if n = 0 then s
  else { s.markTick 1 4 with gcTokens := min 65536 (s.gcTokens + n * s.fget Reg.EPH_GC_RATE Bit.EPH_GC_RATE_RATE) }

/-- A request takes its bytes from the class GC bucket when it finds credit for all of them; otherwise it takes nothing and is
served in class BE (R217, log entry 123). -/
def State.gcTake (s : State) (bytes : Nat) : State :=
  let s := s.touchMem.gcRefill
  if bytes ≤ s.gcTokens then { s with gcTokens := s.gcTokens - bytes } else s

/-- A local request of a sequencer or a ring enters its controller's queue, in class GC while it finds credit, else in
class BE (R145, R217). -/
def State.askMc (s : State) (source phys bytes : Nat) : State :=
  let be := decide (s.gcRefill.gcTokens < bytes)
  let s := s.gcTake bytes
  { s with mcQueue := s.mcQueue ++ [⟨mcOf phys, source, wordOf phys, be, s.now⟩] }

/-- A request of class BE enters its controller's queue (R145). -/
def State.askBe (s : State) (source phys : Nat) : State :=
  let s := s.touchMem
  { s with mcQueue := s.mcQueue ++ [⟨mcOf phys, source, wordOf phys, true, s.now⟩] }

/-- A request of the source for the word has not been served. -/
def State.unserved (s : State) (source phys : Nat) : Bool :=
  s.mcQueue.any fun r => r.source = source && decide (r.word = wordOf phys)

/-- An error is logged in a function's AER capability (R323): 1 poisoned TLP, 2 completion timeout, 3 unexpected
completion, 4 unsupported request, 5 IDE check failed. -/
def State.aerLog (s : State) (f err : Nat) : State := s.setFn f { s.fn f with aer := (s.fn f).aer ++ [err] }

/-- A request between function f and a host address falls under the stream (R328); without an address, a request of the function. -/
def IdeStream.binds (x : IdeStream) (f : Nat) (addr : Option Nat) : Bool :=
  decide (x.first ≤ f) && decide (f ≤ x.last) &&
    (match addr with | some a => x.ranges.any fun r => decide (r.1 ≤ a) && decide (a < r.1 + r.2) | none => true)

/-- The requests of function f to a host address may not leave in the clear and fall under no stream in the Secure state (R328): it
demands IDE, or a check failed on its stream. -/
def State.ideBlocked (s : State) (f : Nat) (addr : Option Nat) : Bool :=
  let mine := s.ide.filter fun (x : IdeStream) => x.binds f addr
  !(mine.any fun (x : IdeStream) => x.state = 1) &&
    (s.fbit (Reg.PCI_FN_CTL f) Bit.PCI_FN_CTL_IDE_REQUIRED || mine.any fun (x : IdeStream) => x.state = 2)

/-- The function whose request an outbound entry is, and the address it goes to; a message travels under the stream that the
function's requests use (R321). -/
def requesterOf : Outbound → Option (Nat × Option Nat)
  | .write f a _ => some (f, some a)
  | .msix f _ _ _ => some (f, none)
  | .readRequest f a _ => some (f, some a)
  | _ => none

/-- Something enters the PCIe transmit queue; a request that IDE forbids does not leave (R328). -/
def State.send (s : State) (o : Outbound) : State :=
  match requesterOf o with
  | some (f, a) => if s.ideBlocked f a then s else { s with hostTx := s.hostTx ++ [o] }
  | none => { s with hostTx := s.hostTx ++ [o] }

/-- What a read of host memory at an address by function f returns: a request that IDE forbids fails as Unsupported Request (R328). -/
def State.hostAnswer (s : State) (f addr : Nat) (r : ReadResult) : ReadResult :=
  if s.ideBlocked f (some addr) then .unsupported else r

/-- `FET_CTL.HOST_TIMEOUT`, ns. -/
def State.hostTimeout (s : State) : Nat := 1000 * s.fget Reg.FET_CTL Bit.FET_CTL_HOST_TIMEOUT

/-- The read goes to host memory. -/
def Flight.isHost (x : Flight) : Bool := match x.src with | .hostWin .. => true | _ => false

/-- The PCIe link is up. -/
def State.linkUp (s : State) : Bool := s.fbit Reg.PCI_LINK_STATUS Bit.PCI_LINK_STATUS_LINK_UP

/-- The link is up and the function's Bus Master Enable is set (R331). -/
def State.hostReachable (s : State) (f : Nat) : Bool := s.linkUp && (s.fn f).busMaster

/-- A write of the device into frame-store space with the rights of function `f` (R94): performed in GDDR6, put into the
transmit queue, or dropped and recorded as a refusal; a host-window write while the link is down is dropped. While the memory
controllers are without power the write begins an exit (R351); GDDR6 is not read before the exit, so it stands there at once. -/
def State.deviceWrite (s : State) (f addr : Nat) (bytes : List Byte) (island : Nat) : State :=
  match s.translate f addr .write with
  | .localMem phys => s.touchMem.store phys bytes
  | .hostWin fn a => if s.linkUp then s.send (.write fn a bytes) else s
  | .refused p => s.refusal p f true island

/-! Sequencers. -/

/-- A sequencer's state. -/
def State.seq (s : State) (q : Nat) : Seq := (tabGet s.seqs q).getD Seq.reset
/-- The state with a sequencer's state set. -/
def State.setSeq (s : State) (q : Nat) (x : Seq) : State := { s with seqs := tabPut q x s.seqs }

/-- The status register of a sequencer: `CP_STATUS` or `FSQ_STATUS`, whose `STATE` and `FAULT_CODE` lie alike. -/
def seqStatus (q : Nat) : Nat := if q < 32 then Reg.CP_STATUS q else Reg.FSQ_STATUS (q - 32)
/-- `STATE` of a sequencer: 0 `DISABLED`, 1 `IDLE` or `WAIT_START`, 2 `RUNNING`, 3 `WAITING`, 4 `FAULTED`, 5 `LINK_WAIT`. -/
def State.seqState (s : State) (q : Nat) : Nat := s.fget (seqStatus q) Bit.CP_STATUS_STATE
/-- The state with `STATE` of a sequencer set. -/
def State.setSeqState (s : State) (q v : Nat) : State := s.fset (seqStatus q) Bit.CP_STATUS_STATE v
/-- The sequencer's enable bit (R92). -/
def State.seqEnabled (s : State) (q : Nat) : Bool :=
  if q < 32 then s.fbit (Reg.CP_CTL q) Bit.CP_CTL_ENABLE else s.fbit (Reg.FSQ_CTL (q - 32)) Bit.FSQ_CTL_ENABLE

/-- Value of a general register; `g0` reads as zero (R54). -/
def Seq.reg (x : Seq) (r : Fin 16) : DWord := if r.val = 0 then 0 else (tabGet x.regs r.val).getD 0
/-- A write of a general register; a write of `g0` is discarded (R54). -/
def Seq.setReg (x : Seq) (r : Nat) (v : DWord) : Seq := if r = 0 then x else { x with regs := tabPut r v x.regs }

/-- TAKING AN EXCEPTION (R47, R48, R90): the instruction has no effect; the sequencer enters `FAULTED`, the code and the PC
are recorded, the sequencer-fault event is raised; a frame sequencer's count of faulted runs rises to at most 3. -/
def State.seqFault (s : State) (q code : Nat) (recordPc : Bool) : State :=
  let x := s.seq q
  let s := s.setSeq q { x with waiting := .nothing, linkWait := false }
  let s := s.setSeqState q 4
  let s := s.fset (seqStatus q) Bit.CP_STATUS_FAULT_CODE code
  let s := if recordPc then
      (if q < 32 then (s.wr (Reg.CP_FAULT_PC_LO q) (x.pc % 2 ^ 32)).wr (Reg.CP_FAULT_PC_HI q) (x.pc / 2 ^ 32 % 4)
       else (s.wr (Reg.FSQ_FAULT_PC_LO (q - 32)) (x.pc % 2 ^ 32)).wr (Reg.FSQ_FAULT_PC_HI (q - 32)) (x.pc / 2 ^ 32 % 4))
    else s
  let s := if q < 32 then (match x.entry with | some e => s.wr (Reg.CP_FAULT_ENTRY q) e.index | none => s)
    else s.fset (Reg.FSQ_STATUS (q - 32)) Bit.FSQ_STATUS_FAULT_RUNS
      (min 3 (s.fget (Reg.FSQ_STATUS (q - 32)) Bit.FSQ_STATUS_FAULT_RUNS + 1))
  s.raise (srcSeqFault q) 1 code 2

end Sys2Proof.Machine
end

