-- ==== Sys2Proof/Machine/Flags.lean ====
section
/-! DEFINITION. The flag computations of R68 and the conditions of R62. -/

namespace Sys2Proof.Machine

/-- Z and N of a 64-bit result (R68). -/
def Seq.setZN (x : Seq) (r : DWord) : Seq := { x with z := r = 0, n := r.msb }

/-- The sum a + b + carry-in: result, carry out of bit 63, signed overflow (R67, R68). -/
def addFlags (a b : DWord) (carry : Bool) : DWord × Bool × Bool :=
  let wide := a.toNat + b.toNat + b2n carry
  let r := BitVec.ofNat 64 wide
  (r, 2 ^ 64 ≤ wide, a.msb == b.msb && r.msb != a.msb)

/-- `ADDI`: ga + S, or ga + NOT(S) + 1 when `NEG` (R67). -/
def addSub (neg : Bool) (a b : DWord) : DWord × Bool × Bool :=
  if neg then addFlags a (~~~b) true else addFlags a b false

/-- Z, N, C and V of a sum or difference (R68). -/
def Seq.setAdd (x : Seq) (r : DWord × Bool × Bool) : Seq := { x.setZN r.1 with c := r.2.1, v := r.2.2 }

/-- `SHL` by n < 64: result and last bit shifted out, 0 for a shift of 0 (R67, R68). -/
def shiftLeft (a : DWord) (n : Nat) : DWord × Bool := (a <<< n, n ≠ 0 && a.getLsbD (64 - n))

/-- `SHR` by n < 64, sign-filling when `arith` (R67, R68). -/
def shiftRight (arith : Bool) (a : DWord) (n : Nat) : DWord × Bool :=
  (if arith then a.sshiftRight n else a >>> n, n ≠ 0 && a.getLsbD (n - 1))

/-- Flags of a shift: Z, N of the result, C the last bit out, V 0 (R68). -/
def Seq.setShift (x : Seq) (r : DWord × Bool) : Seq := { x.setZN r.1 with c := r.2, v := false }

/-- The condition of `JCC` (R62); code 15 is `ILLEGAL` and decodes to no instruction. -/
def conditionHolds (code : Nat) (x : Seq) : Bool :=
  match code with
  | 0 => true
  | 1 => x.z
  | 2 => !x.z
  | 3 => !x.c
  | 4 => x.c
  | 5 => !x.c || x.z
  | 6 => x.c && !x.z
  | 7 => x.n != x.v
  | 8 => x.n == x.v
  | 9 => x.z || x.n != x.v
  | 10 => !x.z && x.n == x.v
  | 11 => x.n
  | 12 => !x.n
  | 13 => x.v
  | 14 => !x.v
  | _ => false

/-- Flags of a waiting `CHECK` or `COMMIT`: Z `ADMIT`, N refused, C `DEFER`, V 0 (R68, R213). -/
def Seq.setVerdict (x : Seq) (code : Nat) : Seq :=
  { x with z := code = 0, n := 2 ≤ code, c := code = 1, v := false }

end Sys2Proof.Machine
end

