-- ==== Sys2Proof/Machine/Operands.lean ====
section
/-! DEFINITION. How a sequencer fetches an instruction (R26, R56, R89) and finds its operands: the second operand S (R60),
branch targets (R63), data addresses (R69), heads (R74), groups and result addresses (R83). -/

namespace Sys2Proof.Machine

/-- The ring geometry of a command processor: base and entry count N (R36). -/
def State.ringBase (s : State) (n : Nat) : Nat :=
  s.rd (Reg.CP_RING_BASE_LO n) + 2 ^ 32 * s.rd (Reg.CP_RING_BASE_HI n)
def State.ringSlots (s : State) (n : Nat) : Nat := 2 ^ (s.rd (Reg.CP_RING_SIZE n) % 16) * 64
/-- Address of the entry with index i (R36). -/
def State.ringAddr (s : State) (n i : Nat) : Nat := s.ringBase n + 64 * (i % s.ringSlots n)

/-- What a fetch at the program counter finds. -/
inductive Fetched
  | word (w k : DWord)
  | miss (line : Nat)
  | past
deriving DecidableEq, Repr

/-- The word of a program at word address `pc` for sequencer q: from the `INLINE` entry (with its implied `HALT`), from the
program buffer, or a miss of its line (R38, R56, R89). -/
def State.wordAt (s : State) (q pc : Nat) : Fetched :=
  let x := s.seq q
  if 2 ^ 34 ≤ pc then .past
  else if x.inl then
    match x.entry with
    | some e =>
      let k := pc - s.ringAddr q e.index / 8
      if k < 8 then .word (BitVec.ofNat 64 (ofBytes ((e.bytes.drop (8 * k)).take 8))) 0
      else .word 0x0700000000000000 0
    | none => .word 0x0700000000000000 0
  else
    let line := pc * 8 / 64 * 64
    match tabGet x.buffer (line / 64 % 32) with
    | some (a, ws) => if a = line then .word (ws.getD (pc % 8) 0) 0 else .miss line
    | none => .miss line

/-- The instruction at the program counter: its word and, in the extended form, its second word (R59). -/
def State.fetchAt (s : State) (q : Nat) : Fetched :=
  let pc := (s.seq q).pc
  match s.wordAt q pc with
  | .word w _ =>
    if wantsSecond w then
      match s.wordAt q (pc + 1) with
      | .word k _ => .word w k
      | other => other
    else .word w 0
  | other => other

/-- A host-window access of a sequencer while the link is down (R52, R72): a frame sequencer takes `HOST_UNREACHABLE`, a
command processor enters `LINK_WAIT` and will issue the same access again. -/
def State.hostDown (s : State) (q : Nat) : State :=
  if q < 32 then (s.setSeq q { s.seq q with linkWait := true }).setSeqState q 5
  else s.seqFault q 0x07 true

/-- A missed line is asked for (R26): translated with the function's rights, then the sequencer stalls. -/
def State.startFetch (s : State) (q line : Nat) : State :=
  match s.translate (s.seqFn q) line .read with
  | .refused p => (s.refusal p (s.seqFn q) false 2).seqFault q 0x05 true
  | .localMem phys => (s.askMc q phys 64).setSeq q { s.seq q with waiting := .fetch line (.localMem phys) s.now }
  | .hostWin fn a =>
    if s.linkUp then
      (s.send (.readRequest fn a 64)).setSeq q
        { s.seq q with waiting := .fetch line (.hostWin fn a) s.now, deadline := s.now + (s.fn fn).timeout }
    else s.hostDown q

/-- A sequencer may issue: it is `RUNNING`, waits for nothing, and its entry has not completed. -/
def State.canIssue (s : State) (q : Nat) : Bool :=
  s.seqState q = 2 && (s.seq q).waiting = Waiting.nothing && !(s.seq q).done && !(s.seq q).linkWait

/-- One instruction of the row `op` issues on sequencer q (R56 to R61, R91): a missing line starts a fetch, a word that is
no legal instruction raises `ILLEGAL`, a word of another row leaves the state as it is (log entry 2). -/
def State.issue (s : State) (q : Nat) (op : Op) (body : Atcia → State) : State :=
  if s.canIssue q then
    match s.fetchAt q with
    | .past => s.seqFault q 0x04 true
    | .miss line => s.startFetch q line
    | .word w k =>
      match decodeAtcia w k with
      | some i => if i.op = op then body i else s
      | none => if opOf (w.toNat / 2 ^ 56) = some op || opOf (w.toNat / 2 ^ 56) = none then s.seqFault q 0x01 true else s
  else s

/-- The program counter after an instruction that does not transfer control (R56). -/
def nextPc (x : Seq) (i : Atcia) : Nat := x.pc + (if i.x then 2 else 1)

/-- The sequencer goes on behind the instruction. -/
def State.retire (s : State) (q : Nat) (i : Atcia) (x : Seq) : State := s.setSeq q { x with pc := nextPc (s.seq q) i }

/-- IMM sign-extended to 64 bits. -/
def simm (i : Atcia) : DWord := i.imm.signExtend 64

/-- The second operand S (R60). -/
def secondOperand (x : Seq) (i : Atcia) : DWord :=
  if i.x then i.k else if i.ctl.getLsbD 0 then simm i else x.reg i.b

/-- A branch target: a word address, or the exception the byte target raises (R63). -/
def branchTarget (x : Seq) (i : Atcia) (reg : Bool) : Except Nat Nat :=
  if i.x || reg then
    let byte := if i.x then i.k else x.reg i.a + simm i
    if byte.toNat % 8 ≠ 0 then .error 0x03
    else if 2 ^ 37 ≤ byte.toNat then .error 0x04
    else .ok (byte.toNat / 8)
  else .ok (((x.pc : Int) + i.imm.toInt) % (2 ^ 34 : Int)).toNat

/-- The byte address of `LDW` and `STW` (R69). -/
def dataAddress (x : Seq) (i : Atcia) : Nat := (x.reg i.a + (if i.x then i.k else simm i)).toNat

/-- The access size of CTL[1:0] (R69). -/
def sizeOf (ctl : Nat) : Nat := match ctl % 4 with | 0 => 8 | 1 => 4 | 2 => 2 | _ => 1

/-- The head of `WAITLN` and `STAMP`, or the exception (R74): with `H` 0 the own head of a frame sequencer. -/
def State.namedHead (s : State) (q : Nat) (i : Atcia) : Except Nat Nat :=
  if i.ctl.getLsbD 3 then
    let h := ((s.seq q).reg i.b).toNat
    if 128 ≤ h then .error 0x09
    else if s.headFn h ≠ s.seqFn q then .error 0x0A
    else .ok h
  else if q < 32 then .error 0x02
  else .ok (q - 32)

/-- The raster of a head. -/
def State.head (s : State) (h : Nat) : HeadRun := (tabGet s.heads h).getD ⟨0, 0, 0, 0, 0, 0⟩
/-- The state with a head's raster set. -/
def State.setHead (s : State) (h : Nat) (r : HeadRun) : State := { s with heads := tabPut h r s.heads }
/-- `HEAD_STATE` (R231): 0 `STOPPED`, 1 `RUNNING`, 2 `SHED`. -/
def State.headState (s : State) (h : Nat) : Nat := s.rd (hdOff h Hd.HEAD_STATE) % 4
/-- The head runs its timing generator (a shed head does, R358). -/
def State.headRunning (s : State) (h : Nat) : Bool := s.headState h ≠ 0
/-- `ACT_VTOTAL` (R231). -/
def State.vtotal (s : State) (h : Nat) : Nat := s.rd (hdOff h Hd.ACT_VTOTAL)

/-- The groups of a mask. -/
def groupsOf (mask : Nat) : List Nat := (List.range 32).filter (bitOf mask)

/-- The group mask of `CHECK`, `COMMIT` and `ABORT` (R83, R87): the mask, or the exception. -/
def State.groupMask (s : State) (q : Nat) (v : DWord) : Except Nat Nat :=
  if v.toNat = 0 || 2 ^ 32 ≤ v.toNat then .error 0x02
  else if (groupsOf v.toNat).any (fun g => s.groupFn g ≠ s.seqFn q) then .error 0x0A
  else .ok v.toNat

/-- The checks on the address of a result word (R83), in the order of R91: none when it passes. -/
def resultAddressFault (a : Nat) : Option Nat :=
  if a = 0 then none else if a % 8 ≠ 0 then some 0x03 else if 2 ^ 37 ≤ a then some 0x04 else none

end Sys2Proof.Machine
end

