-- ==== Sys2Proof/Machine/Control.lean ====
section
/-! DEFINITION. The Atcia instructions of control transfer, arithmetic and logic (R62 to R68), and `HALT` (R66). -/

namespace Sys2Proof.Machine

/-- The answer of a command. -/
abbrev Result := Host.Outcome State Fault Refusal

/-- `NOP` (R66). -/
def execNop (q : SeqId) (s : State) : Result :=
  .next (s.issue q .nop fun i => s.retire q i (s.seq q))

/-- A branch is taken to its target, or raises the target's exception (R63). -/
def State.branch (s : State) (q : Nat) (i : Atcia) (reg : Bool) (x : Seq) : State :=
  match branchTarget (s.seq q) i reg with
  | .ok t => s.setSeq q { x with pc := t }
  | .error c => s.seqFault q c true

/-- `JMP` (R63). -/
def execJmp (q : SeqId) (s : State) : Result :=
  .next (s.issue q .jmp fun i => s.branch q i (i.ctl.getLsbD 0) (s.seq q))

/-- `JCC` (R62, R63): the target's checks apply only when the condition holds. -/
def execJcc (q : SeqId) (s : State) : Result :=
  .next (s.issue q .jcc fun i =>
    if conditionHolds (i.ctl.toNat % 16) (s.seq q) then s.branch q i (i.ctl.getLsbD 4) (s.seq q)
    else s.retire q i (s.seq q))

/-- `CALL` (R64): the target's exception is reported before `CALL_DEPTH` (R91). -/
def execCall (q : SeqId) (s : State) : Result :=
  .next (s.issue q .call fun i =>
    let x := s.seq q
    match branchTarget x i (i.ctl.getLsbD 0) with
    | .error c => s.seqFault q c true
    | .ok t =>
      if 16 ≤ x.stack.length then s.seqFault q 0x0C true
      else s.setSeq q { x with pc := t, stack := nextPc x i :: x.stack })

/-- `RET` (R64). -/
def execRet (q : SeqId) (s : State) : Result :=
  .next (s.issue q .ret fun _ =>
    let x := s.seq q
    match x.stack with
    | [] => s.seqFault q 0x0D true
    | t :: rest => s.setSeq q { x with pc := t, stack := rest })

/-- `LOOP` (R65): no flag changes; D is the counter. -/
def execLoop (q : SeqId) (s : State) : Result :=
  .next (s.issue q .loop fun i =>
    let x := s.seq q
    let v := x.reg i.d
    if v = 0 then s.retire q i x
    else
      let x' := x.setReg i.d (v - 1)
      if v - 1 = 0 then s.retire q i x' else s.branch q i false x')

/-- A run or entry ends at `HALT` (R43, R48, R64, R66): the return stack is discarded; a frame sequencer records the run's
duration, clears its count of faulted runs and waits for its next start point; a command processor's entry completes. -/
def State.endRun (s : State) (q : Nat) : State :=
  let x := { s.seq q with waiting := .nothing, stack := [] }
  if q < 32 then (s.setSeq q { x with done := true }).setSeqState q 2
  else
    let m := q - 32
    let ns := min (s.now - x.runStart) (2 ^ 32 - 1)
    let s := (s.setSeq q x).setSeqState q 1
    let s := s.fset (Reg.FSQ_STATUS m) Bit.FSQ_STATUS_FAULT_RUNS 0
    let s := s.wr (Reg.FSQ_RUN_LAST m) ns
    s.wr (Reg.FSQ_RUN_MAX m) (max (s.rd (Reg.FSQ_RUN_MAX m)) ns)

/-- `HALT` (R66): ends the run once every earlier store has been performed, and otherwise waits for that. -/
def execHalt (q : SeqId) (s : State) : Result :=
  .next (s.issue q .halt fun _ =>
    let x := s.seq q
    if x.stores = [] then s.endRun q
    else (s.setSeq q { x with waiting := .halt }).setSeqState q 3)

/-- The stores that a `HALT` waited for are performed (R66). -/
def execHaltComplete (q : SeqId) (s : State) : Result :=
  .next (if (s.seq q).waiting = .halt && (s.seq q).stores = [] then s.endRun q else s)

/-- A two-operand instruction that writes gd: `f` gives the result and the flags (R67, R68). -/
def State.arith (s : State) (q : Nat) (i : Atcia) (f : Seq → DWord → DWord → DWord × Seq) : State :=
  let x := s.seq q
  let (r, x') := f x (x.reg i.a) (secondOperand x i)
  s.retire q i (x'.setReg i.d r)

/-- `ADDI` (R67, R68). -/
def execAddi (q : SeqId) (s : State) : Result :=
  .next (s.issue q .addi fun i => s.arith q i fun x a b =>
    let r := addSub (i.ctl.getLsbD 1) a b
    (r.1, x.setAdd r))

/-- `AND` (R67, R68). -/
def execAnd (q : SeqId) (s : State) : Result :=
  .next (s.issue q .and fun i => s.arith q i fun x a b => (a &&& b, x.setZN (a &&& b)))

/-- `OR` (R67, R68). -/
def execOr (q : SeqId) (s : State) : Result :=
  .next (s.issue q .or fun i => s.arith q i fun x a b => (a ||| b, x.setZN (a ||| b)))

/-- `XOR` (R67, R68). -/
def execXor (q : SeqId) (s : State) : Result :=
  .next (s.issue q .xor fun i => s.arith q i fun x a b => (a ^^^ b, x.setZN (a ^^^ b)))

/-- `SHL` by S[5:0] (R67, R68). -/
def execShl (q : SeqId) (s : State) : Result :=
  .next (s.issue q .shl fun i => s.arith q i fun x a b =>
    let r := shiftLeft a (b.toNat % 64)
    (r.1, x.setShift r))

/-- `SHR` by S[5:0], sign-filling when `ARITH` (R67, R68). -/
def execShr (q : SeqId) (s : State) : Result :=
  .next (s.issue q .shr fun i => s.arith q i fun x a b =>
    let r := shiftRight (i.ctl.getLsbD 1) a (b.toNat % 64)
    (r.1, x.setShift r))

/-- `CMP`: the flags of ga − S (R67, R68). -/
def execCmp (q : SeqId) (s : State) : Result :=
  .next (s.issue q .cmp fun i =>
    let x := s.seq q
    s.retire q i (x.setAdd (addSub true (x.reg i.a) (secondOperand x i))))

end Sys2Proof.Machine
end

