-- ==== Sys2Proof/Machine/Geometry.lean ====
section
/-! DEFINITION. Surfaces and layers: formats (R33, R105), layouts (R106, R107, R109), use of fields (R419), orientation
(R169), scaler positions (R174 to R177), chroma taps (R173), the Occulter's tiles (R150 to R154) and the words that a line
and a band of a head need (R136, R137). -/

namespace Sys2Proof.Machine

/-- A list without repeats. -/
def uniq : List Nat → List Nat
  | [] => []
  | x :: xs => let r := uniq xs; if x ∈ r then r else x :: r

/-- A number put into an ascending list. -/
def insertNat (n : Nat) : List Nat → List Nat
  | [] => [n]
  | x :: xs => if n ≤ x then n :: x :: xs else x :: insertNat n xs

/-- A list in ascending order. -/
def sortNat (l : List Nat) : List Nat := l.foldr insertNat []

/-- The numbers from `a` to `b` − 1. -/
def span (a b : Nat) : List Nat := (List.range (b - a)).map (a + ·)

/-! Layers. -/

/-- Enabled layer slots of a copy, ascending. -/
def layersIn (m : View) : List Nat :=
  m.filterMap fun e =>
    if 0x200000 ≤ e.1 && decide (e.1 < 0x300000) && decide (e.1 % 256 = 0) && bitOf e.2.toNat 0 then
      some ((e.1 - 0x200000) / 256) else none

/-- Enabled layers of a head, ascending slot. -/
def headLayers (m : View) (h : Nat) : List Nat := (layersIn m).filter fun sl => lyr m sl Lyr.HEAD = h

/-- A solid-colour layer (R171). -/
def isSolid (m : View) (sl : Nat) : Bool := lyr m sl Lyr.SOLID_EN = 1
/-- A layer bound to an ingest stream (R163, R419). -/
def isBound (m : View) (sl : Nat) : Bool := !isSolid m sl && decide (lyr m sl Lyr.INGEST_STREAM ≠ 8191)
/-- A Caeryon Lossless Tiles layer (R108). -/
def isClt (m : View) (sl : Nat) : Bool := !isSolid m sl && decide (lyr m sl Lyr.FORMAT = 12)
/-- The format of the pixels: inside the tiles for CLT. -/
def pixelFormat (m : View) (sl : Nat) : Nat :=
  if lyr m sl Lyr.FORMAT = 12 then lyr m sl Lyr.CLT_INNER else lyr m sl Lyr.FORMAT
/-- The layer reads a palette (R190). -/
def usesPalette (m : View) (sl : Nat) : Bool := !isSolid m sl && decide (pixelFormat m sl = 5)
/-- Planes of a surface (R33). -/
def planeCount (m : View) (sl : Nat) : Nat := if 8 ≤ lyr m sl Lyr.FORMAT ∧ lyr m sl Lyr.FORMAT ≤ 11 then 2 else 1
/-- Element size in bytes (R105). -/
def elemSize (f plane : Nat) : Nat :=
  if plane = 1 then (if f = 9 ∨ f = 11 then 4 else 2)
  else match f with
    | 0 | 1 | 2 => 4
    | 3 => 8
    | 5 | 6 | 8 | 10 => 1
    | _ => 2
/-- Pixel word size B of CLT (R108). -/
def cltWord (f : Nat) : Nat := elemSize f 0
/-- Chroma is halved horizontally or vertically (R105). -/
def chromaHalfH (f : Nat) : Bool := f = 8 || f = 9 || f = 10
def chromaHalfV (f : Nat) : Bool := f = 8 || f = 9

/-- Size of the oriented source (R169). -/
def orientW (m : View) (sl : Nat) : Nat := if lyr m sl Lyr.ROTATE = 0 then lyr m sl Lyr.CROP_W else lyr m sl Lyr.CROP_H
def orientH (m : View) (sl : Nat) : Nat := if lyr m sl Lyr.ROTATE = 0 then lyr m sl Lyr.CROP_H else lyr m sl Lyr.CROP_W
/-- The layer is scaled (R175). -/
def isScaled (m : View) (sl : Nat) : Bool :=
  !isSolid m sl && (decide (lyr m sl Lyr.DST_W ≠ orientW m sl) || decide (lyr m sl Lyr.DST_H ≠ orientH m sl) ||
    decide (lyr m sl Lyr.SCALE_FORCE = 1))

/-- Left and top edge of the destination. -/
def dstX (m : View) (sl : Nat) : Int := signed 16 (lyr m sl Lyr.DST_X)
def dstY (m : View) (sl : Nat) : Int := signed 16 (lyr m sl Lyr.DST_Y)

/-- The part of [d, d + n) inside [a, b): first and past-the-end, empty when not first < past (R170). -/
def clip (d : Int) (n a b : Nat) : Nat × Nat := ((max d a).toNat, (min (d + n) b).toNat)

/-! The scaler (R174 to R177). -/

def stepOf (n d : Nat) : Nat := (2 ^ 24 * n + d / 2) / d
/-- P(i) of R177. -/
def scalePos (n d phase i : Nat) : Int := (stepOf n d / 2 : Nat) - 2 ^ 23 + 256 * signed 16 phase + (i * stepOf n d : Nat)
/-- The folded index of R174. -/
def foldIndex (edge n : Nat) (k : Int) : Nat :=
  if edge = 1 then
    let r := (k % (2 * n : Nat)).toNat
    if r < n then r else 2 * n - 1 - r
  else (min (max k 0) ((n : Int) - 1)).toNat

/-- Oriented columns that output column i uses, in tap order (R178). -/
def hTaps (m : View) (sl i : Nat) : List Nat :=
  if isScaled m sl then
    let n := orientW m sl
    let c := scalePos n (lyr m sl Lyr.DST_W) (lyr m sl Lyr.H_PHASE) i / 2 ^ 24
    (List.range 8).map fun (k : Nat) => foldIndex (lyr m sl Lyr.EDGE_MODE) n (c + k - 3)
  else [i]
/-- Oriented lines that output line j uses, in tap order (R178). -/
def vTaps (m : View) (sl j : Nat) : List Nat :=
  if isScaled m sl then
    let n := orientH m sl
    let c := scalePos n (lyr m sl Lyr.DST_H) (lyr m sl Lyr.V_PHASE) j / 2 ^ 24
    (List.range 6).map fun (k : Nat) => foldIndex (lyr m sl Lyr.EDGE_MODE) n (c + k - 2)
  else [j]

/-- The crop pixel of oriented pixel (u, v) (R169). -/
def cropPixel (m : View) (sl u v : Nat) : Nat × Nat :=
  let u' := if bitOf (lyr m sl Lyr.FLIP) 0 then orientW m sl - 1 - u else u
  let v' := if bitOf (lyr m sl Lyr.FLIP) 1 then orientH m sl - 1 - v else v
  match lyr m sl Lyr.ROTATE with
  | 1 => (v', lyr m sl Lyr.CROP_H - 1 - u')
  | 2 => (lyr m sl Lyr.CROP_W - 1 - v', u')
  | _ => (u', v')

/-- The chroma samples along one direction for crop coordinate s of n samples, with their weights and the rounding and
shift of R173: co-sited or centred. -/
def chromaTaps (centred : Bool) (edge n s : Nat) : List (Nat × Nat) × Nat × Nat :=
  let f (k : Int) := foldIndex edge n k
  let j : Int := s / 2
  if centred then
    if s % 2 = 0 then ([(f j, 3), (f (j - 1), 1)], 2, 2) else ([(f j, 3), (f (j + 1), 1)], 2, 2)
  else if s % 2 = 0 then ([(f j, 1)], 0, 0)
  else ([(f j, 1), (f (j + 1), 1)], 1, 1)

/-- Chroma samples that crop column x or crop line y uses. -/
def chromaH (m : View) (sl x : Nat) : List (Nat × Nat) × Nat × Nat :=
  if chromaHalfH (lyr m sl Lyr.FORMAT) then
    chromaTaps (lyr m sl Lyr.CHROMA_SITING = 1) (lyr m sl Lyr.EDGE_MODE) (lyr m sl Lyr.CROP_W / 2) x
  else ([(x, 1)], 0, 0)
def chromaV (m : View) (sl y : Nat) : List (Nat × Nat) × Nat × Nat :=
  if chromaHalfV (lyr m sl Lyr.FORMAT) then
    chromaTaps (lyr m sl Lyr.CHROMA_SITING ≠ 2) (lyr m sl Lyr.EDGE_MODE) (lyr m sl Lyr.CROP_H / 2) y
  else ([(y, 1)], 0, 0)

/-! Where elements lie. -/

/-- Offset of element (x, y) from the plane's address (R106, R107). -/
def elemOffset (tiled : Bool) (pitch e x y : Nat) : Nat :=
  if tiled then y / 32 * (pitch * 32) + x * e / 128 * 4096 + y % 32 * 128 + x * e % 128 else y * pitch + x * e

/-- Pitch of a plane. -/
def pitchOf (m : View) (sl plane : Nat) : Nat := if plane = 1 then lyr m sl Lyr.P1_PITCH else lyr m sl Lyr.P0_PITCH
/-- Offset of element (x, y) of the surface's plane. -/
def planeOffset (m : View) (sl plane x y : Nat) : Nat :=
  elemOffset (lyr m sl Lyr.TILING = 1) (pitchOf m sl plane) (elemSize (lyr m sl Lyr.FORMAT) plane) x y
/-- The surface's chroma element of crop chroma sample (cx, cy). -/
def chromaElem (m : View) (sl cx cy : Nat) : Nat × Nat :=
  let f := lyr m sl Lyr.FORMAT
  ((if chromaHalfH f then lyr m sl Lyr.CROP_X / 2 else lyr m sl Lyr.CROP_X) + cx,
   (if chromaHalfV f then lyr m sl Lyr.CROP_Y / 2 else lyr m sl Lyr.CROP_Y) + cy)

/-- Columns and rows of tiles of a CLT surface, and the row length M of its map (R108, R109). -/
def tilesX (m : View) (sl : Nat) : Nat := ceilDiv (lyr m sl Lyr.SURF_W) 32
def tilesY (m : View) (sl : Nat) : Nat := ceilDiv (lyr m sl Lyr.SURF_H) 32
def mapRow (m : View) (sl : Nat) : Nat := ceilDiv (tilesX m sl) 32 * 32
/-- First word of a tile's slot and the offset of its map entry (R109). -/
def slotWord (m : View) (sl tx ty : Nat) : Nat :=
  (ty * lyr m sl Lyr.P0_PITCH * 32 + tx * 1024 * cltWord (pixelFormat m sl)) / 64
def mapOffset (m : View) (sl tx ty : Nat) : Nat := 2 * (ty * mapRow m sl + tx)

/-! The plan. -/

/-- The pipes of a head, left first (R234). -/
def pipesOf (m : View) (h : Nat) : List Nat :=
  if hdf m h Hd.PAIR_EN = 1 then [hdf m h Hd.PIPE, hdf m h Hd.PIPE2] else [hdf m h Hd.PIPE]
/-- Width and height of the active raster. -/
def activeW (m : View) (h : Nat) : Nat := hdf m h Hd.HACTIVE
def activeH (m : View) (h : Nat) : Nat := hdf m h Hd.VACTIVE
/-- The columns that a pipe composes of a head: first and past-the-end (R234). -/
def pipeColumns (m : View) (h p : Nat) : Nat × Nat :=
  if hdf m h Hd.PAIR_EN = 1 then
    (if p = hdf m h Hd.PIPE then (0, activeW m h / 2) else (activeW m h / 2, activeW m h))
  else (0, activeW m h)

/-- Output columns and lines of a tile inside the raster (R150). -/
def tileCols (m : View) (h tx : Nat) : Nat × Nat := (32 * tx, min (32 * tx + 32) (activeW m h))
def tileLines (m : View) (h ty : Nat) : Nat × Nat := (32 * ty, min (32 * ty + 32) (activeH m h))

/-- The destination's part of a span of columns, of lines. -/
def layerCols (m : View) (sl a b : Nat) : Nat × Nat := clip (dstX m sl) (lyr m sl Lyr.DST_W) a b
def layerLines (m : View) (sl a b : Nat) : Nat × Nat := clip (dstY m sl) (lyr m sl Lyr.DST_H) a b

/-- The layer intersects a tile; covers it (R150). -/
def intersects (m : View) (h sl tx ty : Nat) : Bool :=
  let c := layerCols m sl (tileCols m h tx).1 (tileCols m h tx).2
  let l := layerLines m sl (tileLines m h ty).1 (tileLines m h ty).2
  decide (c.1 < c.2) && decide (l.1 < l.2)
def covers (m : View) (h sl tx ty : Nat) : Bool :=
  layerCols m sl (tileCols m h tx).1 (tileCols m h tx).2 = tileCols m h tx &&
    layerLines m sl (tileLines m h ty).1 (tileLines m h ty).2 = tileLines m h ty

/-- Hidden: an opaque layer above covers the tile (R151, R152). -/
def hiddenIn (m : View) (o : Occlusion) (h sl tx ty : Nat) : Bool :=
  intersects m h sl tx ty && (headLayers m h).any fun up =>
    decide (lyr m sl Lyr.ZORDER < lyr m up Lyr.ZORDER) && decide (up ∈ o.opaque_) && covers m h up tx ty

/-- Oriented columns of the raster columns [a, b), oriented lines of the raster lines. -/
def columnsUsed (m : View) (sl a b : Nat) : List Nat :=
  let c := layerCols m sl a b
  uniq ((span c.1 c.2).flatMap fun (x : Nat) => hTaps m sl (x - dstX m sl).toNat)
def linesUsed (m : View) (sl a b : Nat) : List Nat :=
  let l := layerLines m sl a b
  uniq ((span l.1 l.2).flatMap fun (y : Nat) => vTaps m sl (y - dstY m sl).toNat)

/-- Crop columns and lines of oriented columns `us` and lines `vs` (R169). -/
def cropSpans (m : View) (sl : Nat) (us vs : List Nat) : List Nat × List Nat :=
  if lyr m sl Lyr.ROTATE = 0 then
    (us.map fun u => (cropPixel m sl u 0).1, vs.map fun v => (cropPixel m sl 0 v).2)
  else (vs.map fun v => (cropPixel m sl 0 v).1, us.map fun u => (cropPixel m sl u 0).2)

/-- Tiles of the source, ty × TX + tx, that crop columns and lines touch. -/
def tilesTouched (m : View) (sl : Nat) (xs ys : List Nat) : List Nat :=
  let txs := uniq (xs.map fun x => (lyr m sl Lyr.CROP_X + x) / 32)
  let tys := uniq (ys.map fun y => (lyr m sl Lyr.CROP_Y + y) / 32)
  tys.flatMap fun ty => txs.map fun tx => ty * tilesX m sl + tx

/-- A tile of the source is in the admitted occupancy (R154). -/
def occupiedTile (o : Occlusion) (sl t : Nat) : Bool := ((tabGet o.occupied sl).getD []).contains t

/-- The layer is visible in a tile (R152). -/
def visibleIn (m : View) (o : Occlusion) (h sl tx ty : Nat) : Bool :=
  intersects m h sl tx ty && !hiddenIn m o h sl tx ty &&
    (!isClt m sl ||
      (let c := tileCols m h tx
       let l := tileLines m h ty
       let xy := cropSpans m sl (columnsUsed m sl c.1 c.2) (linesUsed m sl l.1 l.2)
       (tilesTouched m sl xy.1 xy.2).any (occupiedTile o sl)))

/-- The tiles of a head. -/
def tileGrid (m : View) (h : Nat) : List (Nat × Nat) :=
  (List.range (ceilDiv (activeH m h) 32)).flatMap fun ty => (List.range (ceilDiv (activeW m h) 32)).map fun tx => (tx, ty)
/-- Depth of a tile (R153). -/
def depthAt (m : View) (o : Occlusion) (h tx ty : Nat) : Nat :=
  ((headLayers m h).filter fun sl => visibleIn m o h sl tx ty).length

/-- The parts of a segment's data: planes 0 and 1, tile map, palette, in the order of R136. -/
def kinds : List Nat := [0, 1, 2, 3]

/-- Words, counted from the start of the plane, map or palette, that crop columns `xs` and lines `ys` need (R137, R155). -/
def wordsFor (m : View) (o : Occlusion) (sl kind : Nat) (xs ys : List Nat) : List Nat :=
  if xs = [] ∨ ys = [] then []
  else if kind = 3 then (if usesPalette m sl then List.range 16 else [])
  else if isClt m sl then
    let ts := tilesTouched m sl xs ys
    if kind = 0 then
      uniq ((ts.filter (occupiedTile o sl)).flatMap fun t =>
        (List.range (16 * cltWord (pixelFormat m sl))).map (slotWord m sl (t % tilesX m sl) (t / tilesX m sl) + ·))
    else if kind = 2 then
      uniq (ts.flatMap fun t =>
        (List.range (mapRow m sl / 32)).map (t / tilesX m sl * (mapRow m sl / 32) + ·))
    else []
  else if kind = 0 then
    uniq (ys.flatMap fun y => xs.map fun x =>
      planeOffset m sl 0 (lyr m sl Lyr.CROP_X + x) (lyr m sl Lyr.CROP_Y + y) / 64)
  else if kind = 1 ∧ planeCount m sl = 2 then
    let cxs := uniq (xs.flatMap fun x => (chromaH m sl x).1.map (·.1))
    let cys := uniq (ys.flatMap fun y => (chromaV m sl y).1.map (·.1))
    uniq (cys.flatMap fun cy => cxs.map fun cx =>
      planeOffset m sl 1 (chromaElem m sl cx cy).1 (chromaElem m sl cx cy).2 / 64)
  else []

/-- The words that the output lines [y, y') of a pipe's part of a head need of one layer (R137). The lines lie in one row
of tiles. -/
def linesNeed (m : View) (o : Occlusion) (h p sl kind y y' : Nat) : List Nat :=
  if isSolid m sl then []
  else
    let cols := pipeColumns m h p
    let ty := y / 32
    uniq ((span (cols.1 / 32) (ceilDiv cols.2 32)).flatMap fun tx =>
      if visibleIn m o h sl tx ty then
        let c := tileCols m h tx
        let xy := cropSpans m sl (columnsUsed m sl (max c.1 cols.1) (min c.2 cols.2)) (linesUsed m sl y y')
        wordsFor m o sl kind xy.1 xy.2
      else [])

/-- Bands of a head (R136). -/
def bandCount (m : View) (h : Nat) : Nat := ceilDiv (activeH m h) 16
/-- The words that a band needs; the whole palette belongs to band 0. -/
def bandNeed (m : View) (o : Occlusion) (h p sl kind b : Nat) : List Nat :=
  if kind = 3 then
    (if b = 0 && (List.range (bandCount m h)).any (fun b =>
        decide (linesNeed m o h p sl 3 (16 * b) (min (16 * b + 16) (activeH m h)) ≠ [])) then List.range 16 else [])
  else linesNeed m o h p sl kind (16 * b) (min (16 * b + 16) (activeH m h))

/-- The segment of a band: what it needs first (R136), ascending. -/
def segment (m : View) (o : Occlusion) (h p sl kind b : Nat) : List Nat :=
  let earlier := (List.range b).flatMap fun b' => bandNeed m o h p sl kind b'
  sortNat ((bandNeed m o h p sl kind b).filter fun w => !earlier.contains w)

/-- The layer has a segment in the pipe's plan. -/
def hasSegment (m : View) (o : Occlusion) (h p sl : Nat) : Bool :=
  (List.range (bandCount m h)).any fun b => kinds.any fun k => decide (bandNeed m o h p sl k b ≠ [])

/-! Extents (R97). -/

/-- Bytes of a plane, of the CLT slots or of the CLT map; 0 for one the layer does not use. -/
def extentOf (m : View) (sl kind : Nat) : Nat :=
  let f := lyr m sl Lyr.FORMAT
  let w := lyr m sl Lyr.SURF_W
  let h := lyr m sl Lyr.SURF_H
  if isSolid m sl then 0
  else if kind = 3 then (if usesPalette m sl then 1024 else 0)
  else if isClt m sl then
    (if kind = 0 then tilesY m sl * lyr m sl Lyr.P0_PITCH * 32
     else if kind = 2 then 2 * mapRow m sl * tilesY m sl else 0)
  else if kind = 0 ∨ (kind = 1 ∧ planeCount m sl = 2) then
    let lines := if kind = 1 ∧ chromaHalfV f then h / 2 else h
    let per := if kind = 1 ∧ chromaHalfH f then w / 2 else w
    if lyr m sl Lyr.TILING = 1 then ceilDiv lines 32 * pitchOf m sl kind * 32
    else if lines = 0 then 0 else (lines - 1) * pitchOf m sl kind + per * elemSize f kind
  else 0

end Sys2Proof.Machine
end

