-- ==== Sys2Proof/Machine/Pixels.lean ====
section
/-! DEFINITION. From source bytes to output codes: unpacking (R172 to R174, R192, R194), CLT decoding (R110, R111),
scaling (R177 to R179), the colour path (R185 to R203), subsampling (R204) and dithering (R205 to R207). -/

namespace Sys2Proof.Machine

/-- Four stage components (R172). -/
structure Px where
  c0 : Nat
  c1 : Nat
  c2 : Nat
  a : Nat
deriving DecidableEq, Repr

/-- An n-bit sample as a stage value (R172). -/
def unpackBits (n v : Nat) : Nat := (2 * v * 65535 + (2 ^ n - 1)) / (2 * (2 ^ n - 1))

/-- A binary16 value as a stage value (R194). -/
def halfToStage (h : Nat) : Nat :=
  let e := getBits h 10 5
  let f := getBits h 0 10
  if bitOf h 15 then 0
  else if e = 31 then (if f = 0 then 65535 else 0)
  else if 15 ≤ e then 65535
  else
    let mant := if e = 0 then f else 1024 + f
    let sh := if e = 0 then 24 else 25 - e
    (2 * mant * 65535 + 2 ^ sh) / 2 ^ (sh + 1)

/-- The format has no alpha component (R151, R172). -/
def noAlpha (f : Nat) : Bool := f = 4 || decide (6 ≤ f)

/-- An element of a one-plane format as stage components (R105, R172); `palette` gives an entry's R, G, B, A bytes. -/
def unpackElem (f v : Nat) (palette : Nat → Option Px) : Option Px :=
  let byte k := getBits v (8 * k) 8 * 257
  match f with
  | 0 => some ⟨byte 0, byte 1, byte 2, byte 3⟩
  | 1 => some ⟨byte 2, byte 1, byte 0, byte 3⟩
  | 2 => some ⟨unpackBits 10 (getBits v 20 10), unpackBits 10 (getBits v 10 10), unpackBits 10 (getBits v 0 10),
               unpackBits 2 (getBits v 30 2)⟩
  | 3 => some ⟨halfToStage (getBits v 0 16), halfToStage (getBits v 16 16), halfToStage (getBits v 32 16),
               halfToStage (getBits v 48 16)⟩
  | 4 => some ⟨unpackBits 5 (getBits v 11 5), unpackBits 6 (getBits v 5 6), unpackBits 5 (getBits v 0 5), 65535⟩
  | 5 => palette (v % 256)
  | 6 => some ⟨byte 0, 32896, 32896, 65535⟩
  | 7 => some ⟨unpackBits 10 (getBits v 6 10), 32896, 32896, 65535⟩
  | _ => none

/-! CLT (R110, R111). -/

/-- Sixteen residuals of width w from the stream at `pos`; `vals` holds the lane so far, last value first. -/
def cltGroup (stream w : Nat) : Nat → Nat → List Nat → List Nat
  | 0, _, vals => vals
  | n + 1, pos, vals =>
    let z := getBits stream pos w
    let i := vals.length
    let p := if i % 32 = 0 then (if i = 0 then 0 else vals.getD 31 0) else vals.getD 0 0
    let v := (if z % 2 = 0 then p + z / 2 else p + 256 - (z + 1) / 2) % 256
    cltGroup stream w n (pos + w) (v :: vals)

/-- The groups of one lane: the lane's values, last first, and the position behind it; none at a width above 8. -/
def cltLane (stream : Nat) : Nat → Nat → List Nat → Option (List Nat × Nat)
  | 0, pos, vals => some (vals, pos)
  | g + 1, pos, vals =>
    let w := getBits stream pos 4
    if 8 < w then none else cltLane stream g (pos + 4 + 16 * w) (cltGroup stream w 16 (pos + 4) vals)

/-- The lanes from `k` on, each in raster order. -/
def cltLanes (stream : Nat) : Nat → Nat → Option (List (List Nat) × Nat)
  | 0, pos => some ([], pos)
  | k + 1, pos =>
    match cltLane stream 64 pos [] with
    | none => none
    | some (vals, pos') =>
      match cltLanes stream k pos' with
      | none => none
      | some (rest, p) => some (vals.reverse :: rest, p)

/-- A decoded tile. -/
inductive Tile
  | pixels (words : List Nat)
  | transparent
  | error
  | held
deriving DecidableEq, Repr

/-- The decoder of R110 with the errors of R111: `b` the pixel word size, `slot` the slot's bytes. -/
def decodeTile (b entry : Nat) (slot : List Byte) : Tile :=
  let blocks := getBits entry 0 8
  if bitOf entry 15 then .transparent
  else if blocks = 0 ∨ 16 * b < blocks then .error
  else if bitOf entry 14 then
    if blocks = 16 * b then .pixels ((List.range 1024).map fun i => ofBytes ((slot.drop (i * b)).take b)) else .error
  else
    match cltLanes (ofBytes (slot.take (64 * blocks))) b 0 with
    | none => .error
    | some (lanes, pos) =>
      if 512 * blocks < pos then .error
      else .pixels ((List.range 1024).map fun i => (lanes.mapIdx fun k l => l.getD i 0 * 256 ^ k).foldl (· + ·) 0)

/-! The device's own encoder (R108, R110), for retained frames (R352). -/

/-- The zigzag code of the residual of a byte against its prediction. -/
def zigzag (p v : Nat) : Nat :=
  let d := (v + 256 - p) % 256
  if d < 128 then 2 * d else 2 * (256 - d) - 1

/-- The prediction of pixel i of a lane: its left neighbour, the pixel above in column 0, zero at the first. -/
def predicted (lane : List Nat) (i : Nat) : Nat :=
  if i = 0 then 0 else if i % 32 = 0 then lane.getD (i - 32) 0 else lane.getD (i - 1) 0

/-- A field put behind a bit stream: its value and its length. -/
def putField (w v : Nat) (b : Nat × Nat) : Nat × Nat := (b.1 + 2 ^ b.2 * (v % 2 ^ w), b.2 + w)

/-- Group g of a lane: the least width that holds its codes, then the codes. -/
def encodeGroup (lane : List Nat) (b : Nat × Nat) (g : Nat) : Nat × Nat :=
  let zs := (List.range 16).map fun j => zigzag (predicted lane (16 * g + j)) (lane.getD (16 * g + j) 0)
  let top := zs.foldl max 0
  let w := if top = 0 then 0 else Nat.log2 top + 1
  zs.foldl (fun b z => putField w z b) (putField 4 w b)

/-- The coded stream of a tile of `b`-byte pixel words and its length in bits. -/
def encodeLanes (b : Nat) (words : List Nat) : Nat × Nat :=
  (List.range b).foldl (fun st k =>
    let lane := words.map fun w => getBits w (8 * k) 8
    (List.range 64).foldl (encodeGroup lane) st) (0, 0)

/-- A tile as it is coded: its map entry and its slot; raw when coding would take all its blocks. -/
def encodeTile (b : Nat) (words : List Nat) : Nat × List Byte :=
  let s := encodeLanes b words
  let blocks := ceilDiv s.2 512
  if 16 * b ≤ blocks then (16 * b + 2 ^ 14, words.flatMap (toBytes b)) else (blocks, toBytes (64 * blocks) s.1)

/-- A code of n bits in an 8-bit container. -/
def widen8 (n v : Nat) : Nat := if n = 6 then v * 4 + v / 16 else v

/-- Components of a pixel as a word of RGBA8888, or of ARGB2101010 for codes of 10 bits (R251, R352). -/
def codeWord (n c0 c1 c2 : Nat) : Nat :=
  if n = 10 then c2 + 2 ^ 10 * c1 + 2 ^ 20 * c0 + 3 * 2 ^ 30
  else widen8 n c0 + 2 ^ 8 * widen8 n c1 + 2 ^ 16 * widen8 n c2 + 255 * 2 ^ 24

/-! Source pixels. -/

/-- The words of one layer that a pipe has for a frame: kind, word, its bytes. -/
abbrev Words := Nat → Nat → Option (List Byte)

/-- `n` bytes at an offset of a plane, map or palette. -/
def bytesAt (get : Words) (kind off n : Nat) : Option Nat :=
  (get kind (off / 64)).map fun b => ofBytes ((b.drop (off % 64)).take n)

/-- A palette entry (R192). -/
def paletteEntry (get : Words) (v : Nat) : Option Px :=
  (bytesAt get 3 (4 * v) 4).bind fun x => unpackElem 0 x fun _ => none

/-- The tile of a CLT layer as it stands for this frame (R155, R160). -/
def tileOf (m : View) (o : Occlusion) (sl : Nat) (get : Words) (tx ty : Nat) : Tile :=
  match bytesAt get 2 (mapOffset m sl tx ty) 2 with
  | none => .held
  | some entry =>
    let b := cltWord (pixelFormat m sl)
    if bitOf entry 15 then .transparent
    else if !occupiedTile o sl (ty * tilesX m sl + tx) then .transparent
    else
      let blocks := getBits entry 0 8
      if blocks = 0 ∨ 16 * b < blocks then .error
      else
        let ws := (List.range blocks).map fun k => get 0 (slotWord m sl tx ty + k)
        if ws.all Option.isSome then decodeTile b entry (ws.flatMap fun w => w.getD []) else .held

/-- A pixel of a tile; a held tile shows the line above it, or that below it in the same band (R161); `band` gives the band of a
slot word. -/
def tilePixel (m : View) (o : Occlusion) (sl : Nat) (band : Nat → Option Nat) (get : Words) (sx sy : Nat) : Option Nat :=
  let tx := sx / 32
  let ty := sy / 32
  let at_ (t : Tile) (line : Nat) : Option Nat :=
    match t with
    | .pixels ws => some (ws.getD (line * 32 + sx % 32) 0)
    | _ => none
  match tileOf m o sl get tx ty with
  | .held =>
    let up := if ty = 0 then Tile.held else tileOf m o sl get tx (ty - 1)
    if up ≠ .held then at_ up 31
    else if band (slotWord m sl tx (ty + 1)) = band (slotWord m sl tx ty) then at_ (tileOf m o sl get tx (ty + 1)) 0
    else none
  | t => at_ t (sy % 32)

/-- A weighted sum of chroma samples (R173); none when one is not there. -/
def chromaSum (taps : List (Nat × Nat) × Nat × Nat) (f : Nat → Option Nat) : Option Nat :=
  (taps.1.foldl (fun acc t => acc.bind fun a => (f t.1).map fun v => a + t.2 * v) (some 0)).map fun a =>
    (a + taps.2.1) / 2 ^ taps.2.2

/-- A chroma sample of plane 1 as a stage value: `k` 0 Cb, 1 Cr. -/
def chromaSample (m : View) (sl : Nat) (get : Words) (k cx cy : Nat) : Option Nat :=
  let f := lyr m sl Lyr.FORMAT
  let e := chromaElem m sl cx cy
  (bytesAt get 1 (planeOffset m sl 1 e.1 e.2) (elemSize f 1)).map fun v =>
    if f = 9 ∨ f = 11 then unpackBits 10 (getBits v (16 * k + 6) 10) else unpackBits 8 (getBits v (8 * k) 8)

/-- The pixel at crop position (x, y); none is transparent. -/
def cropSource (m : View) (o : Occlusion) (sl : Nat) (band : Nat → Option Nat) (get : Words) (x y : Nat) : Option Px :=
  let f := lyr m sl Lyr.FORMAT
  let sx := lyr m sl Lyr.CROP_X + x
  let sy := lyr m sl Lyr.CROP_Y + y
  let px :=
    if isClt m sl then
      (tilePixel m o sl band get sx sy).bind fun v => unpackElem (pixelFormat m sl) v (paletteEntry get)
    else
      (bytesAt get 0 (planeOffset m sl 0 sx sy) (elemSize f 0)).bind fun v =>
        if planeCount m sl = 2 then
          let chroma k := chromaSum (chromaV m sl y) fun cy => chromaSum (chromaH m sl x) fun cx =>
            chromaSample m sl get k cx cy
          (chroma 0).bind fun cb => (chroma 1).map fun cr =>
            ⟨if f = 9 ∨ f = 11 then unpackBits 10 (getBits v 6 10) else unpackBits 8 (v % 256), cb, cr, 65535⟩
        else unpackElem f v (paletteEntry get)
  if lyr m sl Lyr.ALPHA_IGNORE = 1 then px.map fun q => { q with a := 65535 } else px

/-- The pixel at an oriented position (R169). -/
def orientedSource (m : View) (o : Occlusion) (sl : Nat) (band : Nat → Option Nat) (get : Words) (u v : Nat) : Option Px :=
  let c := cropPixel m sl u v
  cropSource m o sl band get c.1 c.2

/-! The scaler (R178, R179). -/

/-- Tap k of a coefficient row: `base` is the window of the horizontal or vertical sets. -/
def coef (m : View) (base set phase k : Nat) : Int :=
  signed 12 (getBits (viewWord m (base + 16 * (64 * set + phase) + 4 * (k / 2))) (16 * (k % 2)) 12)

/-- One pass of a filter over one component (R178). -/
def filterSum (cs : List Int) (vs : List Nat) : Nat :=
  let acc := (List.zipWith (fun (c : Int) (v : Nat) => c * v) cs vs).foldl (· + ·) 0
  (min (max ((acc + 512) / 1024) 0) 65535).toNat

/-- One pass over pixels: alpha is filtered unless every tap is there and holds 65,535 by R172 (log entry 20). -/
def filterPx (bypass : Bool) (cs : List Int) (ps : List (Option Px)) : Option Px :=
  if ps.all Option.isNone then none
  else
    let qs := ps.map fun p => p.getD ⟨0, 0, 0, 0⟩
    some ⟨filterSum cs (qs.map (·.c0)), filterSum cs (qs.map (·.c1)), filterSum cs (qs.map (·.c2)),
          if bypass && ps.all Option.isSome then 65535 else filterSum cs (qs.map (·.a))⟩

/-- The layer's pixel at destination index (i, j): scaled or passed (R175, R178). -/
def scaledPixel (m : View) (o : Occlusion) (sl : Nat) (band : Nat → Option Nat) (get : Words) (i j : Nat) : Option Px :=
  if isScaled m sl then
    let bypass := noAlpha (pixelFormat m sl) || lyr m sl Lyr.ALPHA_IGNORE = 1
    let ph n d f k := (scalePos n d f k / 2 ^ 18 % 64).toNat
    let vph := ph (orientH m sl) (lyr m sl Lyr.DST_H) (lyr m sl Lyr.V_PHASE) j
    let hph := ph (orientW m sl) (lyr m sl Lyr.DST_W) (lyr m sl Lyr.H_PHASE) i
    let vc := (List.range 6).map (coef m 0x414000 (lyr m sl Lyr.VCOEF_SET) vph)
    let hc := (List.range 8).map (coef m 0x410000 (lyr m sl Lyr.HCOEF_SET) hph)
    filterPx bypass hc ((hTaps m sl i).map fun u =>
      filterPx bypass vc ((vTaps m sl j).map fun v => orientedSource m o sl band get u v))
  else orientedSource m o sl band get i j

/-! The colour path. -/

/-- A value clamped to a stage value. -/
def clampStage (v : Int) : Nat := (min (max v 0) 65535).toNat

/-- Stage 0 (R195). -/
def unpremultiply (p : Px) : Px :=
  if p.a = 65535 then p
  else
    let f c := if p.a = 0 then 0 else min 65535 ((2 * c * 65535 + p.a) / (2 * p.a))
    ⟨f p.c0, f p.c1, f p.c2, p.a⟩

/-- Stage 1a (R196): `luma` says that components 1 and 2 are chroma. -/
def expandRange (luma : Bool) (p : Px) : Px :=
  let y (v : Nat) := clampStage ((((v : Int) - 4112) * 510 + 219) / 438)
  let c (v : Nat) := clampStage (32896 + (((v : Int) - 32896) * 510 + 224) / 448)
  if luma then ⟨y p.c0, c p.c1, c p.c2, p.a⟩ else ⟨y p.c0, y p.c1, y p.c2, p.a⟩

/-- A 3 × 3 matrix by rows with its offsets. -/
structure Matrix where
  m : List (List Int)
  o : List Int
deriving DecidableEq, Repr

/-- The arithmetic of R197 and R201. -/
def Matrix.apply (t : Matrix) (x : Nat × Nat × Nat) : Nat × Nat × Nat :=
  let out i :=
    let r := t.m.getD i []
    let acc := r.getD 0 0 * x.1 + r.getD 1 0 * x.2.1 + r.getD 2 0 * x.2.2
    clampStage ((acc + 8192) / 16384 + t.o.getD i 0)
  (out 0, out 1, out 2)

/-- A matrix held in the `CLR` window at `base`: nine coefficients and, where it has them, three offsets. -/
def tableMatrix (m : View) (base : Nat) (offsets : Bool) : Matrix :=
  let c i j := signed 18 (viewWord m (base + 4 * (3 * i + j)))
  ⟨(List.range 3).map fun i => (List.range 3).map (c i),
   if offsets then (List.range 3).map fun i => signed 20 (viewWord m (base + 36 + 4 * i)) else [0, 0, 0]⟩

/-- The identity matrix. -/
def identityMatrix : Matrix := ⟨[[16384, 0, 0], [0, 16384, 0], [0, 0, 16384]], [0, 0, 0]⟩

/-- The input matrix (R197). -/
def inputMatrix (m : View) (sl : Nat) : Matrix :=
  match lyr m sl Lyr.CSC_SEL with
  | 1 => ⟨[[16384, 0, 22970], [16384, -5638, -11700], [16384, 29032, 0]], [-46119, 34811, -58291]⟩
  | 2 => ⟨[[16384, 0, 25802], [16384, -3069, -7670], [16384, 30402, 0]], [-51806, 21562, -61042]⟩
  | 3 => ⟨[[16384, 0, 24160], [16384, -2696, -9361], [16384, 30825, 0]], [-48509, 24208, -61891]⟩
  | 4 => tableMatrix m (0x400000 + 64 * lyr m sl Lyr.CSC_TABLE) true
  | _ => identityMatrix

/-- Interpolation in a curve of 2^b segments (R198, R202). -/
def interpolate (b : Nat) (curve : Nat → Nat) (x : Nat) : Nat :=
  let x' := x + x / 2 ^ 15
  let w := 16 - b
  let k := x' / 2 ^ w
  let f : Nat := x' % 2 ^ w
  if k = 2 ^ b then curve k
  else ((curve k : Int) + (((curve (k + 1) : Int) - (curve k : Int)) * (f : Int) + ((2 ^ (w - 1) : Nat) : Int)) /
    ((2 ^ w : Nat) : Int)).toNat

/-- A curve held in the `CLR` window at `base`, of 2^b + 1 points. -/
def tableCurve (m : View) (base b k : Nat) : Nat :=
  if k = 2 ^ b then viewWord m (base + 4 * (2 ^ b - 1)) / 2 ^ 16 else viewWord m (base + 4 * k) % 2 ^ 16

/-- Stage 2 (R198). -/
def degammaStage (m : View) (sl x : Nat) : Nat :=
  match lyr m sl Lyr.DEGAMMA_SEL with
  | 0 => x
  | 5 => interpolate 10 (tableCurve m (0x440000 + 4096 * lyr m sl Lyr.DEGAMMA_TABLE) 10) x
  | k => interpolate 10 (Presets.degamma k) x

/-- A layer's pixel in linear light: stages 0 to 2 (R185). -/
def layerColour (m : View) (sl : Nat) (p : Px) : Px :=
  let p := if lyr m sl Lyr.BLEND_MODE = 1 then unpremultiply p else p
  let p := if lyr m sl Lyr.IN_RANGE = 1 then expandRange (decide (6 ≤ pixelFormat m sl)) p else p
  let x := (inputMatrix m sl).apply (p.c0, p.c1, p.c2)
  ⟨degammaStage m sl x.1, degammaStage m sl x.2.1, degammaStage m sl x.2.2, p.a⟩

/-- The solid colour of a layer (R32, R171). -/
def solidColour (m : View) (sl : Nat) : Px :=
  ⟨lyr m sl Lyr.SOLID_RG / 2 ^ 16, lyr m sl Lyr.SOLID_RG % 2 ^ 16, lyr m sl Lyr.SOLID_BA / 2 ^ 16,
   lyr m sl Lyr.SOLID_BA % 2 ^ 16⟩

/-- One component blended (R200). -/
def blend (mode alpha s d : Nat) : Nat :=
  match mode with
  | 0 => (alpha * s + 32767) / 65535
  | 1 | 2 => (alpha * s + (65535 - alpha) * d + 32767) / 65535
  | _ => min 65535 (d + (alpha * s + 32767) / 65535)

/-- A layer applied to the composite (R199). -/
def blendLayer (m : View) (sl : Nat) (p : Px) (d : Nat × Nat × Nat) : Nat × Nat × Nat :=
  let alpha := (p.a * lyr m sl Lyr.PLANE_ALPHA + 32767) / 65535
  let mode := lyr m sl Lyr.BLEND_MODE
  (blend mode alpha p.c0 d.1, blend mode alpha p.c1 d.2.1, blend mode alpha p.c2 d.2.2)

/-- `HEAD_CCTL` of a head in a copy. -/
def cctl (m : View) (h : Nat) : Nat := viewWord m (0x408000 + 16 * h)

/-- Stage 4 (R201). -/
def gamutStage (m : View) (h : Nat) (x : Nat × Nat × Nat) : Nat × Nat × Nat :=
  match getBits (cctl m h) 0 2 with
  | 0 => x
  | 1 => Matrix.apply ⟨[[10280, 5395, 709], [1132, 15065, 187], [269, 1442, 14673]], [0, 0, 0]⟩ x
  | 2 => Matrix.apply ⟨[[27204, -9627, -1193], [-2041, 18561, -136], [-298, -1648, 18330]], [0, 0, 0]⟩ x
  | _ => (tableMatrix m (0x404000 + 64 * h) false).apply x

/-- Stage 5 (R202). -/
def regammaStage (m : View) (h x : Nat) : Nat :=
  match getBits (cctl m h) 4 3 with
  | 0 => x
  | 5 => interpolate 12 (tableCurve m (0x600000 + 16384 * h) 12) x
  | k => interpolate 12 (Presets.regamma k) x

/-- The preset output matrices (R203): K_R and K_B in units of 10⁻⁴. -/
def ycbcr (kr kb : Int) (limited : Bool) : Matrix :=
  let kg := 10000 - kr - kb
  let r := Presets.roundHalfAway
  let gn : Int := if limited then 219 else 1
  let gd : Int := if limited then 255 else 1
  let hn : Int := if limited then 224 else 1
  let y (k : Int) := r (16384 * k * gn) (10000 * gd)
  let ySum := r (16384 * gn) gd
  let c (k d : Int) := r (16384 * k * hn) (d * gd)
  let db := 20000 - 2 * kb
  let dr := 20000 - 2 * kr
  ⟨[[y kr, ySum - y kr - y kb, y kb],
    [c (-kr) db, c (-kg) db, -(c (-kr) db) - c (-kg) db],
    [-(c (-kg) dr) - c (-kb) dr, c (-kg) dr, c (-kb) dr]],
   [if limited then 4112 else 0, 32896, 32896]⟩

/-- The output matrix (R203). -/
def outputMatrix (m : View) (h : Nat) : Matrix :=
  let limited := bitOf (cctl m h) 12
  match getBits (cctl m h) 8 3 with
  | 1 => ycbcr 2990 1140 limited
  | 2 => ycbcr 2126 722 limited
  | 3 => ycbcr 2627 593 limited
  | 4 => tableMatrix m (0x406000 + 64 * h) true
  | _ =>
    let g := Presets.roundHalfAway (16384 * 219) 255
    if limited then ⟨[[g, 0, 0], [0, g, 0], [0, 0, g]], [4112, 4112, 4112]⟩ else identityMatrix

/-- Stages 4 to 6 before subsampling. -/
def headStages (m : View) (h : Nat) (x : Nat × Nat × Nat) : Nat × Nat × Nat :=
  let x := gamutStage m h x
  (outputMatrix m h).apply (regammaStage m h x.1, regammaStage m h x.2.1, regammaStage m h x.2.2)

/-! Dithering and codes. -/

/-- The threshold matrix D of R206. -/
def ditherMatrix : List Nat :=
  [0, 32, 8, 40, 2, 34, 10, 42] ++ [48, 16, 56, 24, 50, 18, 58, 26] ++ [12, 44, 4, 36, 14, 46, 6, 38] ++
  [60, 28, 52, 20, 62, 30, 54, 22] ++ [3, 35, 11, 43, 1, 33, 9, 41] ++ [51, 19, 59, 27, 49, 17, 57, 25] ++
  [15, 47, 7, 39, 13, 45, 5, 37] ++ [63, 31, 55, 23, 61, 29, 53, 21]

/-- The threshold at a raster position (R206, R207). -/
def threshold (m : View) (h frame x y : Nat) : Nat :=
  let d r c := ditherMatrix.getD (8 * r + c) 0
  let x := x % 8
  let y := y % 8
  if bitOf (cctl m h) 19 then
    match frame % 4 with
    | 0 => d y x
    | 1 => d x (7 - y)
    | 2 => d (7 - y) (7 - x)
    | _ => d (7 - x) y
  else d y x

/-- Depth of the codes (R188). -/
def outBits (m : View) (h : Nat) : Nat := 6 + 2 * getBits (cctl m h) 16 2

/-- Stage 7 (R205). -/
def codeOf (m : View) (h frame x y v : Nat) : Nat :=
  let s := v * (2 ^ outBits m h - 1)
  if bitOf (cctl m h) 18 then (128 * s + (2 * threshold m h frame x y + 1) * 65535) / 8388480
  else (2 * s + 65535) / 131070

/-- `OUT_SAMPLING` (R188). -/
def sampling (m : View) (h : Nat) : Nat := getBits (cctl m h) 13 2

/-- The codes of one output line, by component, from the values behind stage 6: `get x y` (R204, R205). With 4:2:0 the
chroma codes belong to the even line. -/
def lineCodes (m : View) (h frame : Nat) (get : Nat → Nat → Nat × Nat × Nat) (y : Nat) : List (List Nat) :=
  let w := activeW m h
  let xs := List.range w
  let c0 := xs.map fun x => codeOf m h frame x y (get x y).1
  let part (k : Nat) (t : Nat × Nat × Nat) := if k = 1 then t.2.1 else t.2.2
  if sampling m h = 0 then
    [c0, xs.map fun x => codeOf m h frame x y (part 1 (get x y)),
     xs.map fun x => codeOf m h frame x y (part 2 (get x y))]
  else
    let horiz (k x y : Nat) :=
      (part k (get (x - 1) y) + 2 * part k (get x y) + part k (get (min (x + 1) (w - 1)) y) + 2) / 4
    let evens := (List.range (w / 2)).map (2 * ·)
    if sampling m h = 1 then
      [c0, evens.map fun x => codeOf m h frame x y (horiz 1 x y), evens.map fun x => codeOf m h frame x y (horiz 2 x y)]
    else if y % 2 = 1 then [c0, [], []]
    else
      let both (k x : Nat) := (horiz k x y + horiz k x (y + 1) + 1) / 2
      [c0, evens.map fun x => codeOf m h frame x y (both 1 x), evens.map fun x => codeOf m h frame x y (both 2 x)]

end Sys2Proof.Machine
end

