-- ==== Sys2Proof/Machine/Timing.lean ====
section
/-! DEFINITION. Frequencies and raster times: a drive's target (R255), pixel rate (R232), line period and deadlines (R139,
R140), frame periods and predicted boundaries (R140, R235). -/

namespace Sys2Proof.Machine

/-- A drive's state. -/
def State.drive (s : State) (d : Nat) : Drive := (tabGet s.drives d).getD Drive.reset
/-- The state with a drive's state set. -/
def State.setDrive (s : State) (d : Nat) (x : Drive) : State := { s with drives := tabPut d x s.drives }

/-- Pixels advanced per enable (R231). -/
def ppcOf (m : View) (h : Nat) : Nat := 2 ^ hdf m h Hd.PPC
/-- HTOTAL and VTOTAL of the fields (R230). -/
def htotal (m : View) (h : Nat) : Nat :=
  hdf m h Hd.HACTIVE + hdf m h Hd.HFP + hdf m h Hd.HSYNC + hdf m h Hd.HBP
def vblank (m : View) (h : Nat) : Nat := hdf m h Hd.VFP + hdf m h Hd.VSYNC + hdf m h Hd.VBP
def vtotalOf (m : View) (h : Nat) : Nat := hdf m h Hd.VACTIVE + vblank m h

/-- N + F ÷ 2³² of a drive's settings, times 2³² (R255). -/
def Drive.divider (x : Drive) : Nat := 2 ^ 32 * x.n + x.frac

/-- Pixel rate in Hz as numerator and denominator (R232, R255). -/
def State.pixelRate (s : State) (m : View) (h : Nat) : Nat × Nat :=
  let d := s.drive (hdf m h Hd.CD_SEL)
  (25000000 * d.divider * ppcOf m h * hdf m h Hd.PIX_INC, 2 ^ 56 * d.d)
/-- Pixel rate in units of 2⁻²⁴ Hz, truncated: the unit in which Ephemeris adds loads. -/
def State.rate24 (s : State) (m : View) (h : Nat) : Nat :=
  let r := s.pixelRate m h
  2 ^ 24 * r.1 / r.2

/-- T_line in units of 2⁻¹⁶ ns, the exact period truncated (R139). -/
def State.lineTime (s : State) (m : View) (h : Nat) : Nat :=
  let r := s.pixelRate m h
  2 ^ 16 * (htotal m h * 1000000000 * r.2) / r.1
/-- Period of a frame of `v` lines in units of 2⁻¹⁶ ns, truncated. -/
def State.framePeriod (s : State) (m : View) (h v : Nat) : Nat :=
  let r := s.pixelRate m h
  2 ^ 16 * (v * htotal m h * 1000000000 * r.2) / r.1

/-! Edges of a stream clock, whose phase the spec leaves open: a free value. -/

/-- Period of a drive's stream clock in ns, rounded up (R255). -/
def Drive.clockNs (x : Drive) : Nat := ceilDiv (40 * 2 ^ 32 * x.d) x.divider
/-- The first rising edge of a drive's stream clock after a time, ns (log entry 127). -/
def State.edgeAfter (s : State) (n t : Nat) : Nat := t + 1 + (Config.freeValue s.fresh).toNat % max 1 (s.drive n).clockNs
/-- The period of the aligned points of a drive, 2⁻¹⁶ ns: `NUM` frames to a pulse (R265). -/
def State.alignStep (s : State) (n : Nat) : Nat := max 1 ((s.drive n).refPeriod / max 1 (s.fget (Reg.CD_REF n) Bit.CD_REF_NUM))
/-- The aligned points of a drive, ns (R267): `k` steps after the last one at or before the time `t`. -/
def State.alignedPoint (s : State) (n t : Nat) (k : Int) : Int :=
  let first : Int := ((s.drive n).pulseAt : Int) + signed 32 (s.rd (Reg.CD_PHASE_OFS n))
  let step : Int := (s.alignStep n : Nat)
  first + ((65536 * ((t : Int) - first)) / step + k) * step / 65536
/-- Head h is one of those that a drive with `PHASE_LOCKED` aligns (R267). -/
def State.phaseHeld (s : State) (m : View) (h : Nat) : Bool :=
  let n := hdf m h Hd.CD_SEL
  s.fbit (Reg.CD_STATUS n) Bit.CD_STATUS_PHASE_LOCKED && bitOf (s.rd (Reg.CD_ALIGN_W n (h / 32))) (h % 32)
/-- Where the first boundary of a stopped head falls after the end of a latch window (R235): at the next edge of its drive's stream
clock, or at the next aligned point of R270. -/
def State.startAfter (s : State) (m : View) (h t : Nat) : Nat :=
  let n := hdf m h Hd.CD_SEL
  if s.phaseHeld m h then
    s.edgeAfter n ((s.alignedPoint n t 1).toNat - 1)
  else s.edgeAfter n t

/-- consume(F, b), in units of 2⁻¹⁶ ns: `tb` the boundary in ns, `vb` the blanking lines of the frame (R139). -/
def consumeAt (tb vb lineT b : Nat) : Int := (65536 * tb + (vb + 16 * b) * lineT : Nat) - 1000 * 65536
/-- deadline(F, b) in ns; that of a tile map lies a band and the guard earlier (R139). -/
def deadlineAt (tb vb lineT b : Nat) (isMap : Bool) : Int :=
  (consumeAt tb vb lineT b - (if isMap then ((16 * lineT : Nat) : Int) else 0)) / 65536 - 2000
/-- release(F, b) in units of 2⁻¹⁶ ns (R139). -/
def releaseAt (tb vb lineT b : Nat) (isMap : Bool) : Int :=
  consumeAt tb vb lineT b - ((if isMap then 32 else 16) * lineT : Nat)

/-- The group of a head in a copy (R211). -/
def groupOf (m : View) (h : Nat) : Option Nat :=
  (List.range 32).find? fun g => bitOf (viewWord m (0x3B9800 + 16 * g + 4 * (h / 32))) (h % 32)

/-- The active state overlaid by the first `k` admitted commits still to take effect, in the order of their verdicts. -/
def State.viewAfter (s : State) (k : Nat) : View :=
  match (s.admitted.take k).getLast? with
  | some a => a.view
  | none => s.active
/-- The newest admitted state (R87). -/
def State.newest (s : State) : View := s.viewAfter s.admitted.length

/-- The copy that holds for frame f of head h: the active one, or that of the last admitted commit that has taken effect
for the head by then. -/
def State.viewAt (s : State) (h f : Nat) : View :=
  ((s.admitted.filter fun a => a.headFrames.any fun x => x.1 = h && decide (x.2 ≤ f)).getLast?.map (·.view)).getD s.active

/-- Boundary that opens the frame `n` frames after frame `f`, from the boundary `t` (2⁻¹⁶ ns) that opens f (R140). -/
def State.ahead (s : State) (h : Nat) : Nat → Nat → Nat → Nat
  | 0, _, t => t
  | n + 1, f, t =>
    let m := s.viewAt h f
    let v := if f = (s.head h).frame ∧ s.vtotal h ≠ 0 then s.vtotal h else vtotalOf m h
    s.ahead h n (f + 1) (t + s.framePeriod m h v)

/-- A frame of a head and its boundary in ns from which the later ones are predicted: the present frame of a running head,
or the first frame of a start that an admitted commit has placed (R225, R235). -/
def State.baseOf (s : State) (h : Nat) : Option (Nat × Nat) :=
  if s.headRunning h then some ((s.head h).frame, (s.head h).boundary)
  else
    (s.admitted.filterMap fun a =>
      match a.headFrames.find? (·.1 = h), groupOf a.view h with
      | some f, some g =>
        if hdf a.view h Hd.HEAD_EN = 1 then (a.frames.find? (·.1 = g)).map fun x => (f.2, x.2.2) else none
      | _, _ => none).head?

/-- The predicted Sidereal time, ns, of the boundary that opens frame F (R140). -/
def State.boundaryOf (s : State) (h f : Nat) : Nat :=
  match s.baseOf h with
  | none => 0
  | some (f0, t0) => if f ≤ f0 then t0 else s.ahead h (f - f0) f0 (65536 * t0) / 65536

/-- The first frame from f on whose boundary lies at or after `t`; `n` bounds the search. -/
def State.firstFrame (s : State) (h t : Nat) : Nat → Nat → Nat
  | 0, f => f
  | n + 1, f => if t ≤ s.boundaryOf h f then f else s.firstFrame h t n (f + 1)

end Sys2Proof.Machine
end

