-- ==== Sys2Proof/Machine/Admission.lean ====
section
/-! DEFINITION. What Ephemeris computes: the new state of a commit (R212), the checks of each step of R213, the service
model (R215 to R218), demand (R219 to R222), pipe requirements (R234, R250, R421), tag quotas (R142) and placement (R124,
R125). -/

namespace Sys2Proof.Machine

/-! The new state (R212). -/

/-- A copy with the words that `p` names taken from another copy. -/
def overlay (base src : View) (p : Nat → Bool) : View :=
  (src.filter fun e => p e.1).foldr (fun e m => tabPut e.1 e.2 m) (base.filter fun e => !p e.1)

/-- Member heads of the groups in a copy. -/
def groupHeads (m : View) (groups : List Nat) : List Nat :=
  (List.range 128).filter fun h => groups.any fun g => inGroup m g h

/-- The layer names a programmed input matrix, a programmed degamma table (R190). -/
def namesCsc (m : View) (sl : Nat) : Bool := !isSolid m sl && decide (lyr m sl Lyr.CSC_SEL = 4)
def namesDegamma (m : View) (sl : Nat) : Bool := !isSolid m sl && decide (lyr m sl Lyr.DEGAMMA_SEL = 5)

/-- A layer names the pool table or coefficient set that holds a word (R182, R190). -/
def namesObject (m : View) (sl : Nat) : ShadowObj → Bool
  | .csc t _ => namesCsc m sl && decide (lyr m sl Lyr.CSC_TABLE = t)
  | .degamma t _ => namesDegamma m sl && decide (lyr m sl Lyr.DEGAMMA_TABLE = t)
  | .clut t _ => usesPalette m sl && decide (lyr m sl Lyr.CLUT_TABLE = t)
  | .hcoef r _ => isScaled m sl && decide (lyr m sl Lyr.HCOEF_SET = r / 64)
  | .vcoef r _ => isScaled m sl && decide (lyr m sl Lyr.VCOEF_SET = r / 64)
  | _ => false

/-- Whether a word is one of a pool table or coefficient set. -/
def isPool : ShadowObj → Bool
  | .csc .. | .degamma .. | .clut .. | .hcoef .. | .vcoef .. => true
  | _ => false

/-- The words that a commit of the groups carries from `snap`, against the newest admitted state (R212). -/
def carries (snap newest : View) (groups : List Nat) (off : Nat) : Bool :=
  let heads := groupHeads snap groups
  match shadowObj off with
  | some (.layer sl _) => decide (lyr snap sl Lyr.HEAD ∈ heads) || decide (lyr newest sl Lyr.HEAD ∈ heads)
  | some (.head h _) | some (.sig h _ _) | some (.gamut h _) | some (.outm h _) | some (.cctl h)
  | some (.regamma h _) => decide (h ∈ heads)
  | some (.members g _) => decide (g ∈ groups)
  | some o => ((layersIn snap).filter fun sl => decide (lyr snap sl Lyr.HEAD ∈ heads)).any fun sl => namesObject snap sl o
  | none => false

/-- The whole copy once the commit has taken effect. -/
def newView (snap newest : View) (groups : List Nat) : View := overlay newest snap (carries snap newest groups)

/-! What a layer may show. -/

/-- Plane 0, plane 1 and tile-map addresses in the fields of an unbound layer (R163). -/
def fieldSource (m : View) (sl : Nat) : Nat × Nat × Nat :=
  (lyr m sl Lyr.P0_ADDR_LO + 2 ^ 32 * lyr m sl Lyr.P0_ADDR_HI, lyr m sl Lyr.P1_ADDR_LO + 2 ^ 32 * lyr m sl Lyr.P1_ADDR_HI,
   lyr m sl Lyr.EMAP_ADDR_LO + 2 ^ 32 * lyr m sl Lyr.EMAP_ADDR_HI)

/-- Bytes of frame-store space read by the device with the rights of function `f`: none when the Plate Map refuses. Host
memory and a poisoned word answer with free values. -/
def State.readBytes (s : State) (f addr n : Nat) : Option (List Byte) :=
  match s.translate f addr .read with
  | .localMem phys =>
    if s.poisoned phys then some ((List.range n).map fun k => Config.poisonByte s.fresh (phys + k))
    else some (s.loadBytes phys n)
  | .hostWin _ a => some ((List.range n).map fun k => Config.hostByte s.fresh (a + k))
  | .refused _ => none

/-- Address of a slot's descriptor (R294). -/
def State.slotDesc (s : State) (st k : Nat) : Nat :=
  s.rd (Reg.ING_SLOT_BASE_LO st) / 64 * 64 + 2 ^ 32 * (s.rd (Reg.ING_SLOT_BASE_HI st) % 32) + 64 * k
/-- Slots of a stream's ring. -/
def State.slotCount (s : State) (st : Nat) : Nat := s.fget (Reg.ING_CFG st) Bit.ING_CFG_SLOTS + 1
/-- The three addresses in a slot's descriptor (R294). -/
def State.slotSource (s : State) (st k : Nat) : Option (Nat × Nat × Nat) :=
  (s.readBytes (s.streamFn st) (s.slotDesc st k) 24).map fun b =>
    (ofBytes (b.take 8), ofBytes ((b.drop 8).take 8), ofBytes (b.drop 16))
/-- A slot of a stream. -/
def State.slot (s : State) (st k : Nat) : Slot := (tabGet s.slots (256 * st + k)).getD ⟨0, 0, 0, 0⟩

/-- The buffers that a layer may show (R168, R420). -/
def State.sourcesOf (s : State) (m : View) (sl : Nat) : List (Option (Nat × Nat × Nat)) :=
  if isBound m sl then
    (List.range (s.slotCount (lyr m sl Lyr.INGEST_STREAM))).map (s.slotSource (lyr m sl Lyr.INGEST_STREAM))
  else [some (fieldSource m sl)]

/-- Address of a kind in a source: plane 0, plane 1, map; the palette comes from its table (R192). -/
def kindAddr (m : View) (sl kind : Nat) (src : Nat × Nat × Nat) : Nat :=
  match kind with
  | 0 => src.1
  | 1 => src.2.1
  | 2 => src.2.2
  | _ =>
    let t := lyr m sl Lyr.CLUT_TABLE
    viewWord m (0x408800 + 8 * t) + 2 ^ 32 * viewWord m (0x408804 + 8 * t)

/-- The extents of a layer: address and length of each kind it uses, over all its sources (R97). -/
def extents (m : View) (sl : Nat) (srcs : List (Option (Nat × Nat × Nat))) : List (Nat × Nat × Nat) :=
  if isSolid m sl then []
  else
    srcs.flatMap fun o =>
      match o with
      | some src => (kinds.filter fun k => decide (extentOf m sl k ≠ 0)).map fun k => (k, kindAddr m sl k src, extentOf m sl k)
      | none => []

/-- First and last page of an extent. -/
def firstPage (e : Nat × Nat × Nat) : Nat := e.2.1 / 2 ^ 20
def lastPage (e : Nat × Nat × Nat) : Nat := (e.2.1 + e.2.2 - 1) / 2 ^ 20

/-- Bytes of a kind lie in local pages, in host-window pages, for some source (R420). -/
def kindLocal (m : View) (sl kind : Nat) (srcs : List (Option (Nat × Nat × Nat))) : Bool :=
  (extents m sl srcs).any fun e => e.1 = kind && decide (firstPage e < 65536)
def kindHost (m : View) (sl kind : Nat) (srcs : List (Option (Nat × Nat × Nat))) : Bool :=
  (extents m sl srcs).any fun e => e.1 = kind && decide (65536 ≤ lastPage e)
/-- A host-window layer (R420). -/
def isHostLayer (m : View) (sl : Nat) (srcs : List (Option (Nat × Nat × Nat))) : Bool :=
  kinds.any fun k => kindHost m sl k srcs

/-! The Occulter at t_s (R151, R154). -/

/-- The newest complete slot of a stream (R164). -/
def State.newestSlot (s : State) (st : Nat) : Option Nat :=
  if s.fbit (Reg.ING_STATUS st) Bit.ING_STATUS_HAS_NEWEST then some (s.fget (Reg.ING_STATUS st) Bit.ING_STATUS_NEWEST)
  else none

/-- The slot that a bound layer would show (R164). -/
def State.candidateSlot (s : State) (m : View) (sl : Nat) : Option Nat :=
  let st := lyr m sl Lyr.INGEST_STREAM
  if lyr m sl Lyr.INGEST_MODE = 0 then s.newestSlot st
  else if (s.slot st (lyr m sl Lyr.BUF_INDEX)).state = 2 then some (lyr m sl Lyr.BUF_INDEX) else none

/-- Opaque wherever it covers a tile (R151). -/
def State.opaqueLayer (s : State) (m : View) (sl : Nat) (srcs : List (Option (Nat × Nat × Nat))) : Bool :=
  let mode := lyr m sl Lyr.BLEND_MODE
  let alpha := decide (lyr m sl Lyr.PLANE_ALPHA = 65535) &&
    (if isSolid m sl then decide (lyr m sl Lyr.SOLID_BA % 65536 = 65535)
     else decide (lyr m sl Lyr.ALPHA_IGNORE = 1) || noAlpha (lyr m sl Lyr.FORMAT))
  (decide (mode = 0) || ((decide (mode = 1) || decide (mode = 2)) && alpha)) && !isClt m sl && !isHostLayer m sl srcs &&
    (!isBound m sl || (decide (lyr m sl Lyr.READY_POLICY ≠ 1) && (s.newestSlot (lyr m sl Lyr.INGEST_STREAM)).isSome))

/-- The buffer whose tile map R154 reads. -/
def State.mapSource (s : State) (m : View) (sl : Nat) : Option (Nat × Nat × Nat) :=
  if isBound m sl then (s.candidateSlot m sl).bind (s.slotSource (lyr m sl Lyr.INGEST_STREAM)) else some (fieldSource m sl)

/-- The admitted occupancy of a CLT layer: the tiles whose `EMPTY` bit is 0; none when the read is refused (R154). With no
buffer to read, no tile is occupied. -/
def State.occupancy (s : State) (m : View) (sl : Nat) : Option (List Nat) :=
  match s.mapSource m sl with
  | none => some []
  | some src =>
    let tiles := (List.range (tilesY m sl)).flatMap fun ty => (List.range (tilesX m sl)).map fun tx => (tx, ty)
    tiles.foldr (fun t acc => acc.bind fun l =>
      (s.readBytes (s.slotFn sl) (src.2.2 + mapOffset m sl t.1 t.2) 2).map fun b =>
        if bitOf (ofBytes b) 15 then l else (t.2 * tilesX m sl + t.1) :: l) (some [])

/-- The poisoned word that a read within one 64-byte word meets (R101). -/
def State.poisonAt (s : State) (f addr : Nat) : List Nat :=
  match s.translate f addr .read with
  | .localMem phys => if s.poisoned phys then [wordOf phys] else []
  | _ => []

/-- The poisoned words that Ephemeris reads of the layers `ls`: slot descriptors and tile maps (R154, R168). -/
def State.poisonRead (s : State) (m : View) (ls : List Nat) : List Nat :=
  uniq (ls.flatMap fun sl =>
    let st := lyr m sl Lyr.INGEST_STREAM
    (if isBound m sl then
      (List.range (s.slotCount st)).flatMap fun k => s.poisonAt (s.streamFn st) (s.slotDesc st k) else []) ++
    (if isClt m sl then
      match s.mapSource m sl with
      | some src => (List.range (tilesY m sl)).flatMap fun ty => (List.range (tilesX m sl)).flatMap fun tx =>
          s.poisonAt (s.slotFn sl) (src.2.2 + mapOffset m sl tx ty)
      | none => []
    else []))

/-- Occlusion of the layers `ls`, as R151 and R154 find it now. -/
def State.occlude (s : State) (m : View) (ls : List Nat) : Occlusion :=
  ⟨ls.filter fun sl => s.opaqueLayer m sl (s.sourcesOf m sl),
   (ls.filter (isClt m)).map fun sl => (sl, (s.occupancy m sl).getD [])⟩

/-! Step 1 (`BADPROG`). -/

/-- What the checks of a commit look at. -/
structure Case where
  new : View
  newest : View
  groups : List Nat
  sources : List (Nat × List (Option (Nat × Nat × Nat)))
  occ : Occlusion
deriving DecidableEq, Repr

/-- Member heads of the named groups; those enabled; the enabled layers on them. -/
def Case.heads (c : Case) : List Nat := groupHeads c.new c.groups
def Case.enabled (c : Case) : List Nat := c.heads.filter fun h => hdf c.new h Hd.HEAD_EN = 1
def Case.layers (c : Case) : List Nat := (layersIn c.new).filter fun sl => decide (lyr c.new sl Lyr.HEAD ∈ c.heads)
/-- The enabled layers that the commit carries: on a member head in the new state or in the newest admitted one (R212). -/
def Case.carried (c : Case) : List Nat :=
  (layersIn c.new).filter fun sl => decide (lyr c.new sl Lyr.HEAD ∈ c.heads) || decide (lyr c.newest sl Lyr.HEAD ∈ c.heads)
def Case.srcs (c : Case) (sl : Nat) : List (Option (Nat × Nat × Nat)) := (tabGet c.sources sl).getD []

/-- A value lies in a range. -/
def within (v lo hi : Nat) : Bool := decide (lo ≤ v) && decide (v ≤ hi)

/-- A destination out of range (R32). -/
def badDest (m : View) (sl : Nat) : Bool :=
  let far (v : Int) := decide (v < -16384) || decide (16383 < v)
  far (dstX m sl) || far (dstY m sl) || !(within (lyr m sl Lyr.DST_W) 1 16384) || !(within (lyr m sl Lyr.DST_H) 1 16384)

/-- A field that decides which others a layer uses is out of range: the layer is refused in step 2, before any use is judged
(R419). -/
def decidesBad (m : View) (sl : Nat) : Bool :=
  let g i := lyr m sl i
  badDest m sl || (!isSolid m sl &&
    (!(within (g Lyr.CROP_W) 1 16384) || !(within (g Lyr.CROP_H) 1 16384) || decide (12 < g Lyr.FORMAT) ||
      decide (2 < g Lyr.ROTATE) || (decide (4095 < g Lyr.INGEST_STREAM) && decide (g Lyr.INGEST_STREAM ≠ 8191)) ||
      (isBound m sl && decide (2 < g Lyr.READY_POLICY)) || decide (4 < g Lyr.CSC_SEL) || decide (5 < g Lyr.DEGAMMA_SEL)))

/-- A layer moves between groups that the commit does not both name (R29). -/
def Case.movesAcross (c : Case) (snap : View) : Bool :=
  (uniq (layersIn c.newest ++ layersIn snap)).any fun sl =>
    match groupOf c.newest (lyr c.newest sl Lyr.HEAD), groupOf c.new (lyr snap sl Lyr.HEAD) with
    | some a, some b => a ≠ b && (decide (a ∈ c.groups) || decide (b ∈ c.groups)) &&
        !(decide (a ∈ c.groups) && decide (b ∈ c.groups))
    | _, _ => false

/-- Two enabled layers of one head share a `ZORDER` (R34). -/
def Case.sameZ (c : Case) : Bool :=
  c.heads.any fun h =>
    let zs := (headLayers c.new h).map fun sl => lyr c.new sl Lyr.ZORDER
    decide ((uniq zs).length ≠ zs.length)

/-- A group's conditions of R212. -/
def Case.badGroup (c : Case) (s : State) (g : Nat) : Bool :=
  let mem := membersOf c.new g
  let en := mem.filter fun h => hdf c.new h Hd.HEAD_EN = 1
  decide (mem = []) || mem.any (fun h => decide (s.headFn h ≠ s.groupFn g)) ||
  mem.any (fun h => decide (1 < ((List.range 32).filter fun k => inGroup c.new k h).length)) ||
  (match en with
   | [] => false
   | h :: rest => rest.any fun k => (span 1 15).any fun i => decide (hdf c.new h i ≠ hdf c.new k i))

/-- The layers that a copy holds enabled for groups that `own` accepts. -/
def layersOfGroups (v : View) (own : Option Nat → Bool) : List Nat :=
  (layersIn v).filter fun sl => own (groupOf v (lyr v sl Lyr.HEAD))

/-- The enabled layers outside the commit with the copy in which they stand: those of the active state, and of each pending
state those of the groups for which it is pending (R182, R190). -/
def Case.outside (c : Case) (s : State) : List (View × List Nat) :=
  let far (v : View) (l : List Nat) := l.filter fun sl => decide (lyr v sl Lyr.HEAD ∉ c.heads)
  (s.active, far s.active (layersOfGroups s.active fun g => match g with | some k => decide (k ∉ c.groups) | none => true)) ::
    s.admitted.map fun a =>
      (a.view, far a.view (layersOfGroups a.view fun g => match g with
        | some k => decide (k ∉ c.groups) && a.frames.any (·.1 = k)
        | none => false))

/-- A carried pool table or coefficient set changes while a layer outside the commit names it (R182, R190). A layer whose deciding
fields are out of range names nothing: step 2 refuses it before any use is judged (R419). -/
def Case.sharedTable (c : Case) (s : State) (snap : View) : Bool :=
  let outside := c.outside s
  (snap.map (·.1) ++ s.active.map (·.1)).any fun off =>
    match shadowObj off with
    | some o =>
      isPool o && decide (viewWord snap off ≠ viewWord s.active off) &&
        (c.layers.any fun sl => !decidesBad c.new sl && namesObject c.new sl o) &&
        (outside.any fun v => v.2.any fun sl => namesObject v.1 sl o)
    | none => false

/-- The states of a group that is not named, each with its occlusion: active and pending (R223). -/
def State.statesOf (s : State) (g : Nat) : List (View × Occlusion) :=
  (s.active, ((tabGet s.activePlans g).map (·.occlusion)).getD ⟨[], []⟩) ::
    s.admitted.filterMap fun a =>
      if a.frames.any (·.1 = g) then (tabGet a.plans g).map fun p => (a.view, p.occlusion) else none

/-- Scaler contexts that enabled scaled layers of the heads hold on a pipe in one state (R183). -/
def contextsOn (m : View) (o : Occlusion) (heads : List Nat) (p : Nat) : List Nat :=
  ((layersIn m).filter fun sl =>
    let h := lyr m sl Lyr.HEAD
    decide (h ∈ heads) && isScaled m sl && !decidesBad m sl && decide (hdf m h Hd.HEAD_EN = 1) &&
      decide (p ∈ pipesOf m h) && hasSegment m o h p sl).map fun sl => lyr m sl Lyr.SCALER_CTX

/-- Two scaled layers with a segment on one pipe share a context (R183): two of the new state, or one of it and one of an active
or pending state of another group (log entry 125). -/
def Case.sameContext (c : Case) (s : State) : Bool :=
  let others := (List.range 32).filter fun g => decide (g ∉ c.groups)
  (uniq (c.enabled.flatMap (pipesOf c.new))).any fun p =>
    let cs := contextsOn c.new c.occ c.heads p
    decide ((uniq cs).length ≠ cs.length) ||
      others.any fun g => (s.statesOf g).any fun v => (contextsOn v.1 v.2 (membersOf v.1 g) p).any cs.contains

/-- A layer's conditions of step 1: head, stream, pages and tables belong to, or are open to, the function that owns the
layer's slot (R34, R97, R168, R189); a slot descriptor whose own read is refused refuses the commit (log entry 126). -/
def Case.badLayer (c : Case) (s : State) (sl : Nat) : Bool :=
  let m := c.new
  let f := s.slotFn sl
  let tab (t : Nat) (fld : Fld) := s.fget (Reg.CLR_TABLE_FN t) fld
  decide (s.headFn (lyr m sl Lyr.HEAD) ≠ f) || (!decidesBad m sl &&
    ((isBound m sl && decide (s.streamFn (lyr m sl Lyr.INGEST_STREAM) ≠ f)) ||
    (c.srcs sl).any Option.isNone ||
    (extents m sl (c.srcs sl)).any (fun e =>
      (span (firstPage e) (min (lastPage e + 1) 131072)).any fun p => !s.permitted f p .read) ||
    (namesCsc m sl && decide (tab (lyr m sl Lyr.CSC_TABLE) Bit.CLR_TABLE_FN_CSC_FN ≠ f)) ||
    (namesDegamma m sl && decide (tab (lyr m sl Lyr.DEGAMMA_TABLE) Bit.CLR_TABLE_FN_DEGAMMA_FN ≠ f)) ||
    (usesPalette m sl && decide (tab (lyr m sl Lyr.CLUT_TABLE) Bit.CLR_TABLE_FN_CLUT_FN ≠ f))))

/-- Step 1 of R213. -/
def Case.badProg (c : Case) (s : State) (snap : View) : Bool :=
  c.movesAcross snap || c.sameZ || c.groups.any (c.badGroup s) || c.heads.any (fun h => decide (512 < (headLayers c.new h).length)) ||
  c.carried.any (c.badLayer s) || c.sharedTable s snap || c.sameContext s

/-! Step 2 (`BADFMT`). -/

/-- The ranges and layouts of a layer that has a source (R32, R34, R97, R106 to R109, R156, R174, R176, R192, R194,
R197). -/
def Case.badSource (c : Case) (sl : Nat) : Bool :=
  let m := c.new
  let g i := lyr m sl i
  let f := g Lyr.FORMAT
  let tiled := g Lyr.TILING = 1
  let odd i := decide (g i % 2 = 1)
  let addrBad (a : Nat) := decide (a % 64 ≠ 0)
  let srcs := (c.srcs sl).filterMap id
  !(within (g Lyr.CROP_W) 1 16384) || !(within (g Lyr.CROP_H) 1 16384) || decide (12 < f) || decide (2 < g Lyr.ROTATE) ||
  !(within (g Lyr.SURF_W) 1 16384) || !(within (g Lyr.SURF_H) 1 16384) ||
  (decide (4095 < g Lyr.INGEST_STREAM) && decide (g Lyr.INGEST_STREAM ≠ 8191)) ||
  (isBound m sl && (decide (2 < g Lyr.READY_POLICY) || (decide (g Lyr.READY_POLICY = 2) && decide (g Lyr.READY_WAIT = 0)))) ||
  decide (4096 < g Lyr.AP_BURST) || decide (4 < g Lyr.CSC_SEL) || decide (5 < g Lyr.DEGAMMA_SEL) ||
  (decide (8 ≤ f) && decide (f ≤ 10) && decide (2 < g Lyr.CHROMA_SITING)) ||
  -- layout
  (decide (g Lyr.ROTATE ≠ 0) && !tiled) ||
  decide (g Lyr.SURF_W < g Lyr.CROP_X + g Lyr.CROP_W) || decide (g Lyr.SURF_H < g Lyr.CROP_Y + g Lyr.CROP_H) ||
  !(within (g Lyr.P0_PITCH) 64 262080) || decide (g Lyr.P0_PITCH % 64 ≠ 0) ||
  (decide (planeCount m sl = 2) && (!(within (g Lyr.P1_PITCH) 64 262080) || decide (g Lyr.P1_PITCH % 64 ≠ 0))) ||
  srcs.any (fun x => addrBad x.1 || (decide (planeCount m sl = 2) && addrBad x.2.1) || (isClt m sl && addrBad x.2.2)) ||
  (if f = 12 then
     !tiled || decide (7 < g Lyr.CLT_INNER) ||
       decide (g Lyr.P0_PITCH < tilesX m sl * 32 * cltWord (g Lyr.CLT_INNER))
   else
     (List.range (planeCount m sl)).any fun k =>
       let per := if k = 1 ∧ chromaHalfH f then g Lyr.SURF_W / 2 else g Lyr.SURF_W
       decide (pitchOf m sl k < per * elemSize f k) ||
       (tiled && (decide (pitchOf m sl k % 128 ≠ 0) || srcs.any fun x => decide (kindAddr m sl k x % 4096 ≠ 0)))) ||
  ((decide (f = 8) || decide (f = 9)) && (odd Lyr.SURF_W || odd Lyr.SURF_H || odd Lyr.CROP_X || odd Lyr.CROP_Y ||
    odd Lyr.CROP_W || odd Lyr.CROP_H)) ||
  (decide (f = 10) && (odd Lyr.SURF_W || odd Lyr.CROP_X || odd Lyr.CROP_W)) ||
  (extents m sl (c.srcs sl)).any (fun e => decide (131071 < lastPage e) || (decide (firstPage e < 65536) && decide (65536 ≤ lastPage e))) ||
  (usesPalette m sl && addrBad (kindAddr m sl 3 (0, 0, 0))) ||
  -- scaling and colour
  (isScaled m sl && (decide (1 < g Lyr.EDGE_MODE) || decide (8 * g Lyr.DST_W < orientW m sl) ||
    decide (16 * orientW m sl < g Lyr.DST_W) || decide (8 * g Lyr.DST_H < orientH m sl) ||
    decide (16 * orientH m sl < g Lyr.DST_H))) ||
  (decide (pixelFormat m sl = 3) && decide (g Lyr.IN_RANGE = 1)) ||
  (within (g Lyr.CSC_SEL) 1 3 && (decide (f ≤ 5) || decide (f = 12))) || (decide (g Lyr.CSC_SEL = 0) && within f 6 11)

/-- A layer's conditions of step 2 that hold of solid layers as well (R32, R200). -/
def Case.badLayerFmt (c : Case) (sl : Nat) : Bool :=
  let m := c.new
  badDest m sl || decide (3 < lyr m sl Lyr.BLEND_MODE) || (!isSolid m sl && c.badSource sl)

/-- Lanes of a port by its quad's mode; 0 for an absent port (R237). -/
def portLanes (mode k : Nat) : Nat :=
  match mode, k with
  | 0, 0 => 4
  | 1, 0 | 1, 2 => 2
  | 2, _ => 1
  | 3, 0 => 2
  | 3, 2 | 3, 3 => 1
  | _, _ => 0
def State.headLanes (s : State) (h : Nat) : Nat :=
  portLanes (s.fget (Reg.PRT_QUAD_MODE (h / 4)) Bit.PRT_QUAD_MODE_MODE) (h % 4)

/-- Payload per lane of a rate code as kb/s, numerator and denominator (R240). -/
def lanePayload (rate : Nat) : Nat × Nat :=
  match rate with
  | 0 => (1296000, 1)
  | 1 => (2160000, 1)
  | 2 => (4320000, 1)
  | 3 => (6480000, 1)
  | 4 => (10000000 * 128, 132)
  | 5 => (13500000 * 128, 132)
  | _ => (20000000 * 128, 132)

/-- Bits per pixel on the link in units of 1/16 (R240). -/
def linkBpp (m : View) (h : Nat) : Nat :=
  if hdf m h Hd.DSC_EN = 1 then hdf m h Hd.DSC_BPP
  else outBits m h * (match sampling m h with | 1 => 32 | 2 => 24 | _ => 48)

/-- The stream of a head fits `lanes` lanes at a rate (R240). -/
def State.streamFits (s : State) (m : View) (h lanes rate : Nat) : Bool :=
  let r := s.pixelRate m h
  let p := lanePayload rate
  decide (r.1 * linkBpp m h * 100 * p.2 ≤ 97 * lanes * p.1 * 1000 * 16 * r.2)

/-- Slices per line (R231). -/
def dscSlices (m : View) (h : Nat) : Nat := ([1, 2, 4, 8, 12, 16].getD (hdf m h Hd.DSC_SLICES) 0)

/-- A head's DSC parameters break R249. -/
def badDsc (m : View) (h : Nat) : Bool :=
  let bpc := outBits m h
  let bpp := hdf m h Hd.DSC_BPP
  let n := dscSlices m h
  let sh := hdf m h Hd.DSC_SLICE_H
  decide (bpc = 6) || decide (n = 0) ||
  !(match sampling m h with | 1 => within bpp 112 (32 * bpc) | 2 => within bpp 96 (24 * bpc) | _ => within bpp 128 (48 * bpc)) ||
  decide (hdf m h Hd.HACTIVE % n ≠ 0) || (decide (hdf m h Hd.PAIR_EN = 1) && decide (n % 2 = 1)) ||
  !(within sh 8 16384) || decide (hdf m h Hd.VACTIVE % sh ≠ 0) || (decide (sampling m h = 2) && decide (sh % 2 = 1))

/-- W_loc and W_host of a head, ns (R219). -/
def State.windowLocal (s : State) (m : View) (h : Nat) : Int := (16 * s.lineTime m h / 65536 : Nat) - 2001
def State.windowHost (s : State) (m : View) (h : Nat) : Int :=
  (16 * s.lineTime m h / 65536 : Nat) - (max 2000 (1000 * s.fget Reg.FET_CTL Bit.FET_CTL_HOST_LAT) : Nat) - 1

/-- Fetching layers of a head: enabled with a needed word (R219). -/
def fetching (m : View) (o : Occlusion) (h : Nat) : List Nat :=
  (headLayers m h).filter fun sl => (pipesOf m h).any fun p => hasSegment m o h p sl

/-- The conditions of R219 that a head breaks. -/
def Case.badBlank (c : Case) (s : State) (h : Nat) : Bool :=
  let m := c.new
  let ls := fetching m c.occ h
  let vb : Int := (hdf m h Hd.VTOTAL_MIN : Int) - hdf m h Hd.VACTIVE
  let t := s.lineTime m h
  (decide (ls ≠ []) && (decide (s.windowLocal m h < 8000) || decide ((vb - 16) * t < 1000 * 65536))) ||
  (ls.any (fun sl => isHostLayer m sl (c.srcs sl)) && decide (s.windowHost m h < 8000)) ||
  (ls.any (isClt m) && decide ((vb - 32) * t < 1000 * 65536))

/-- The conditions of R188, R233, R248, R249 and R251 that an enabled head breaks. -/
def Case.badHead (c : Case) (s : State) (h : Nat) : Bool :=
  let m := c.new
  let g i := hdf m h i
  let ppc := ppcOf m h
  let w := cctl m h
  let outSel := getBits w 8 3
  let f := s.pixelRate m h
  let ft := 25000000 * (s.drive (g Hd.CD_SEL)).divider
  let fd := 2 ^ 32 * ((s.drive (g Hd.CD_SEL)).d)
  -- ranges
  !(within (g Hd.PIX_INC) 1 16777216) || !(within (g Hd.HACTIVE) 64 16384) || !(within (g Hd.VACTIVE) 64 16384) ||
  decide (35 < g Hd.PIPE) || (decide (g Hd.PAIR_EN = 1) && decide (35 < g Hd.PIPE2)) ||
  -- R233
  [Hd.HACTIVE, Hd.HFP, Hd.HSYNC, Hd.HBP].any (fun i => decide (g i % ppc ≠ 0)) || decide (g Hd.HSYNC < 8) ||
  decide (g Hd.HFP + g Hd.HSYNC + g Hd.HBP < 64) || decide (16384 < htotal m h) ||
  decide (g Hd.VFP = 0) || !(within (g Hd.VSYNC) 1 63) || decide (g Hd.VBP = 0) ||
  decide (vtotalOf m h < g Hd.VTOTAL_MIN) || decide (g Hd.VTOTAL_MAX < vtotalOf m h) || decide (16384 < g Hd.VTOTAL_MAX) ||
  decide (g Hd.VTOTAL_MIN < g Hd.VACTIVE + 3) ||
  decide (7 < g Hd.CD_SEL) || decide (ft < 250000000 * fd) || decide (1000000000 * fd < ft) ||
  decide (s.headLanes h = 0) ||
  !(s.streamFits m h (s.headLanes h) (s.fget (Reg.PRT_LINK_CTL h) Bit.PRT_LINK_CTL_MAX_RATE)) ||
  (decide (g Hd.PAIR_EN = 1) && decide (g Hd.HACTIVE % 64 ≠ 0)) ||
  decide (f.2 = 0) || c.badBlank s h ||
  -- R188
  decide (5 < getBits w 4 3) || decide (4 < outSel) || decide (sampling m h = 3) ||
  (decide (sampling m h ≠ 0) && (decide (outSel = 0) || decide (g Hd.HACTIVE % 2 = 1))) ||
  (decide (sampling m h = 2) && decide (g Hd.VACTIVE % 2 = 1)) ||
  -- R248, R249
  (decide (g Hd.VSC_EN = 0) && (decide (sampling m h = 2) || decide (g Hd.VSC_COLORIMETRY ≠ 0))) ||
  (decide (g Hd.DSC_EN = 1) && badDsc m h) ||
  -- R251
  (decide (g Hd.WB_EN = 1) && (decide (outBits m h = 12) || (decide (outBits m h = 10) && decide (sampling m h = 1)) ||
    decide (g Hd.WB_DIV = 0) || decide (s.chanFn (g Hd.WB_CHAN) ≠ s.headFn h)))

/-- Step 2 of R213. -/
def Case.badFmt (c : Case) (s : State) : Bool := c.enabled.any (c.badHead s) || c.carried.any c.badLayerFmt

/-! The plan of one group's state: what Ephemeris holds of it (R223). -/

/-- Enabled heads of a group in a copy. -/
def enabledHeads (m : View) (g : Nat) : List Nat := (membersOf m g).filter fun h => hdf m h Hd.HEAD_EN = 1

/-- Words of a layer on a pipe in window w, of the given kind of memory (R220): plane and palette words of band w, map
words of band w + 1; windows are counted from 0 for w = −1. -/
def windowWords (m : View) (o : Occlusion) (h p sl : Nat) (srcs : List (Option (Nat × Nat × Nat))) (host : Bool) (w : Nat) : Nat :=
  let is (k : Nat) := if host then kindHost m sl k srcs else kindLocal m sl k srcs
  let count (k b : Nat) := if is k && decide (b < bandCount m h) then (segment m o h p sl k b).length else 0
  (if w = 0 then 0 else count 0 (w - 1) + count 1 (w - 1) + count 3 (w - 1)) + count 2 w

/-- Largest of a list of numbers. -/
def maxOf (l : List Nat) : Nat := l.foldl max 0
/-- Sum of a list of numbers. -/
def sumOf (l : List Nat) : Nat := l.foldl (· + ·) 0

/-- peak(s, kind) of R220 for one group. -/
def State.peak (s : State) (c : Case) (g : Nat) (host : Bool) : Nat :=
  let m := c.new
  let hs := enabledHeads m g
  match hs with
  | [] => 0
  | h0 :: _ =>
    let win := (if host then s.windowHost m h0 else s.windowLocal m h0).toNat
    maxOf ((List.range (bandCount m h0 + 1)).map fun w =>
      let bytes := 64 * sumOf (hs.flatMap fun h => (pipesOf m h).flatMap fun p => (headLayers m h).map fun sl =>
        windowWords m c.occ h p sl (c.srcs sl) host w)
      if bytes = 0 then 0 else ceilDiv (bytes * 1000) win)

/-- Bytes of one kind of memory that a pipe fetches of a head in a band, all parts of the plan (R124, R142). -/
def bandBytes (m : View) (o : Occlusion) (h p b : Nat) (pick : Nat → Nat → Bool) : Nat :=
  64 * sumOf ((headLayers m h).flatMap fun sl => kinds.map fun k =>
    if pick sl k then (segment m o h p sl k b).length else 0)

/-- Tag quota of a pipe for one state of a group (R142). -/
def State.quota (s : State) (c : Case) (g p : Nat) : Nat :=
  let m := c.new
  let hs := (enabledHeads m g).filter fun h => decide (p ∈ pipesOf m h)
  let rate (host : Bool) (scale : Nat) :=
    -- Σ bytes × scale ÷ (64 × 16 × T_line), each term over a common denominator, rounded up once
    let terms := hs.map fun h =>
      let pick sl k := if host then kindHost m sl k (c.srcs sl) else kindLocal m sl k (c.srcs sl)
      (65536 * (maxOf ((List.range (bandCount m h)).map fun b => bandBytes m c.occ h p b pick) * scale), 64 * 16 * s.lineTime m h)
    let sum := terms.foldl (fun (a : Nat × Nat) t => (a.1 * t.2 + t.1 * a.2, a.2 * t.2)) (0, 1)
    if sum.1 = 0 then 0 else ceilDiv sum.1 sum.2
  rate false 4000 + rate true (1000 * s.fget Reg.FET_CTL Bit.FET_CTL_HOST_LAT)

/-- What one pipe must give to a state of a group (R234, R250, R421). -/
def State.pipeReq (s : State) (c : Case) (g p : Nat) : PipeReq :=
  let m := c.new
  let hs := (enabledHeads m g).filter fun h => decide (p ∈ pipesOf m h)
  let paired h := decide (hdf m h Hd.PAIR_EN = 1)
  let share h := if paired h then s.rate24 m h / 2 else s.rate24 m h
  let ls := hs.flatMap (headLayers m)
  { pipe := p
    load := sumOf (hs.map share)
    heads := hs.map fun h => (h, s.rate24 m h, paired h)
    matrices := (uniq ((ls.filter (namesCsc m)).map fun sl => lyr m sl Lyr.CSC_TABLE)).length
    degammas := (uniq ((ls.filter (namesDegamma m)).map fun sl => lyr m sl Lyr.DEGAMMA_TABLE)).length
    slices := sumOf (hs.map fun h =>
      if hdf m h Hd.DSC_EN = 1 then (if paired h then dscSlices m h / 2 else dscSlices m h) else 0)
    tags := s.quota c g p }

/-- Aperture rate of a layer on a pipe, 2⁻¹⁶ bytes/µs (R221). -/
def State.layerRate (s : State) (c : Case) (h p sl : Nat) : Nat :=
  let m := c.new
  let term (bytes : Nat) (win : Int) := if bytes = 0 then 0 else ceilDiv (bytes * 65536000) win.toNat
  maxOf ((List.range (bandCount m h + 1)).map fun w =>
    term (64 * windowWords m c.occ h p sl (c.srcs sl) false w) (s.windowLocal m h) +
    term (64 * windowWords m c.occ h p sl (c.srcs sl) true w) (s.windowHost m h))

/-- The plan default of a burst: the most bytes of a layer on a pipe in one band (R156). -/
def layerBurst (m : View) (o : Occlusion) (h p sl : Nat) : Nat :=
  maxOf ((List.range (bandCount m h)).map fun b => 64 * sumOf (kinds.map fun k => (segment m o h p sl k b).length))

/-- Occlusion with every CLT tile taken as occupied: how landings are sized (R124, R154). -/
def fullOcc (m : View) (o : Occlusion) (ls : List Nat) : Occlusion :=
  ⟨o.opaque_, (ls.filter (isClt m)).map fun sl => (sl, List.range (tilesX m sl * tilesY m sl))⟩

/-- An item's size, rounded up to 1 KiB (R124). -/
def kib (n : Nat) : Nat := ceilDiv n 1024 * 1024

/-- The items of a group's state, unplaced (R124, R184). -/
def Case.items (c : Case) (g : Nat) : List Item :=
  let m := c.new
  (enabledHeads m g).flatMap fun h => (pipesOf m h).flatMap fun p =>
    let o := fullOcc m c.occ (headLayers m h)
    let l := maxOf ((List.range (bandCount m h)).map fun b => bandBytes m o h p b fun _ _ => true)
    (if l = 0 then [] else [⟨p, h, 4096, kib l, 0, 0⟩]) ++
      ((headLayers m h).filter fun sl => isScaled m sl && hasSegment m c.occ h p sl).map fun sl =>
        ⟨p, h, sl, kib (orientW m sl * 48), 0, 0⟩

/-- What Ephemeris holds of a group's new state; the items are placed later. -/
def State.groupPlan (s : State) (c : Case) (g : Nat) : GroupPlan :=
  let m := c.new
  let hs := enabledHeads m g
  let on := hs.flatMap fun h => (pipesOf m h).flatMap fun p =>
    ((headLayers m h).filter fun sl => hasSegment m c.occ h p sl).map fun sl => (h, p, sl)
  { localPeak := s.peak c g false
    hostPeak := s.peak c g true
    pipes := (uniq (hs.flatMap (pipesOf m))).map (s.pipeReq c g)
    items := c.items g
    rates := on.map fun x => (x.2.2 * 64 + x.2.1, s.layerRate c x.1 x.2.1 x.2.2)
    tiles := hs.flatMap fun h => (headLayers m h).map fun sl =>
      (sl, if isSolid m sl then 0 else ((tileGrid m h).filter fun t => visibleIn m c.occ h sl t.1 t.2).length)
    hostLayers := (hs.flatMap (headLayers m)).filter fun sl => isHostLayer m sl (c.srcs sl)
    occlusion := c.occ
    bursts := on.map fun x => (x.2.2 * 64 + x.2.1, layerBurst m c.occ x.1 x.2.1 x.2.2) }

/-- A group with nothing admitted (R223). -/
def GroupPlan.empty : GroupPlan := ⟨0, 0, [], [], [], [], [], ⟨[], []⟩, []⟩

/-- The plans of a group's active and pending states (R220, R223). -/
def State.heldPlans (s : State) (g : Nat) : List GroupPlan :=
  (tabGet s.activePlans g).getD GroupPlan.empty ::
    s.admitted.filterMap fun a => if a.frames.any (·.1 = g) then tabGet a.plans g else none

/-- A group's largest contribution over its states, the new one included where it is named (R220, R421). -/
def State.groupMax (s : State) (new : List (Nat × GroupPlan)) (g : Nat) (f : GroupPlan → Nat) : Nat :=
  maxOf (((match tabGet new g with | some p => [p] | none => []) ++ s.heldPlans g).map f)
/-- The same, added over the groups. -/
def State.totalOf (s : State) (new : List (Nat × GroupPlan)) (f : GroupPlan → Nat) : Nat :=
  sumOf ((List.range 32).map fun g => s.groupMax new g f)

/-- A pipe's requirement in a plan. -/
def GroupPlan.req (p : GroupPlan) (pipe : Nat) : Option PipeReq := p.pipes.find? (·.pipe = pipe)
def GroupPlan.part (p : GroupPlan) (pipe : Nat) (f : PipeReq → Nat) : Nat := match p.req pipe with | some r => f r | none => 0

/-! Step 3 (`NOPIPE`). -/

/-- The island that serves pipe p: its own, or that of the spare that took it over (R363). -/
def State.pipeIsland (s : State) (p : Nat) : Nat := islandPipe ((tabGet s.pipeSubst p).getD p)

/-- Physical pipe k serves head h of a state (R363): its own number and not replaced, or the number of a pipe that it replaces, or that
of a pipe whose swap to it has moved the head. -/
def State.pipeServes (s : State) (m : View) (h k : Nat) : Bool :=
  (pipesOf m h).any fun p =>
    let z := (tabGet s.pipeSubst p).getD p
    match s.swaps.find? fun (x : Swap) => x.pipe = p && x.moved.contains h with
    | some x => decide (x.spare = k)
    | none => decide (z = k)

/-- Role of a pipe: 0 active, 1 spare, 2 failed (R362), 3 failed and replaced by its spare, which serves its number (R364). At reset the ninth pipe of each cluster is its spare. -/
def State.pipeRole (s : State) (p : Nat) : Nat := (tabGet s.pipeRoles p).getD (if p % 9 = 8 then 1 else 0)

/-- Step 3 of R213 (R17, R191, R234, R250, R421): `f` the sampled state, `s` the state at the verdict stage (R214). A pipe that a
failed spare serves counts as failed (R364). -/
def State.noPipe (s f : State) (c : Case) (new : List (Nat × GroupPlan)) : Bool :=
  let m := c.new
  let used := uniq (c.enabled.flatMap (pipesOf m))
  let all := (List.range 32).flatMap fun g => (match tabGet new g with | some p => [p] | none => []) ++ s.heldPlans g
  used.any (fun p => decide (f.pipeRole p = 1) || decide (f.pipeRole p = 2) ||
    (match tabGet f.pipeSubst p with | some z => decide (f.pipeRole z = 2) | none => false)) ||
  (List.range 36).any (fun p =>
    let tot f := s.totalOf new fun x => x.part p f
    let on := uniq' (all.flatMap fun x => match x.req p with | some r => r.heads | none => [])
    decide (3000000000 * 2 ^ 24 < tot (·.load)) || decide (4 < tot (·.heads.length)) || decide (8 < tot (·.slices)) ||
    decide (32 < tot (·.matrices)) || decide (16 < tot (·.degammas)) ||
    (on.any fun a => on.any fun b => decide (a.1 ≠ b.1) && (a.2.2 || decide (750000000 * 2 ^ 24 < a.2.1)))) ||
  decide (16 < s.totalOf new fun x => ((x.pipes.flatMap fun r => r.heads.filter (·.2.2)).length) / 2) ||
  c.enabled.any (fun h =>
    (decide (hdf m h Hd.PAIR_EN = 1) && (decide (hdf m h Hd.PIPE = hdf m h Hd.PIPE2) ||
      decide (hdf m h Hd.PIPE / 9 ≠ hdf m h Hd.PIPE2 / 9))) ||
    (decide (hdf m h Hd.DSC_EN = 1) && decide (375000000 * 2 ^ 24 * dscSlices m h < f.rate24 m h)))
where
  /-- Without repeats. -/
  uniq' : List (Nat × Nat × Bool) → List (Nat × Nat × Bool)
    | [] => []
    | x :: xs => if x ∈ xs then uniq' xs else x :: uniq' xs

/-- Step 4 (`NODEPTH`, R153). -/
def Case.noDepth (c : Case) : Bool :=
  c.enabled.any fun h => (tileGrid c.new h).any fun t => decide (16 < depthAt c.new c.occ h t.1 t.2)

/-! Step 5 (`NOBW`). -/

/-- svc_local() of R216. -/
def State.svcLocal (s : State) : Nat :=
  let raw := 64000 * s.fget Reg.SYS_MEM_CFG Bit.SYS_MEM_CFG_RATE
  let keep := 65536 - 2294 - 132 - (if s.eccOn then 4096 else 0)
  let a := raw * keep / 65536
  let b := a * 56361 / 65536
  min (b - 320000 - s.fget Reg.EPH_GC_RATE Bit.EPH_GC_RATE_RATE) (raw * 3 / 4)

/-- CIR_PCIE (R218): committed rates of the enabled meters fed over PCIe. -/
def State.cirPcie (s : State) : Nat :=
  sumOf (s.regs.map fun e =>
    if 0x820000 ≤ e.1 && decide (e.1 < 0x860000) && decide (e.1 % 64 = 0) && bitOf e.2.toNat 0 && !bitOf e.2.toNat 1 then
      s.fget (Reg.ING_CIR ((e.1 - 0x820000) / 64)) Bit.ING_CIR_CIR else 0)

/-- The conditions of R218. -/
def State.hostFits (s : State) (dhost : Nat) : Bool :=
  decide (dhost ≤ 160000) && decide (ceilDiv (65536 * dhost) 57344 + s.cirPcie + 2000 ≤ 242000)
/-- The second condition of R218 on a link of `width` lanes, with the demand of the active and pending states (R326). -/
def State.widthCarries (s : State) (width : Nat) : Bool :=
  decide (16 * (ceilDiv (65536 * s.rd Reg.EPH_DEMAND_HOST) 57344 + s.cirPcie + 2000) ≤ 242000 * width)

/-- The conditions of step 5 (R136, R142, R156, R220): `f` the sampled state, `s` the state at the verdict stage. -/
def State.noBw (s f : State) (c : Case) (new : List (Nat × GroupPlan)) : Bool :=
  let m := c.new
  let segments (h p : Nat) := sumOf ((headLayers m h).flatMap fun sl => kinds.map fun k =>
    ((List.range (bandCount m h)).filter fun b => decide (segment m c.occ h p sl k b ≠ [])).length)
  let share (fn : Nat) (pick : GroupPlan → Nat) :=
    sumOf (((List.range 32).filter fun g => f.groupFn g = fn).map fun g => s.groupMax new g pick)
  c.enabled.any (fun h => (pipesOf m h).any fun p => decide (262144 < segments h p)) ||
  decide (131072 < sumOf ((List.range 36).map fun p => s.totalOf new fun x => x.part p (·.tags))) ||
  new.any (fun gp => gp.2.bursts.any fun b =>
    let sl := b.1 / 64
    decide (lyr m sl Lyr.AP_BURST ≠ 0) && decide (lyr m sl Lyr.AP_BURST * 1024 < b.2)) ||
  decide (f.svcLocal < s.totalOf new (·.localPeak)) || !s.hostFits (s.totalOf new (·.hostPeak)) ||
  (List.range 32).any (fun fn =>
    let l := f.fget (Reg.EPH_FN_LOCAL fn) Bit.EPH_FN_LOCAL_SHARE
    let h := f.fget (Reg.EPH_FN_HOST fn) Bit.EPH_FN_HOST_SHARE
    (decide (l ≠ 0x1FFFFF) && decide (l < share fn (·.localPeak))) ||
    (decide (h ≠ 0x3FFFF) && decide (h < share fn (·.hostPeak))))

/-! Steps 6 and 7: placement (R125). -/

/-- Two items touch the same bytes. -/
def Item.meets (a b : Item) : Bool := a.plate = b.plate && decide (a.start < b.start + b.size) && decide (b.start < a.start + a.size)

/-- The order of a pass: size descending, then head, pipe, layer slot. -/
def Item.before (a b : Item) : Bool :=
  if a.size ≠ b.size then decide (b.size < a.size)
  else if a.head ≠ b.head then decide (a.head < b.head)
  else if a.pipe ≠ b.pipe then decide (a.pipe < b.pipe)
  else decide (a.slot ≤ b.slot)
def insertItem (a : Item) : List Item → List Item
  | [] => [a]
  | b :: bs => if a.before b then a :: b :: bs else b :: insertItem a bs

/-- Plates in which an item may be placed, ascending (R125). -/
def State.eligible (f : State) (i : Item) : List Nat :=
  (List.range 32).filter fun p =>
    let o := Reg.PST_OWN p
    f.fget o Bit.PST_OWN_OWNER = i.pipe / 9 + 1 && f.fget o Bit.PST_OWN_FN = f.headFn i.head &&
      !f.fbit o Bit.PST_OWN_TRANSIT && !f.fbit o Bit.PST_OWN_SUBST && !f.fbit o Bit.PST_OWN_FAILED

/-- The lowest place in a plate that is free of the busy items: 0 or the end of one of them. -/
def firstFit (busy : List Item) (i : Item) (plate : Nat) : Option Item :=
  let starts := sortNat (0 :: ((busy.filter fun b => b.plate = plate).map fun b => b.start + b.size))
  (starts.map fun a => { i with plate := plate, start := a }).find? fun x =>
    decide (x.start + x.size ≤ 8388608) && busy.all fun b => !x.meets b

/-- One pass: the items placed, and the busy items with them; none when one finds no room. -/
def State.placePass (f : State) : List Item → List Item → Option (List Item)
  | [], _ => some []
  | i :: rest, busy =>
    match ((f.eligible i).filterMap (firstFit busy i)).head? with
    | none => none
    | some x => (f.placePass rest (x :: busy)).map (x :: ·)

/-- The outcome of placement. -/
inductive Placed
  | ok (items : List Item)
  | noPlate
  | noLine
deriving DecidableEq, Repr

/-- place(new_items) of R125: `f` holds the sampled plate ownership, `busy` the busy items, `kept` those kept in place. -/
def State.place (f : State) (busy kept new : List Item) : Placed :=
  let order (l : List Item) := l.foldr insertItem []
  match f.placePass (order (new.filter (·.slot = 4096))) busy with
  | none => .noPlate
  | some landings =>
    match f.placePass (order (new.filter (·.slot ≠ 4096))) (landings ++ busy) with
    | none => .noLine
    | some lines => .ok (kept ++ landings ++ lines)

/-- Kept in place: the active state's item for the same head, pipe and layer slot with the same size (R125). -/
def keepItem (active : List Item) (i : Item) : Option Item :=
  active.find? fun a => a.head = i.head && a.pipe = i.pipe && a.slot = i.slot && a.size = i.size

/-- Items of the active states and of the commits not yet applied. -/
def State.busyItems (s : State) : List Item := (List.range 32).flatMap fun g => (s.heldPlans g).flatMap (·.items)

/-- Placement of the plans of a commit's groups. -/
def State.placePlans (s f : State) (new : List (Nat × GroupPlan)) : Placed :=
  let active := s.activePlans.flatMap (·.2.items)
  let items := new.flatMap (·.2.items)
  let kept := items.filterMap (keepItem active)
  f.place s.busyItems kept (items.filter fun i => (keepItem active i).isNone)

end Sys2Proof.Machine
end

