-- ==== Sys2Proof/Machine/SeqMemory.lean ====
section
/-! DEFINITION. The memory instructions of Atcia (R69 to R72) and the instruction fetch (R26, R89). -/

namespace Sys2Proof.Machine

/-- The view of a function's own BAR0 in bytes (R69). -/
def viewSize (f : Nat) : Nat := if f = 0 then 2 ^ 24 else 2 ^ 21

/-- The address checks of `LDW` and `STW` in the order of R91: the exception, if any. -/
def dataFault (f addr size : Nat) (reg : Bool) : Option Nat :=
  if reg && size ≠ 4 then some 0x02
  else if addr % size ≠ 0 then some 0x03
  else if reg && viewSize f ≤ addr then some 0x04
  else if !reg && 2 ^ 37 ≤ addr then some 0x04
  else none

/-- Where a data access goes once its address is in range (R69): the place, or the response to a refusal or to a link that
is down (R72, R94). -/
def State.dataPlace (s : State) (q addr : Nat) (reg : Bool) (r : Right) (go : StoreDest → State) : State :=
  let f := s.seqFn q
  if reg then go (.register addr)
  else
    match s.translate f addr r with
    | .refused p => (s.refusal p f (r ≠ Right.read) 2).seqFault q 0x05 true
    | .localMem phys => go (.localMem phys)
    | .hostWin fn a => if s.linkUp then go (.hostWin fn a) else s.hostDown q

/-- A store is to register space. -/
def Store.toReg (st : Store) : Bool := match st.dest with | .register _ => true | _ => false

/-- An unperformed store of the sequencer to the 8-byte word of an address (R71). -/
def Seq.storeAt (x : Seq) (addr : Nat) (reg : Bool) : Bool :=
  x.stores.any fun st => st.word = addr / 8 * 8 && st.toReg = reg

/-- `LDW` (R69, R71): after the earlier stores to the same word; the sequencer blocks until the data returns. -/
def execLdw (q : SeqId) (s : State) : Result :=
  .next (s.issue q .ldw fun i =>
    let x := s.seq q
    let addr := dataAddress x i
    let size := sizeOf i.ctl.toNat
    let reg := i.ctl.getLsbD 2
    match dataFault (s.seqFn q) addr size reg with
    | some c => s.seqFault q c true
    | none =>
      if x.storeAt addr reg then s
      else s.dataPlace q addr reg .read fun src =>
        let s := match src with
          | .hostWin fn a => s.send (.readRequest fn a size)
          | .localMem phys => s.askMc q phys size
          | .register _ => s
        let late := match src with | .hostWin fn _ => s.now + (s.fn fn).timeout | _ => 0
        s.setSeq q { x with waiting := .load i.d size addr src s.now (nextPc x i), deadline := late })

/-- `STW` (R69, R71): checked, translated and queued; a ninth store waits. -/
def execStw (q : SeqId) (s : State) : Result :=
  .next (s.issue q .stw fun i =>
    let x := s.seq q
    let addr := dataAddress x i
    let size := sizeOf i.ctl.toNat
    let reg := i.ctl.getLsbD 2
    match dataFault (s.seqFn q) addr size reg with
    | some c => s.seqFault q c true
    | none =>
      s.dataPlace q addr reg .write fun dest =>
        if 8 ≤ x.stores.length then s
        else
          let st : Store := ⟨addr / 8 * 8, s.now, dest, toBytes size (x.reg i.b).toNat⟩
          let s := match dest with | .localMem phys => s.askMc q phys size | _ => s
          s.retire q i { x with stores := x.stores ++ [st] })

/-- `ATOM` (R70): waits until every earlier store has been performed, then blocks. -/
def execAtom (q : SeqId) (s : State) : Result :=
  .next (s.issue q .atom fun i =>
    let x := s.seq q
    let addr := (x.reg i.a + simm i).toNat
    let size := if i.ctl.getLsbD 3 then 4 else 8
    if addr % size ≠ 0 then s.seqFault q 0x03 true
    else if 2 ^ 37 ≤ addr then s.seqFault q 0x04 true
    else if 2 ^ 36 ≤ addr then s.seqFault q 0x0E true
    else if x.stores ≠ [] then s
    else
      s.dataPlace q addr false .both fun src =>
        match src with
        | .localMem phys =>
          (s.askMc q phys size).setSeq q
            { x with waiting := .atom i.d size (i.ctl.toNat % 8) addr phys s.now (x.reg i.b) (x.reg i.d) }
        | _ => s)

/-- The word that an `ATOM` leaves, from the old word and its operands, and whether it is stored (R70). -/
def atomResult (oper : Nat) (old operand compare : Nat) : Nat × Bool :=
  match oper with
  | 0 => (operand, true)
  | 1 => (old + operand, true)
  | 2 => (Nat.land old operand, true)
  | 3 => (Nat.lor old operand, true)
  | 4 => (Nat.xor old operand, true)
  | _ => if old = compare then (operand, true) else (old, false)

/-- The `ATOM` of sequencer q at `phys`, issued at time t, is the next that its controller serves (R70): by order of arrival, those
of one cycle in the order of the sequencers. -/
def State.atomFirst (s : State) (q phys t : Nat) : Bool :=
  s.seqs.all fun e => match e.2.waiting with
    | .atom _ _ _ _ phys' t' _ _ => decide (mcOf phys' ≠ mcOf phys) || decide (t < t') || (decide (t = t') && decide (q ≤ e.1))
    | _ => true

/-- The memory controller performs an `ATOM` and returns the old value (R70); `fresh` says that the word reads
uncorrectable now (R101). The write is mirrored while the frame is being retired (R103). -/
def execAtomComplete (q : SeqId) (fresh : Bool) (s : State) : Result :=
  .next (
    let x := s.seq q
    match x.waiting with
    | .atom dest size oper _ phys t operand compare =>
      if !s.memOn then s.touchMem
      else if s.unserved q phys || !s.atomFirst q phys t then s
      else match s.localRead phys size fresh with
      | (s, none) => s.seqFault q 0x06 true
      | (s, some bytes) =>
        let old := ofBytes bytes
        let m := 2 ^ (8 * size)
        let (new, stored) := atomResult oper old (operand.toNat % m) (compare.toNat % m)
        let s := if stored then s.store phys (toBytes size new) else s
        let x := { x with waiting := .nothing, z := if oper = 5 then stored else x.z, pc := x.pc + 1 }
        s.setSeq q (x.setReg dest (BitVec.ofNat 64 old))
    | _ => s)

/-- A missed line returns (R26, R89): the whole line fills its place and the sequencer goes on; a failed read is a fetch
fault (R90, R91, R322). -/
def State.programFill (s : State) (q : Nat) (r : ReadResult) : State :=
    let x := s.seq q
    let fill (s : State) (line : Nat) (bytes : List Byte) : State :=
      let ws := (List.range 8).map fun k => BitVec.ofNat 64 (ofBytes ((bytes.drop (8 * k)).take 8))
      (s.setSeq q { x with waiting := .nothing, linkWait := false,
                           buffer := tabPut (line / 64 % 32) (line, ws) x.buffer })
    match x.waiting with
    | .fetch line (.localMem phys) _ =>
      if !s.memOn then s.touchMem
      else if s.unserved q phys then s
      else match s.localRead phys 64 (r = .uncorrectable) with
      | (s, none) => s.seqFault q 0x06 true
      | (s, some bytes) => fill s line bytes
    | .fetch line (.hostWin fn a) _ =>
      match s.hostAnswer fn a r with
      | .data bytes => fill s line bytes
      | .timeout =>
        if s.linkUp && s.seqState q ≠ 5 then (s.aerLog fn 2).seqFault q 0x06 true
        else if q < 32 then (s.setSeq q { x with waiting := .nothing, linkWait := true }).setSeqState q 5
        else s.seqFault q 0x07 true
      | .poisoned => (s.aerLog fn 1).seqFault q 0x06 true
      | _ => s.seqFault q 0x06 true
    | _ => s

/-- A missed line returns. -/
def execProgramFetchFill (q : SeqId) (r : ReadResult) (s : State) : Result := .next (s.programFill q r)

end Sys2Proof.Machine
end

