-- ==== Sys2Proof/Machine/SeqWait.lean ====
section
/-! DEFINITION. Waiting, time and events in Atcia (R73 to R77). -/

namespace Sys2Proof.Machine

/-- The 32-bit occurrence count of a source (R73). -/
def State.count (s : State) (src : Nat) : Nat := s.rd (Reg.EVC_SRC_COUNT src)

/-- A sequencer may look at a source (R73). -/
def State.mayWait (s : State) (q src : Nat) : Bool :=
  src < 6144 && (s.sourceFn src = s.seqFn q || allVisible src)

/-- A waiting instruction completes: the sequencer runs on behind it. -/
def State.resume (s : State) (q : Nat) (x : Seq) : State :=
  (s.setSeq q { x with waiting := .nothing, pc := (s.seq q).pc + 1 }).setSeqState q 2

/-- `WAITEV` completes with the count: Z when `none` is new, C when more than one occurrence is new (R68, R73). -/
def Seq.setCount (x : Seq) (dest count last : Nat) (none_ : Bool) : Seq :=
  { x.setReg dest (BitVec.ofNat 64 count) with
      z := none_, c := !none_ && decide (1 < (count + 2 ^ 32 - last) % 2 ^ 32) }

/-- `WAITEV` (R73). -/
def execWaitev (q : SeqId) (s : State) : Result :=
  .next (s.issue q .waitev fun i =>
    let x := s.seq q
    let src := i.imm.toNat
    if !s.mayWait q src then s.seqFault q 0x0B true
    else
      let last := (x.reg i.a).toNat % 2 ^ 32
      let count := s.count src
      if i.ctl.getLsbD 0 then s.retire q i (x.setCount i.d count last (count = last))
      else if count ≠ last then s.retire q i (x.setCount i.d count last false)
      else
        let limit := (x.reg i.b).toNat
        let deadline := if limit = 0 then none else some (s.now + limit)
        (s.setSeq q { x with waiting := .event i.d src last deadline }).setSeqState q 3)

/-- A waiting `WAITEV` completes because the count has changed (R73). -/
def execWaitevWake (q : SeqId) (s : State) : Result :=
  .next (
    let x := s.seq q
    match x.waiting with
    | .event dest src last _ =>
      if s.count src ≠ last then s.resume q (x.setCount dest (s.count src) last false) else s
    | _ => s)

/-- A waiting `WAITEV` reaches its timeout; an occurrence in the same cycle wins (R73). -/
def execWaitevTimeout (q : SeqId) (s : State) : Result :=
  .next (
    let x := s.seq q
    match x.waiting with
    | .event dest src last (some d) =>
      if s.count src ≠ last then s.resume q (x.setCount dest (s.count src) last false)
      else if d ≤ s.now then s.resume q (x.setCount dest last last true)
      else s
    | _ => s)

/-- `WAITLN` completes with C and V (R68, R74). -/
def Seq.setLine (x : Seq) (passed out : Bool) : Seq := { x with c := passed, v := out }

/-- `WAITLN` (R74). -/
def execWaitln (q : SeqId) (s : State) : Result :=
  .next (s.issue q .waitln fun i =>
    let x := s.seq q
    match s.namedHead q i with
    | .error c => s.seqFault q c true
    | .ok h =>
      let target : Int := (x.reg i.a).toInt + i.imm.toInt
      let run := s.head h
      let wait (w : Waiting) := (s.setSeq q { x with waiting := w }).setSeqState q 3
      if !s.headRunning h then s.retire q i (x.setLine false true)
      else if target < 0 || (s.vtotal h : Int) ≤ target then wait (.line h 0 run.frame true)
      else if (run.line : Int) < target then wait (.line h target.toNat run.frame false)
      else if i.ctl.getLsbD 0 then wait (.line h target.toNat (run.frame + 1) false)
      else s.retire q i (x.setLine true false))

/-- A waiting `WAITLN` completes at the start of its target line, or at the next boundary (R74). A target that lies at or
beyond the vertical total of its frame, and a head that stops, end the wait with V. -/
def execWaitlnWake (q : SeqId) (s : State) : Result :=
  .next (
    let x := s.seq q
    match x.waiting with
    | .line h target frame out =>
      let run := s.head h
      if !s.headRunning h then s.resume q (x.setLine false true)
      else if frame < run.frame then s.resume q (x.setLine false true)
      else if !out && run.frame = frame && target ≤ run.line then s.resume q (x.setLine false false)
      else s
    | _ => s)

/-- `SIGNAL` (R75): after every earlier store has been performed. -/
def execSignal (q : SeqId) (s : State) : Result :=
  .next (s.issue q .signal fun i =>
    let src := i.imm.toNat
    if !(5184 ≤ src && src < 5440 && s.sourceFn src = s.seqFn q) then s.seqFault q 0x0B true
    else if (s.seq q).stores ≠ [] then s
    else (s.raise src 0 q.val 2).retire q i (s.seq q))

/-- `STAMP` (R76). -/
def execStamp (q : SeqId) (s : State) : Result :=
  .next (s.issue q .stamp fun i =>
    let x := s.seq q
    let put (s : State) (v : Nat) := s.retire q i (x.setReg i.d (BitVec.ofNat 64 v))
    match i.ctl.toNat % 8 with
    | 0 => put s.draw (s.replica 2)
    | sel =>
      match s.namedHead q i with
      | .error c => s.seqFault q c true
      | .ok h =>
        let run := s.head h
        put s (match sel with
          | 1 => run.frame
          | 2 => run.boundary
          | _ => if s.headRunning h then run.line else 0))

/-- The results that a sequencer awaits (R86). -/
def State.awaited (s : State) (q : Nat) : List Commit := s.commits.filter fun c => c.by_ = q

/-- The conditions of a `FENCE` hold (R77); CTL zero acts as `M` and `S`. -/
def State.fenceHolds (s : State) (q ctl : Nat) : Bool :=
  let c := if ctl = 0 then 3 else ctl
  (!bitOf c 0 || (s.seq q).stores = []) && (!bitOf c 1 || (s.seq q).shadowQ = []) &&
    (!bitOf c 2 || s.awaited q = [])

/-- The program buffer after a completed `FENCE`: invalidated with `I` (R77, R89). -/
def fenceBuffer (ctl : Nat) (x : Seq) : Seq := if bitOf ctl 3 then { x with buffer := [] } else x

/-- `FENCE` (R77). -/
def execFence (q : SeqId) (s : State) : Result :=
  .next (s.issue q .fence fun i =>
    let x := s.seq q
    let ctl := i.ctl.toNat
    if s.fenceHolds q ctl then s.retire q i (fenceBuffer ctl x)
    else (s.setSeq q { x with waiting := .fence ctl }).setSeqState q 3)

/-- The conditions of a waiting `FENCE` hold (R77). -/
def execFenceComplete (q : SeqId) (s : State) : Result :=
  .next (
    let x := s.seq q
    match x.waiting with
    | .fence ctl => if s.fenceHolds q ctl then s.resume q (fenceBuffer ctl x) else s
    | _ => s)

end Sys2Proof.Machine
end

