-- ==== Sys2Proof/Machine/SeqShadow.lean ====
section
/-! DEFINITION. The state instructions (R78 to R81) and the acceptance of shadow writes (R28). -/

namespace Sys2Proof.Machine

/-- The word that a colour field identifier and object index name (R187, R181): offset, or the exception. -/
def colourWord (id idx : Nat) : Except Nat Nat :=
  let pick (n : Nat) (off : Nat) : Except Nat Nat := if idx < n then .ok off else .error 0x09
  if id < 0x09 then pick 256 (0x400000 + 64 * idx + 4 * id)
  else if id < 0x0C then pick 256 (0x400024 + 64 * idx + 4 * (id - 9))
  else if id = 0x10 then pick 262144 (0x440000 + 4 * idx)
  else if id = 0x18 then pick 256 (0x408800 + 8 * idx)
  else if id = 0x19 then pick 256 (0x408804 + 8 * idx)
  else if 0x20 ≤ id ∧ id < 0x29 then pick 128 (0x404000 + 64 * idx + 4 * (id - 0x20))
  else if 0x30 ≤ id ∧ id < 0x39 then pick 128 (0x406000 + 64 * idx + 4 * (id - 0x30))
  else if 0x39 ≤ id ∧ id < 0x3C then pick 128 (0x406024 + 64 * idx + 4 * (id - 0x39))
  else if id = 0x40 then pick 524288 (0x600000 + 4 * idx)
  else if id = 0x48 then pick 128 (0x408000 + 16 * idx)
  else if 0xF0 ≤ id ∧ id < 0xF4 then
    if 256 ≤ idx then pick 1024 (0x410000 + 16 * idx + 4 * (id - 0xF0)) else .error 0x09
  else if 0xF8 ≤ id ∧ id < 0xFB then
    if 256 ≤ idx then pick 1024 (0x414000 + 16 * idx + 4 * (id - 0xF8)) else .error 0x09
  else .error 0x08

/-- The function that owns a shadow object (R25, R189, R181, R211). -/
def State.shadowOwner (s : State) : ShadowObj → Nat
  | .layer sl _ => s.slotFn sl
  | .head h _ => s.headFn h
  | .sig h _ _ => s.headFn h
  | .csc t _ => s.fget (Reg.CLR_TABLE_FN t) Bit.CLR_TABLE_FN_CSC_FN
  | .degamma t _ => s.fget (Reg.CLR_TABLE_FN t) Bit.CLR_TABLE_FN_DEGAMMA_FN
  | .clut t _ => s.fget (Reg.CLR_TABLE_FN t) Bit.CLR_TABLE_FN_CLUT_FN
  | .gamut h _ => s.headFn h
  | .outm h _ => s.headFn h
  | .cctl h => s.headFn h
  | .regamma h _ => s.headFn h
  | .hcoef _ _ => 0
  | .vcoef _ _ => 0
  | .members g _ => s.groupFn g

/-- The catalogue word of a class, identifier and index: `BAD_FIELD` for an identifier that is not in the catalogue or
names a status field, then `BAD_OBJECT` (R31, R35, R78, R91). -/
def fieldWord (op : Op) (id idx : Nat) : Except Nat Nat :=
  let cls := id / 256
  let f := id % 256
  let program (cat : List CatField) : Bool := match catFind cat f with | some c => c.program | none => false
  match op with
  | .lset => if cls = 0x4C && program layerFields then (if idx < 4096 then .ok (lyrOff idx f) else .error 0x09)
             else .error 0x08
  | .hset => if cls = 0x48 && program headFields then (if idx < 128 then .ok (hdOff idx f) else .error 0x09)
             else .error 0x08
  | .cset => if cls = 0x43 then colourWord f idx else .error 0x08
  | .gset => if cls = 0x47 && f < 4 then (if idx < 32 then .ok (0x3B9800 + 16 * idx + 4 * f) else .error 0x09)
             else .error 0x08
  | .sigdef =>
    if cls = 0x53 && program sigFields && f < 0x08 then
      (if idx < 2048 then .ok (sgOff (idx / 16) (idx % 16) f) else .error 0x09)
    else .error 0x08
  | .sigexp =>
    if cls = 0x53 && 0x08 ≤ f && f ≤ 0x0B then
      (if idx < 2048 then .ok (sgOff (idx / 16) (idx % 16) f) else .error 0x09)
    else .error 0x08
  | _ => .error 0x08

/-- The offset of the compare-enable word of the region that a signature word belongs to. -/
def cmpEnOf (off : Nat) : Nat :=
  match shadowObj off with
  | some (.sig h r _) => sgOff h r Sg.CMP_EN
  | _ => off

/-- One state instruction (R78, R79): checks in the order of R91, then one shadow write joins the queue of 4 (R81). -/
def State.stateInstr (s : State) (q : Nat) (op : Op) (i : Atcia) : State :=
  let x := s.seq q
  let id := i.imm.toNat % 2 ^ 16
  let idx := (x.reg i.a + BitVec.ofNat 64 (i.imm.toNat / 2 ^ 16)).toNat
  match fieldWord op id idx with
  | .error c => s.seqFault q c true
  | .ok off =>
    match shadowObj off with
    | none => s.seqFault q 0x08 true
    | some obj =>
      if s.shadowOwner obj ≠ s.seqFn q then s.seqFault q 0x0A true
      else if 4 ≤ x.shadowQ.length then s
      else
        let v := (if i.x then i.k else x.reg i.b).toNat % 2 ^ 32
        let plain := (off, shadowMask obj, v)
        let w : List (Nat × Nat × Nat) :=
          match op with
          | .sigexp =>
            if i.ctl.getLsbD 0 then [(cmpEnOf off, 1, 0)]
            else [plain, (cmpEnOf off, 1, 1)]
          | _ => [plain]
        s.retire q i { x with shadowQ := x.shadowQ ++ [.words w] }

/-- `LSET` (R78). -/
def execLset (q : SeqId) (s : State) : Result := .next (s.issue q .lset fun i => s.stateInstr q .lset i)
/-- `HSET` (R78). -/
def execHset (q : SeqId) (s : State) : Result := .next (s.issue q .hset fun i => s.stateInstr q .hset i)
/-- `CSET` (R78, R181, R187). -/
def execCset (q : SeqId) (s : State) : Result := .next (s.issue q .cset fun i => s.stateInstr q .cset i)
/-- `GSET` (R78, R211). -/
def execGset (q : SeqId) (s : State) : Result := .next (s.issue q .gset fun i => s.stateInstr q .gset i)
/-- `SIGDEF` (R79). -/
def execSigdef (q : SeqId) (s : State) : Result := .next (s.issue q .sigdef fun i => s.stateInstr q .sigdef i)
/-- `SIGEXP` (R79): the same write sets compare-enable, and with `DISARM` it only clears it. -/
def execSigexp (q : SeqId) (s : State) : Result := .next (s.issue q .sigexp fun i => s.stateInstr q .sigexp i)

/-- `LCOPY` (R80). -/
def execLcopy (q : SeqId) (s : State) : Result :=
  .next (s.issue q .lcopy fun i =>
    let x := s.seq q
    let dst := (x.reg i.a).toNat
    let src := (x.reg i.b).toNat
    if 4096 ≤ dst || 4096 ≤ src then s.seqFault q 0x09 true
    else if s.slotFn dst ≠ s.seqFn q || s.slotFn src ≠ s.seqFn q then s.seqFault q 0x0A true
    else if 4 ≤ x.shadowQ.length then s
    else
      let w := ShadowWrite.lcopy dst src (i.ctl.getLsbD 0) (i.ctl.getLsbD 1) (i.ctl.getLsbD 2)
      s.retire q i { x with shadowQ := x.shadowQ ++ [w] })

/-- The masked words that a shadow write stores, as it is applied (R34, R80). -/
def State.shadowWords (s : State) : ShadowWrite → List (Nat × Nat × Nat)
  | .words ws => ws
  | .lcopy dst src keepHead keepEn fromActive =>
    let view := if fromActive then s.active else s.shadow
    (layerFields.filter fun f => f.program && !(keepHead && f.index = Lyr.HEAD) && !(keepEn && f.index = Lyr.LAYER_EN)).map
      fun f => (lyrOff dst f.index, f.mask, lyr view src f.index)

/-- One masked word stored into shadow (R34): bits outside the mask are not stored and read as zero. -/
def State.shadowPut (s : State) (w : Nat × Nat × Nat) : State :=
  { s with shadow := viewPut s.shadow w.1 (Nat.land w.2.2 w.2.1) }

/-- One shadow write applied (R28). -/
def State.shadowApply (s : State) (w : ShadowWrite) : State := (s.shadowWords w).foldl State.shadowPut s

/-- Sequencers q, q + 1, … around the 160 places of the round robin. -/
def turnOrder (from_ : Nat) : List Nat := (List.range 160).map fun k => (from_ + k) % 160

/-- The queue of shadow writes at a place: 0 to 159 the sequencers, 160 the bench-mode BAR0 writes. -/
def State.queueAt (s : State) (p : Nat) : List ShadowWrite := if p = 160 then s.benchQ else (s.seq p).shadowQ

/-- The oldest write of a place leaves its queue. -/
def State.popQueue (s : State) (p : Nat) : State :=
  if p = 160 then { s with benchQ := s.benchQ.drop 1 }
  else s.setSeq p { s.seq p with shadowQ := (s.seq p).shadowQ.drop 1 }

/-- Words that later writes of the same cycle address again (R28). -/
def overlaps : List (List (Nat × Nat × Nat)) → Nat
  | [] => 0
  | ws :: rest => (ws.filter fun w => rest.any fun r => r.any fun v => v.1 = w.1).length + overlaps rest

/-- One cycle of acceptance (R28): up to 16 writes of the sequencers round-robin and the oldest bench-mode BAR0 write, applied in
the order `CP0` … `FSQ127`, bench; two writes of one cycle to one field are counted in `SEQ_SHADOW_OVERLAP`. -/
def execShadowWriteAccept (s : State) : Result :=
  .next (
    let served := ((turnOrder s.shadowTurn).filter fun p => s.queueAt p ≠ []).take 16
    let order := (List.range 161).filter fun p => p ∈ served || (p = 160 && decide (s.benchQ ≠ []))
    let writes := order.filterMap fun p => (s.queueAt p).head?
    let hits := overlaps (writes.map s.shadowWords)
    let s := order.foldl (fun s p => ((s.queueAt p).head?.elim s s.shadowApply).popQueue p) s
    let s := { s with shadowTurn := match served.getLast? with | some p => (p + 1) % 160 | none => s.shadowTurn }
    s.wr Reg.SEQ_SHADOW_OVERLAP (min (s.rd Reg.SEQ_SHADOW_OVERLAP + hits) (2 ^ 32 - 1)))

end Sys2Proof.Machine
end

