-- ==== Sys2Proof/Machine/Rings.lean ====
section
/-! DEFINITION. Command rings (R36 to R42), the control registers of the sequencers (R39, R43, R44, R48, R89, R92) and the
start points of frame programs (R43). -/

namespace Sys2Proof.Machine

/-- A function reaches a command processor's registers: the PF every one, a VF its own (R394). -/
def cpReach (w n : Nat) : Bool := w = 0 || w = n
/-- A function reaches a head's or frame sequencer's registers: the PF, or the function owning the head (R394). -/
def State.headReach (s : State) (w h : Nat) : Bool := w = 0 || s.headFn h = w

/-! Entries. -/

/-- Fields of a ring entry (R37, R38). -/
def RingEntry.typ (e : RingEntry) : Nat := ofBytes (e.bytes.take 1)
def RingEntry.num (e : RingEntry) (at_ n : Nat) : Nat := ofBytes ((e.bytes.drop at_).take n)
def RingEntry.event (e : RingEntry) : Bool := bitOf (e.num 0 4) 8
def RingEntry.timeoutFault (e : RingEntry) : Bool := bitOf (e.num 0 4) 9
def RingEntry.shown (e : RingEntry) : Bool := bitOf (e.num 0 4) 10
def RingEntry.seqField (e : RingEntry) : Nat := e.num 2 2

/-- Whether the words k to 7 of an `INLINE` entry hold a control transfer or an extended instruction that is split (R38,
R42); `n` bounds the words left. -/
def inlineBad (e : RingEntry) : Nat → Nat → Bool
  | 0, _ => false
  | n + 1, k =>
    let w := BitVec.ofNat 64 (e.num (8 * k) 8)
    let control := match opOf (w.toNat / 2 ^ 56) with
      | some .jmp | some .jcc | some .call | some .ret | some .loop => true
      | _ => false
    if control then true
    else if wantsSecond w then (if n = 0 then true else inlineBad e (n - 1) (k + 2))
    else inlineBad e n (k + 1)

/-- The ring error of an entry (R42), if any: the read, then `SEQ`, then `TYPE`, then the content of `INLINE`. -/
def RingEntry.error (e : RingEntry) : Option Nat :=
  if e.failed then some 0x83
  else if e.seqField ≠ e.index % 2 ^ 16 then some 0x81
  else if 4 < e.typ then some 0x80
  else if e.typ = 2 && inlineBad e 7 1 then some 0x84
  else none

/-- A command processor takes its next entry in hand when it has none: `RUNNING`, or faulted with a ring error; with no
entry read it is `IDLE` (R38, R42). -/
def State.nextEntry (s : State) (n : Nat) : State :=
  let x := s.seq n
  match x.entry, x.ahead with
  | none, e :: rest =>
    let s := s.setSeq n { x with entry := some e, ahead := rest, begun := false, done := false, inl := false }
    match e.error with
    | some c => s.seqFault n c false
    | none => s.setSeqState n 2
  | none, [] => s.setSeqState n 1
  | some _, _ => s

/-- A command processor may read its ring: enabled, not faulted, entries published, fewer than 8 read ahead (R38, R47). -/
def State.mayReadRing (s : State) (n : Nat) : Bool :=
  s.seqEnabled n && s.seqState n ≠ 4 && s.seqState n ≠ 5 && (s.seq n).ahead.length < 8 &&
    (s.seq n).nextRead ≠ s.rd (Reg.CP_DOORBELL n)

/-- A command processor in need of the host while the link is down waits in `LINK_WAIT` (R52). -/
def State.ringLinkWait (s : State) (n : Nat) : State :=
  if (s.seq n).entry.isSome then s
  else (s.setSeq n { s.seq n with linkWait := true }).setSeqState n 5

/-- The next entry has been read, or its read has failed. -/
def State.ringTake (s : State) (n : Nat) (bytes : List Byte) (failed : Bool) : State :=
  let x := s.seq n
  let s := s.setSeq n { x with ahead := x.ahead ++ [⟨x.nextRead, bytes, failed⟩], nextRead := (x.nextRead + 1) % 2 ^ 32,
                               ringRead := none }
  if x.entry.isSome then s else s.nextEntry n

/-- A command processor asks for its next ring entry when it may (R36, R38): translated now with its function's rights; a host
read leaves under that function (R104). -/
def State.ringAsk (s : State) (n : Nat) : State :=
  let x := s.seq n
  let addr := s.ringAddr n x.nextRead
  if !s.mayReadRing n || x.ringRead.isSome then s
  else
    match s.translate n addr .read with
    | .refused p => (s.refusal p n false 2).ringTake n [] true
    | .localMem phys => (s.askMc (160 + n) phys 64).setSeq n { x with ringRead := some ⟨addr, .localMem phys, s.now, 0⟩ }
    | .hostWin fn a =>
      if !s.linkUp then s.ringLinkWait n
      else (s.send (.readRequest fn a 64)).setSeq n
        { x with ringRead := some ⟨addr, .hostWin fn a, s.now, s.now + (s.fn fn).timeout⟩ }

/-- The read of a ring entry in flight returns (R38, R42, R52): its header is checked when the entry comes to be processed. A
host read that ends by timeout while the link is down is made again once the link is back. -/
def State.ringFetched (s : State) (n : Nat) (r : ReadResult) : State :=
  match (s.seq n).ringRead with
  | none => s
  | some rd =>
    match rd.src with
    | .localMem phys =>
      if !s.memOn then s.touchMem
      else if s.unserved (160 + n) phys then s
      else
        match s.localRead phys 64 (r = .uncorrectable) with
        | (s, some bytes) => (s.ringTake n bytes false).ringAsk n
        | (s, none) => (s.ringTake n [] true).ringAsk n
    | .hostWin fn a =>
      (match s.hostAnswer fn a r with
       | .data bytes => (s.ringTake n bytes false).ringAsk n
       | .poisoned => ((s.aerLog fn 1).ringTake n [] true).ringAsk n
       | .timeout =>
         if s.linkUp && s.seqState n ≠ 5 then ((s.aerLog fn 2).ringTake n [] true).ringAsk n
         else (s.setSeq n { s.seq n with ringRead := none }).ringLinkWait n
       | _ => (s.ringTake n [] true).ringAsk n)
    | .register _ => s

/-- The read of a ring entry returns. -/
def execRingEntryFetched (n : FnId) (r : ReadResult) (s : State) : Result := .next (s.ringFetched n r)

/-! The doorbell. -/

/-- `CP_DOORBELL` (R39): a write of P itself changes nothing; another is accepted when it neither moves backwards nor
publishes more than the ring holds, and the ring is read. -/
def State.doorbell (s : State) (n v : Nat) : State :=
  if !s.fbit (Reg.CP_CTL n) Bit.CP_CTL_ENABLE then s
  else
    let p := s.rd (Reg.CP_DOORBELL n)
    let c := s.rd (Reg.CP_CONSUMED n)
    let a := (v + 2 ^ 32 - p) % 2 ^ 32
    let b := (v + 2 ^ 32 - c) % 2 ^ 32
    if a = 0 then s
    else if a ≤ b && b ≤ s.ringSlots n then (s.wr (Reg.CP_DOORBELL n) v).ringAsk n
    else (s.fset (Reg.CP_STATUS n) Bit.CP_STATUS_DB_OVER 1).raise (srcSeqFault n) 3 0 2

/-- A write of `CP_DOORBELL` by function `w` (R39, R40). -/
def execCpDoorbellWrite (w n : FnId) (v : Word) (s : State) : Result :=
  .next (if cpReach w n then s.access (Reg.CP_DOORBELL n) fun s => s.doorbell n v.toNat else s)

/-! Entries in hand. -/

/-- The entry in hand of the given type that has not begun. -/
def State.entryOf (s : State) (n typ : Nat) : Option RingEntry :=
  match (s.seq n).entry with
  | some e => if e.typ = typ && !(s.seq n).begun && s.seqState n = 2 then some e else none
  | none => none

/-- A `NOP` entry completes as soon as it is read (R38). -/
def execRingNop (n : FnId) (s : State) : Result :=
  .next (match s.entryOf n 0 with
    | some _ => s.setSeq n { s.seq n with begun := true, done := true }
    | none => s)

/-- A program begins with the registers of R55. -/
def Seq.start (x : Seq) (regs : List (Nat × DWord)) (pc : Nat) : Seq :=
  { x with regs := regs, z := false, n := false, c := false, v := false, stack := [], pc := pc, waiting := .nothing,
           begun := true, done := false }

/-- A `CALL` entry (R38, R55, R89): six arguments, an empty program buffer, the entry address. -/
def execRingCall (n : FnId) (s : State) : Result :=
  .next (match s.entryOf n 1 with
    | some e =>
      let addr := e.num 8 8
      let args := ((List.range 6).map fun k => (k + 1, BitVec.ofNat 64 (e.num (16 + 8 * k) 8)))
      let x := (s.seq n).start args (addr / 8 % 2 ^ 34)
      let s := s.setSeq n { x with buffer := [], inl := false }
      if addr % 8 ≠ 0 then s.seqFault n 0x03 true
      else if 2 ^ 37 ≤ addr then s.seqFault n 0x04 true
      else s
    | none => s)

/-- An `INLINE` entry runs from the entry itself (R38, R55, R89). -/
def execRingInline (n : FnId) (s : State) : Result :=
  .next (match s.entryOf n 2 with
    | some e => s.setSeq n { (s.seq n).start [] (s.ringAddr n e.index / 8 + 1) with inl := true }
    | none => s)

/-- A `FENCE` entry begins to wait (R38). -/
def execRingFence (n : FnId) (s : State) : Result :=
  .next (match s.entryOf n 3 with
    | some _ => (s.setSeq n { s.seq n with begun := true }).setSeqState n 3
    | none => s)

/-- An entry of the given type that has begun and not completed. -/
def State.entryBegun (s : State) (n typ : Nat) : Option RingEntry :=
  match (s.seq n).entry with
  | some e => if e.typ = typ && (s.seq n).begun && !(s.seq n).done && s.seqState n = 3 then some e else none
  | none => none

/-- The entry in hand has completed. -/
def State.entryDone (s : State) (n : Nat) : State := (s.setSeq n { s.seq n with done := true }).setSeqState n 2

/-- Every `COMMIT` of a command processor has its result, and with `shown` has taken effect (R38). -/
def State.commitsDone (s : State) (q : Nat) (shown : Bool) : Bool :=
  (s.awaited q).all (fun c => c.dry) && (!shown || s.admitted.all fun a => a.by_ ≠ q)

/-- The conditions of a `FENCE` entry hold and its value is written to the target (R38, R46); a target in the host window
waits for the link. -/
def execRingFenceComplete (n : FnId) (s : State) : Result :=
  .next (match s.entryBegun n 3 with
    | some e =>
      if !s.commitsDone n e.shown then s
      else
        let target := e.num 8 8 / 8 * 8
        let bytes := toBytes 8 (e.num 16 8)
        match s.translate n target .write with
        | .hostWin _ _ => if s.linkUp then (s.deviceWrite n target bytes 2).entryDone n else s
        | _ => (s.deviceWrite n target bytes 2).entryDone n
    | none => s)

/-- The test of a `WAIT` entry (R38). -/
def waitHolds (cond word value mask : Nat) : Bool :=
  let a := Nat.land word mask
  let b := Nat.land value mask
  match cond with
  | 0 => b ≤ a
  | 1 => a = b
  | 2 => a ≠ b
  | 3 => a = mask
  | _ => false

/-- The word of a `WAIT` entry is asked for (R38, R42, R52, R104). -/
def State.pollAsk (s : State) (n : Nat) (e : RingEntry) : State :=
  let s := s.setSeq n { s.seq n with polledAt := s.now }
  let addr := e.num 8 8 / 8 * 8
  match s.translate n addr .read with
  | .refused p => (s.refusal p n false 2).seqFault n 0x83 false
  | .localMem phys =>
    (s.askMc (160 + n) phys 8).setSeq n { s.seq n with pollRead := some ⟨addr, .localMem phys, s.now, 0⟩ }
  | .hostWin fn a =>
    if !s.linkUp then (s.setSeq n { s.seq n with linkWait := true }).setSeqState n 5
    else (s.send (.readRequest fn a 8)).setSeq n
      { s.seq n with pollRead := some ⟨addr, .hostWin fn a, s.now, s.now + (s.fn fn).timeout⟩ }

/-- The word of a `WAIT` entry has been read and is compared (R38). -/
def State.pollCompare (s : State) (n : Nat) (e : RingEntry) (bytes : List Byte) : State :=
  if waitHolds (e.num 32 2) (ofBytes (bytes.take 8)) (e.num 16 8) (e.num 24 8) then s.entryDone n else s

/-- The read of a `WAIT` entry in flight returns (R42, R52); one that is late for its entry is dropped. -/
def State.pollReturn (s : State) (n : Nat) (r : ReadResult) : State :=
  match (s.seq n).pollRead with
  | none => s
  | some rd =>
    let t := s.setSeq n { s.seq n with pollRead := none }
    match rd.src with
    | .localMem phys =>
      if !s.memOn then s.touchMem
      else if s.unserved (160 + n) phys then s
      else
        match t.localRead phys 8 (r = .uncorrectable), s.entryBegun n 4 with
        | (t, some bytes), some e => t.pollCompare n e bytes
        | (t, none), some _ => t.seqFault n 0x83 false
        | (t, _), none => t
    | .hostWin fn a =>
      (match s.entryBegun n 4 with
       | none => t
       | some e =>
         match s.hostAnswer fn a r with
         | .data bytes => t.pollCompare n e bytes
         | .poisoned => (t.aerLog fn 1).seqFault n 0x83 false
         | .timeout =>
           if s.linkUp then (t.aerLog fn 2).seqFault n 0x83 false
           else (t.setSeq n { t.seq n with linkWait := true }).setSeqState n 5
         | _ => t.seqFault n 0x83 false)
    | .register _ => t

/-- A `WAIT` entry starts polling: its word is asked for (R38). Of an entry that has begun, the first read of the word returns. -/
def execRingWait (n : FnId) (r : ReadResult) (s : State) : Result :=
  .next (match s.entryOf n 4 with
    | some e =>
      let s := (s.setSeq n { s.seq n with begun := true, waitFrom := s.now }).setSeqState n 3
      s.pollAsk n e
    | none => if (s.entryBegun n 4).isSome && decide ((s.seq n).polledAt = (s.seq n).waitFrom) then s.pollReturn n r else s)

/-- The word of a `WAIT` entry that was asked for is read and compared; with none asked for, it is asked for again once the poll
interval has passed (R38); an interval of 0 is taken as 1 µs. -/
def execRingWaitPoll (n : FnId) (r : ReadResult) (s : State) : Result :=
  .next (
    if (s.seq n).pollRead.isSome then s.pollReturn n r
    else
      match s.entryBegun n 4 with
      | some e => if (s.seq n).polledAt + max 1 (e.num 34 2) * 1000 ≤ s.now then s.pollAsk n e else s
      | none => s)

/-- A `WAIT` entry times out (R37, R38, R42); while its processor stands in `LINK_WAIT` the timeout is suspended (log entry 124). -/
def execRingWaitTimeout (n : FnId) (s : State) : Result :=
  .next (match s.entryBegun n 4 with
    | some e =>
      if e.num 36 4 ≠ 0 && decide ((s.seq n).waitFrom + e.num 36 4 * 1000 ≤ s.now) then
        if e.timeoutFault then s.seqFault n 0x82 false
        else (s.fset (Reg.CP_STATUS n) Bit.CP_STATUS_WAIT_TIMEOUT 1).entryDone n
      else s
    | none => s)

/-- A ring entry completes (R37, R41): `CP_CONSUMED` advances, it is written back by choice of `WB_EN`, the ring's event
is raised with `EVENT`, and the next entry is taken. -/
def execRingEntryComplete (n : FnId) (s : State) : Result :=
  .next (
    let x := s.seq n
    match x.entry with
    | some e =>
      if !x.done then s
      else
        let c := (s.rd (Reg.CP_CONSUMED n) + 1) % 2 ^ 32
        let s := s.wr (Reg.CP_CONSUMED n) c
        let wb := s.rd (Reg.CP_WB_ADDR_LO n) + 2 ^ 32 * s.rd (Reg.CP_WB_ADDR_HI n)
        let s := if s.fbit (Reg.CP_CTL n) Bit.CP_CTL_WB_EN then s.deviceWrite n wb (toBytes 8 c) 2 else s
        let s := if e.event then s.raise (srcRing n) 0 e.index 2 else s
        ((s.setSeq n { s.seq n with entry := none, begun := false, done := false, inl := false }).nextEntry n).ringAsk n
    | none => s)

/-! Control registers. -/

/-- A sequencer without the work it had in hand (R92): its program buffer (R89), issued stores and queued shadow writes stay. -/
def Seq.stopped (x : Seq) : Seq := { Seq.reset with buffer := x.buffer, stores := x.stores, shadowQ := x.shadowQ }

/-- A sequencer stops at once (R92): what it waits for is abandoned; issued stores, queued shadow writes and issued
`CHECK`s and `COMMIT`s go on. -/
def State.stopSeq (s : State) (q : Nat) : State :=
  (s.setSeq q { (s.seq q).stopped with nextTicket := (s.seq q).nextTicket }).setSeqState q 0

/-- A sequencer whose `ENABLE` rises from 0: its tickets start at zero (R86). -/
def State.startSeq (s : State) (q : Nat) : State := (s.setSeq q (s.seq q).stopped).setSeqState q 1

/-- `CP_CTL.RESUME` (R48): a faulted command processor reads the faulting entry again, or with `SKIP` counts it as
completed. -/
def State.cpResume (s : State) (n : Nat) (skip : Bool) : State :=
  if s.seqState n ≠ 4 then s
  else
    let x := s.seq n
    match x.entry with
    | some e =>
      if skip then (s.setSeq n { x with begun := true, done := true, waiting := .nothing, stack := [] }).setSeqState n 2
      else
        ((s.setSeq n { x with entry := none, ahead := [], nextRead := e.index, begun := false, done := false, inl := false,
                              waiting := .nothing, ringRead := none, pollRead := none }).setSeqState n 1).ringAsk n
    | none => (s.setSeqState n 1).ringAsk n

/-- A write of `CP_CTL` (R39, R48, R92). -/
def State.cpCtlWrite (s : State) (n v : Nat) : State :=
  let old := s.fbit (Reg.CP_CTL n) Bit.CP_CTL_ENABLE
  let en := bitOf v 0
  let s := s.wr (Reg.CP_CTL n) (b2n en + 8 * b2n (bitOf v 3))
  let s :=
    if en && !old then ((s.wr (Reg.CP_DOORBELL n) 0).wr (Reg.CP_CONSUMED n) 0).startSeq n
    else if old && !en then s.stopSeq n
    else s
  if en && bitOf v 1 then s.cpResume n (bitOf v 2) else s

/-- A write of `CP_CTL` that sets or clears `ENABLE` (R92). -/
def execCpEnable (w n : FnId) (v : Word) (s : State) : Result :=
  .next (if cpReach w n then s.access (Reg.CP_CTL n) fun s => s.cpCtlWrite n v.toNat else s)

/-- The word that sets further bits of `CP_CTL` over its present value. -/
def State.cpCtlWith (s : State) (n bits : Nat) : Nat := s.rd (Reg.CP_CTL n) + bits

/-- A write of `CP_CTL.RESUME` (R48). -/
def execCpResume (w n : FnId) (s : State) : Result :=
  .next (if cpReach w n then s.access (Reg.CP_CTL n) fun s => s.cpCtlWrite n (s.cpCtlWith n 2) else s)

/-- A write of `CP_CTL.RESUME` with `SKIP` (R48). -/
def execCpResumeSkip (w n : FnId) (s : State) : Result :=
  .next (if cpReach w n then s.access (Reg.CP_CTL n) fun s => s.cpCtlWrite n (s.cpCtlWith n 6) else s)

/-- A command processor in `LINK_WAIT` issues its access again once the link is up and its function's Bus Master Enable is
set (R52, R72, R331). -/
def execCpLinkResume (n : FnId) (s : State) : Result :=
  .next (
    let x := s.seq n
    if s.seqState n = 5 && s.hostReachable n then
      let s := s.setSeq n { x with linkWait := false }
      match x.entry with
      | none => (s.setSeqState n 1).ringAsk n
      | some e =>
        let s := (s.setSeqState n (if (e.typ = 4 || e.typ = 3) && x.begun then 3 else 2)).ringAsk n
        if e.typ = 4 && x.begun && x.pollRead.isNone then s.pollAsk n e else s
    else s)

/-- The start line in force of a head: a value at or above the vertical total acts as 0 (R43). -/
def State.startLine (s : State) (h : Nat) : Nat :=
  let l := s.fget (Reg.FSQ_CTL h) Bit.FSQ_CTL_START_LINE
  if s.vtotal h ≤ l then 0 else l

/-- A run of the frame program begins at `FSQ_ENTRY` with `g1` to `g15` at zero (R43, R55). -/
def State.startRun (s : State) (h : Nat) : State :=
  let q := 32 + h
  let pc := (s.rd (Reg.FSQ_ENTRY_LO h) + 2 ^ 32 * s.rd (Reg.FSQ_ENTRY_HI h)) / 8
  (s.setSeq q { (s.seq q).start [] pc with runStart := s.now, linkWait := false }).setSeqState q 2

/-- A head reaches its start point (R43, R44, R48): a waiting frame sequencer starts a run; a faulted one restarts by choice
of `AUTO_RESTART` while fewer than three runs have faulted; a run in progress is an overrun unless `FREE_RUN`. -/
def execFsqStartPoint (h : HeadId) (s : State) : Result :=
  .next (
    let q := 32 + h.val
    let st := s.seqState q
    if !(s.headRunning h && (s.head h).line = s.startLine h && s.seqEnabled q) then s
    else if st = 1 then s.startRun h
    else if st = 4 then
      if s.fbit (Reg.FSQ_CTL h) Bit.FSQ_CTL_AUTO_RESTART &&
          s.fget (Reg.FSQ_STATUS h) Bit.FSQ_STATUS_FAULT_RUNS < 3 then s.startRun h
      else s
    else if st = 0 || s.fbit (Reg.FSQ_CTL h) Bit.FSQ_CTL_FREE_RUN then s
    else
      let s := s.fset (Reg.FSQ_STATUS h) Bit.FSQ_STATUS_OVERRUN 1
      (s.fsat (Reg.FSQ_STATUS h) Bit.FSQ_STATUS_OVERRUN_COUNT).raise (srcSeqFault q) 2 0 2)

/-- A write of `FSQ_CTL` (R43, R48, R89, R92). -/
def State.fsqCtlWrite (s : State) (h v : Nat) : State :=
  let q := 32 + h
  let old := s.seqEnabled q
  let en := bitOf v 0
  let s := s.wr (Reg.FSQ_CTL h) (b2n en + 4 * b2n (bitOf v 2) + 8 * b2n (bitOf v 3) + 2 ^ 16 * getBits v 16 14)
  let s := if en && !old then s.startSeq q else if old && !en then s.stopSeq q else s
  if bitOf v 1 then
    let s := s.setSeq q { s.seq q with buffer := [] }
    if s.seqState q = 4 then s.setSeqState q 1 else s
  else s

/-- A write of `FSQ_CTL` that sets or clears `ENABLE` (R92). -/
def execFsqEnable (w : FnId) (h : HeadId) (v : Word) (s : State) : Result :=
  .next (if s.headReach w h then s.access (Reg.FSQ_CTL h) fun s => s.fsqCtlWrite h v.toNat else s)

/-- A write of `FSQ_CTL.RESTART`: leaves `FAULTED` and invalidates the program buffer (R48, R89). -/
def execFsqRestart (w : FnId) (h : HeadId) (s : State) : Result :=
  .next (if s.headReach w h then s.access (Reg.FSQ_CTL h) fun s => s.fsqCtlWrite h (setBits (s.rd (Reg.FSQ_CTL h)) 1 1 1) else s)

/-- A write of `FSQ_ENTRY_LO` or `_HI`: it applies from the next run and invalidates the program buffer (R89). -/
def State.fsqEntryWrite (s : State) (h : Nat) (hi : Bool) (v : Nat) : State :=
  let s := s.setSeq (32 + h) { s.seq (32 + h) with buffer := [] }
  if hi then s.wr (Reg.FSQ_ENTRY_HI h) (v % 32) else s.wr (Reg.FSQ_ENTRY_LO h) (v / 8 * 8)

/-- A write of `FSQ_ENTRY` (R89). -/
def execFsqEntryWrite (w : FnId) (h : HeadId) (hi : Bool) (v : Word) (s : State) : Result :=
  .next (if s.headReach w h then s.access (Reg.FSQ_ENTRY_LO h) fun s => s.fsqEntryWrite h hi v.toNat else s)

end Sys2Proof.Machine
end

