-- ==== Sys2Proof/Machine/Verdict.lean ====
section
/-! DEFINITION. `CHECK`, `COMMIT` and `ABORT` (R83 to R87), bench commits (R50), and the verdicts of Ephemeris (R213, R223
to R225). -/

namespace Sys2Proof.Machine

/-! Issue. -/

/-- A commit joins those that await their results. -/
def State.addCommit (s : State) (by_ fn ticket mask : Nat) (dry bench : Bool) (result : Nat) (target : Option Nat) : State :=
  let c : Commit :=
    { id := s.nextCommit, by_ := by_, fn := fn, ticket := ticket, mask := mask, dry := dry, result := result,
      target := target, issue := s.now, snap := s.shadow, bench := bench, arrived := false, tS := none, sampled := [],
      sampledDrives := [], sampledRoles := [], sampledSubst := [], sources := [], occlusion := ⟨[], []⟩, mapRefused := false, verdict := none, frame := 0 }
  { s with nextCommit := s.nextCommit + 1, commits := s.commits ++ [c] }

/-- A commit's result has been delivered. -/
def State.told (s : State) (id : Nat) : State :=
  { s with commits := s.commits.filter fun d => decide (d.id ≠ id),
           admitted := s.admitted.map fun (a : Admitted) => if a.id = id then { a with told := true } else a }

/-- The instruction may not issue yet: shadow writes of its sequencer wait (R81), or four results do (R86). -/
def State.commitWaits (s : State) (q : Nat) : Bool := decide ((s.seq q).shadowQ ≠ []) || decide (4 ≤ (s.awaited q).length)

/-- The response to a result address at issue (R72, R83, R94): none when it may be written later. -/
def State.resultRefused (s : State) (q a : Nat) : Option State :=
  if a = 0 then none
  else
    match s.translate (s.seqFn q) a .write with
    | .refused p => some ((s.refusal p (s.seqFn q) true 2).seqFault q 0x05 true)
    | .localMem _ => none
    | .hostWin .. => if s.linkUp then none else some (s.hostDown q)

/-- Bench mode holds. -/
def State.bench (s : State) : Bool := s.fbit Reg.SYS_BENCH_CTL Bit.SYS_BENCH_CTL_BENCH_EN

/-- `CHECK` and `COMMIT` (R83 to R86). -/
def State.commitInstr (s : State) (q : Nat) (dry : Bool) (i : Atcia) : State :=
  let x := s.seq q
  let a := (x.reg i.b).toNat
  match s.groupMask q (x.reg i.a) with
  | .error c => s.seqFault q c true
  | .ok mask =>
    match resultAddressFault a with
    | some c => s.seqFault q c true
    | none =>
      match s.resultRefused q a with
      | some s' => s'
      | none =>
        if s.commitWaits q then s
        else
          let target := if i.ctl.getLsbD 1 then some ((x.reg i.d).toNat % 2 ^ 32) else none
          let t := x.nextTicket
          let s' := s.addCommit q (s.seqFn q) t mask dry s.bench a target
          let x := { x with nextTicket := (t + 1) % 2 ^ 16 }
          if i.ctl.getLsbD 0 then (s'.setSeq q { x with waiting := .result i.d s.nextCommit }).setSeqState q 3
          else s'.retire q i (x.setReg i.d (BitVec.ofNat 64 t))

/-- `CHECK` (R83). -/
def execCheck (q : SeqId) (s : State) : Result := .next (s.issue q .check fun i => s.commitInstr q true i)
/-- `COMMIT` (R83). -/
def execCommit (q : SeqId) (s : State) : Result := .next (s.issue q .commit fun i => s.commitInstr q false i)

/-- A result is the next of its sequencer in ticket order (R86). -/
def State.firstOf (s : State) (c : Commit) : Bool :=
  match s.commits.find? (·.by_ = c.by_) with
  | some d => d.id = c.id
  | none => false

/-- The commit with an identifier. -/
def State.commit (s : State) (id : Nat) : Option Commit := s.commits.find? (·.id = id)
/-- The state with a commit replaced. -/
def State.putCommit (s : State) (c : Commit) : State :=
  { s with commits := s.commits.map fun d => if d.id = c.id then c else d }

/-- The result word (R85). -/
def resultWord (code : Nat) (dry : Bool) (ticket frame : Nat) : Nat :=
  code + b2n dry * 16 + 2 ^ 16 * ticket + (if code ≤ 1 then 2 ^ 32 * (frame % 2 ^ 32) else 0)

/-- A result is delivered (R83): the word, the event, then a waiting instruction completes. -/
def execCommitResult (id : Nat) (s : State) : Result :=
  .next (
    match s.commit id with
    | some c =>
      match c.verdict with
      | some code =>
        if 160 ≤ c.by_ || !s.firstOf c then s
        else
          let w := resultWord code c.dry c.ticket c.frame
          let s := if c.result = 0 then s else s.deviceWrite c.fn c.result (toBytes 8 w) 4
          let s := s.raise (srcCommitResult c.by_) 0 (c.ticket + 2 ^ 16 * code) 4
          let s := s.told id
          match (s.seq c.by_).waiting with
          | .result d n =>
            if n = id then s.resume c.by_ (((s.seq c.by_).setReg d (BitVec.ofNat 64 w)).setVerdict code) else s
          | _ => s
      | none => s
    | none => s)

/-- `ABORT` (R87): waits for its sequencer's shadow writes, then for the results of its commits. -/
def execAbort (q : SeqId) (s : State) : Result :=
  .next (s.issue q .abort fun i =>
    let x := s.seq q
    match s.groupMask q (x.reg i.a) with
    | .error c => s.seqFault q c true
    | .ok mask =>
      if x.shadowQ ≠ [] then s else (s.setSeq q { x with waiting := .abort mask }).setSeqState q 3)

/-- The copy of `ABORT` (R87): the newest admitted state over the shadow copy of every object that a commit carries. -/
def execAbortCopy (q : SeqId) (s : State) : Result :=
  .next (
    match (s.seq q).waiting with
    | .abort mask =>
      if (s.awaited q).any fun c => !c.dry && decide ((groupsOf c.mask).any fun g => bitOf mask g) then s
      else
        let s' := { s with shadow := overlay s.shadow s.newest (carries s.shadow s.newest (groupsOf mask)) }
        s'.resume q (s.seq q)
    | _ => s)

/-! Bench mode (R50). -/

/-- A write of `SYS_BENCH_CTL` (R50). -/
def State.benchEn (s : State) (v : Nat) : State :=
  let s := if bitOf v 1 then s.fset Reg.SYS_BENCH_CTL Bit.SYS_BENCH_CTL_BENCH_REFUSED 0 else s
  if !bitOf v 0 then s.fset Reg.SYS_BENCH_CTL Bit.SYS_BENCH_CTL_BENCH_EN 0
  else if s.bench then s
  else if (List.range 160).all fun q => s.seqState q = 0 then s.fset Reg.SYS_BENCH_CTL Bit.SYS_BENCH_CTL_BENCH_EN 1
  else s.fset Reg.SYS_BENCH_CTL Bit.SYS_BENCH_CTL_BENCH_REFUSED 1

/-- A write of `SYS_BENCH_CTL` by the PF. -/
def execBenchEnWrite (v : Word) (s : State) : Result :=
  .next (s.access Reg.SYS_BENCH_CTL fun s => s.benchEn v.toNat)

/-- A write of `SYS_BENCH_COMMIT` (R50): Ephemeris is asked to admit the groups. -/
def State.benchCommit (s : State) (v : Nat) : State :=
  if s.bench && decide (v ≠ 0) && !s.fbit Reg.SYS_BENCH_RESULT Bit.SYS_BENCH_RESULT_BUSY then
    (s.addCommit 160 0 0 v false true 0 none).fset Reg.SYS_BENCH_RESULT Bit.SYS_BENCH_RESULT_BUSY 1
  else s

/-- A write of `SYS_BENCH_COMMIT` by the PF. -/
def execBenchCommit (v : Word) (s : State) : Result :=
  .next (s.access Reg.SYS_BENCH_COMMIT fun s => s.benchCommit v.toNat)

/-- The result of a bench commit reaches `SYS_BENCH_RESULT` (R50). -/
def execBenchResult (id : Nat) (s : State) : Result :=
  .next (
    match s.commit id with
    | some c =>
      match c.verdict with
      | some code =>
        if c.by_ < 160 || !s.firstOf c then s
        else
          let s := s.told id
          let s := s.fset Reg.SYS_BENCH_RESULT Bit.SYS_BENCH_RESULT_RESULT code
          s.fset Reg.SYS_BENCH_RESULT Bit.SYS_BENCH_RESULT_BUSY (b2n (s.commits.any (·.by_ = 160)))
      | none => s
    | none => s)

/-! Arrival and evaluation (R223). -/

/-- `EPH_QUEUE` and the `EVAL` bits after a change of the commits. -/
def State.ephQueue (s : State) : State :=
  let waiting := (s.commits.filter fun c => c.arrived && c.tS.isNone).length
  let evals := s.commits.filter fun c => c.tS.isSome && c.verdict.isNone
  let busy := groupsOf (evals.foldl (fun a c => a ||| c.mask) 0)
  let s := s.fset Reg.EPH_QUEUE Bit.EPH_QUEUE_WAITING waiting
  let s := s.fset Reg.EPH_QUEUE Bit.EPH_QUEUE_BUSY busy.length
  (List.range 32).foldl (fun s g =>
    s.fset (Reg.EPH_GRP_STATUS g) Bit.EPH_GRP_STATUS_EVAL (b2n (decide (g ∈ busy)))) s

/-- A commit arrives at island 4 (R223). One crossing delivers in the order sent (R12), so no sequencer's commit arrives
before one that issued earlier; the commits are kept in the order of their arrival. -/
def execEphArrival (id : Nat) (s : State) : Result :=
  .next (
    match s.commit id with
    | some c =>
      if c.arrived || (s.commits.any fun d =>
          !d.arrived && decide (d.id < c.id) && decide (d.by_ < 160) == decide (c.by_ < 160)) then s
      else
        let others := s.commits.filter fun d => !d.arrived && decide (d.id ≠ id)
        State.ephQueue { s with commits := (s.commits.filter (·.arrived)) ++ [{ c with arrived := true }] ++ others }
    | none => s)

/-- Two masks name a common group. -/
def sharesGroup (a b : Nat) : Bool := (groupsOf a).any fun g => bitOf b g

/-- An earlier arrival naming a common group is waiting or in evaluation (R223). -/
def State.engineTaken (s : State) (c : Commit) : Bool :=
  (s.commits.takeWhile fun d => decide (d.id ≠ c.id)).any fun d =>
    d.arrived && d.verdict.isNone && sharesGroup d.mask c.mask

/-- Evaluation starts at t_s (R214, R223): the inputs are sampled; poisoned words met in this are recorded (R101). -/
def execEphEvalStart (id : Nat) (s : State) : Result :=
  .next (
    match s.commit id with
    | some c =>
      if !c.arrived || c.tS.isSome || s.engineTaken c then s
      else
        let new := newView c.snap s.newest (groupsOf c.mask)
        let heads := groupHeads new (groupsOf c.mask)
        let ls := (layersIn new).filter fun sl => decide (lyr new sl Lyr.HEAD ∈ heads) || decide (lyr s.newest sl Lyr.HEAD ∈ heads)
        let refused := (ls.filter fun sl => isClt new sl && !decidesBad new sl).any fun sl => (s.occupancy new sl).isNone
        let c := { c with
          tS := some s.now, sampled := s.regs, sampledDrives := s.drives, sampledRoles := s.pipeRoles,
          sampledSubst := s.pipeSubst, sources := ls.map fun sl => (sl, s.sourcesOf new sl),
          occlusion := s.occlude new ls, mapRefused := refused }
        let used := ls.filter fun sl => !decidesBad new sl
        (((s.poisonRead new used).foldl State.uncorrectable s).putCommit c).ephQueue
    | none => s)

/-- T_E (R223). -/
def evalTime (m : View) (heads : List Nat) : Nat :=
  min 400000 (4000 + sumOf (heads.map fun h => 8416 + 132 * (headLayers m h).length))

/-! Placement in time (R84, R224, R225). -/

/-- A group's vertical total or pixel rate changes for a running member (R224). -/
def State.retimed (s : State) (newest new : View) (g : Nat) : Bool :=
  (membersOf new g).any fun h =>
    s.headRunning h && decide (hdf newest h Hd.HEAD_EN = 1) && decide (hdf new h Hd.HEAD_EN = 1) &&
      (decide (vtotalOf newest h ≠ vtotalOf new h) || decide (s.pixelRate newest h ≠ s.pixelRate new h) ||
        decide (hdf newest h Hd.CD_SEL ≠ hdf new h Hd.CD_SEL))

/-- The member of a group whose boundaries are those of the group; none while every member is stopped (R235). -/
def State.clockHead (s : State) (m : View) (g : Nat) : Option Nat := (membersOf m g).find? fun h => (s.baseOf h).isSome

/-- Where a commit takes effect: frames by group, by head, the end of the latch window, the reference head's frame. -/
structure Placement where
  frames : List (Nat × Nat × Nat)
  headFrames : List (Nat × Nat)
  windowEnd : Nat
  frame : Nat
deriving DecidableEq, Repr

/-- The frame of a head whose boundary lies at time t: of a stopped head, one above its last (R235). -/
def State.frameAt (s : State) (h t : Nat) : Nat :=
  match s.baseOf h with
  | some (f0, _) => s.firstFrame h (t - 100) 200000 f0
  | none => (s.head h).frame + 1

/-- The lowest member of a group in a copy. -/
def leastMember (m : View) (g : Nat) : Nat := (membersOf m g).headD 0

/-- The placement with the reference group's boundary at time `t` (R224, R225, R235); `w` ends the latch window of a reference
group that is stopped. A stopped group other than it starts at the first edge at or after `t`. -/
def State.placeAt (s : State) (newest new : View) (groups : List Nat) (t w : Nat) : Placement :=
  let g0 := groups.headD 0
  let times := groups.map fun g =>
    match s.clockHead new g with
    | some k =>
      let t' := if g = g0 then t else s.boundaryOf k (s.firstFrame k t 200000 ((s.baseOf k).getD (0, 0)).1)
      (g, t', if s.retimed newest new g then s.boundaryOf k (s.frameAt k t' - 1) else t')
    | none => if g = g0 then (g, t, w) else (g, s.startAfter new (leastMember new g) (max w (t - 1)), t)
  let least := leastMember
  { frames := times.map fun x => (x.1, s.frameAt (least new x.1) x.2.1, x.2.1)
    headFrames := times.flatMap fun x => (membersOf new x.1).map fun h => (h, s.frameAt h x.2.1)
    windowEnd := (times.map (·.2.2)).foldl min ((times.map (·.2.2)).headD t)
    frame := s.frameAt (least new g0) t }

/-- A placement falls at or before the frame of an earlier admitted commit of one of its groups (R225). -/
def State.conflicts (earlier : List Admitted) (p : Placement) : Bool :=
  earlier.any fun a => a.frames.any fun x => p.frames.any fun y => x.1 = y.1 && decide (y.2.2 ≤ x.2.2)

/-- The first boundary at or after that of frame f of the reference group's clock head that meets no conflict; `n` bounds
the search. -/
def State.placeFrom (s : State) (newest new : View) (groups : List Nat) (k : Nat) (earlier : List Admitted) :
    Nat → Nat → Placement
  | 0, f => s.placeAt newest new groups (s.boundaryOf k f) (s.boundaryOf k f)
  | n + 1, f =>
    let p := s.placeAt newest new groups (s.boundaryOf k f) (s.boundaryOf k f)
    if State.conflicts earlier p then s.placeFrom newest new groups k earlier n (f + 1) else p

/-- A stopped reference group with the latch window ending at `w` (R235); after an earlier commit of one of the groups when its
placement would fall at or before that one's (R225). -/
def State.placeStart (s : State) (newest new : View) (groups : List Nat) (earlier : List Admitted) (w : Nat) : Placement :=
  let rh := leastMember new (groups.headD 0)
  let p := s.placeAt newest new groups (s.startAfter new rh w) w
  if State.conflicts earlier p then
    let w := maxOf (w :: earlier.flatMap fun a => (a.frames.filter fun x => groups.contains x.1).map fun x => x.2.2)
    s.placeAt newest new groups (s.startAfter new rh w) w
  else p

/-- How a commit is placed (R84, R224, R225, R235): the placement, and whether it was delayed; none when the target lies
too far ahead. -/
def State.placeCommit (s : State) (c : Commit) (newest new : View) : Option (Placement × Bool) :=
  let groups := groupsOf c.mask
  let heads := groupHeads new groups
  let g0 := groups.headD 0
  let rh := (membersOf new g0).headD 0
  let extra := maxOf (groups.map fun g =>
    match s.retimed newest new g, s.clockHead new g with
    | true, some k => ceilDiv (s.framePeriod newest k (vtotalOf newest k)) 65536
    | _, _ => 0)
  let ready := (c.tS.getD c.issue) + evalTime new heads + 20000 + extra
  match s.clockHead new g0 with
  | some k =>
    let e := s.firstFrame k ready 65536 ((s.baseOf k).getD (0, 0)).1
    let eRef := s.frameAt rh (s.boundaryOf k e)
    let ahead := match c.target with | some f => (f + 2 ^ 32 - eRef % 2 ^ 32) % 2 ^ 32 | none => 0
    let early := decide (2 ^ 31 ≤ ahead)
    let ahead := if early then 0 else ahead
    if 65535 < ahead then none
    else
      let first := s.placeAt newest new groups (s.boundaryOf k (e + ahead)) (s.boundaryOf k (e + ahead))
      let p := s.placeFrom newest new groups k s.admitted 65536 (e + ahead)
      some (p, early || decide (p ≠ first))
  | none =>
    let e := (s.head rh).frame + 1
    let ahead := match c.target with | some f => (f + 2 ^ 32 - e % 2 ^ 32) % 2 ^ 32 | none => 0
    let early := decide (2 ^ 31 ≤ ahead)
    let ahead := if early then 0 else ahead
    if 65535 < ahead then none
    else
      let period := s.framePeriod new rh (vtotalOf new rh)
      let w := ready + ahead * period / 65536
      let p := s.placeStart newest new groups s.admitted w
      some (p, early || decide (w < p.windowEnd))

/-! Verdicts. -/

/-- The registers that show what Ephemeris holds (R142, R220, R222, R223). -/
def State.showHeld (s : State) : State :=
  let s := s.fset Reg.EPH_DEMAND_LOCAL Bit.EPH_DEMAND_LOCAL_DEMAND (s.totalOf [] (·.localPeak))
  let s := s.fset Reg.EPH_DEMAND_HOST Bit.EPH_DEMAND_HOST_DEMAND (s.totalOf [] (·.hostPeak))
  let s := (List.range 36).foldl (fun s p =>
    s.fset (Reg.FET_PIPE_QUOTA p) Bit.FET_PIPE_QUOTA_QUOTA (s.totalOf [] fun x => x.part p (·.tags))) s
  let s := s.fset Reg.FET_TAG_RESERVED Bit.FET_TAG_RESERVED_RESERVED
    (sumOf ((List.range 36).map fun p => s.totalOf [] fun x => x.part p (·.tags)))
  let s := (List.range 32).foldl (fun s f =>
    s.fset (Reg.EPH_FN_USED f) Bit.EPH_FN_USED_USED
      (sumOf (((List.range 32).filter fun g => s.groupFn g = f).map fun g => s.groupMax [] g (·.localPeak)))) s
  (List.range 32).foldl (fun s g =>
    let pend := s.admitted.filterMap fun a => a.frames.find? (·.1 = g)
    let s := s.fset (Reg.EPH_GRP_STATUS g) Bit.EPH_GRP_STATUS_PENDING (min 15 pend.length)
    s.wr (Reg.EPH_GRP_NEXT g) (match pend with | x :: _ => x.2.1 | [] => s.rd (Reg.EPH_GRP_FRAME g))) s

/-- The machine with the inputs that were sampled at t_s (R214). -/
def State.atSampling (s : State) (c : Commit) : State :=
  { s with regs := c.sampled, drives := c.sampledDrives, pipeRoles := c.sampledRoles, pipeSubst := c.sampledSubst }

/-- A layer's plan-default burst lies above 4 MiB (R156). -/
def burstTooLarge (new : View) (plans : List (Nat × GroupPlan)) : Bool :=
  plans.any fun p => p.2.bursts.any fun b => decide (4194304 < b.2) && decide (lyr new (b.1 / 64) Lyr.AP_BURST = 0)

/-- What step of R213 a commit comes to: a refusal's code, or the plans with their items placed. -/
def State.judge (s : State) (c : Commit) : Nat × List (Nat × GroupPlan) × View :=
  let groups := groupsOf c.mask
  let newest := s.newest
  let new := newView c.snap newest groups
  let f := s.atSampling c
  let k : Case := ⟨new, newest, groups, c.sources, c.occlusion⟩
  if k.badProg f c.snap || c.mapRefused then (8, [], new)
  else if k.badFmt f then (7, [], new)
  else
    let plans := groups.map fun g => (g, f.groupPlan k g)
    if burstTooLarge new plans then (7, [], new)
    else if (s.placeCommit c newest new).isNone then (8, [], new)
    else if s.noPipe f k plans then (6, [], new)
    else if k.noDepth then (4, [], new)
    else if s.noBw f k plans then (2, [], new)
    else
      match s.placePlans f plans with
      | .noPlate => (5, [], new)
      | .noLine => (3, [], new)
      | .ok items =>
        (0, plans.map fun p => (p.1, { p.2 with items := items.filter fun i => p.2.items.any fun j =>
          j.head = i.head && j.pipe = i.pipe && j.slot = i.slot }), new)

/-- Islands that hold state for the heads of a commit (R20, R226): the memory controllers, those that serve their pipes in the
old and new state, their lane groups. -/
def State.islandsFor (s : State) (old new : View) (heads : List Nat) : List Nat :=
  sortNat (uniq ((List.range 16).map islandMc ++ heads.flatMap (fun h => (pipesOf new h).map s.pipeIsland) ++
    (heads.filter fun h => hdf old h Hd.HEAD_EN = 1).flatMap (fun h => (pipesOf old h).map s.pipeIsland) ++
    heads.map islandHead))

/-- The value that LTR reports, ns; 0 with the requirement bits clear (R350). -/
def State.ltrValue (s : State) : Nat :=
  let st := s.fget Reg.PWR_STATUS Bit.PWR_STATUS_STATE
  let host := (s.activePlans.any fun e => !e.2.hostLayers.isEmpty) ||
    s.admitted.any fun a => a.plans.any fun e => !e.2.hostLayers.isEmpty
  if 4 ≤ st then 0
  else if st = 3 then 1000000
  else if host then 1000 * s.fget Reg.FET_CTL Bit.FET_CTL_HOST_LAT
  else 100000

/-- An LTR message is sent when its value has changed (R324). -/
def State.ltrCheck (s : State) : State :=
  if s.ltrValue = s.ltrSent || !s.linkUp then s else { s with ltrSent := s.ltrValue }.send (.ltr s.ltrValue)

/-- The verdict stage answers one commit (R213, R223). -/
def execEphVerdict (id : Nat) (s : State) : Result :=
  .next (
    match s.commit id with
    | some c =>
      if c.tS.isNone || c.verdict.isSome then s
      else
        let groups := groupsOf c.mask
        let (code, plans, new) := s.judge c
        let newest := s.newest
        let done (s : State) (code frame : Nat) : State :=
          let c := { c with
            verdict := some code, frame := frame, sampled := [], sampledDrives := [], sampledRoles := [], sampledSubst := [] }
          let s := (s.putCommit c).ephQueue
          groups.foldl (fun s g => s.fset (Reg.EPH_GRP_STATUS g) Bit.EPH_GRP_STATUS_LAST_RESULT code) s
        if code ≠ 0 then done s code 0
        else
          match s.placeCommit c newest new with
          | none => done s 8 0
          | some (p, late) =>
            let code := b2n late
            if c.dry then done s code p.frame
            else
              let a : Admitted :=
                { id := c.id, by_ := c.by_, fn := c.fn, ticket := c.ticket, mask := c.mask, result := c.result,
                  issue := c.issue, view := new, bench := c.bench, frames := p.frames, headFrames := p.headFrames,
                  windowEnd := p.windowEnd, extra := groups.any (s.retimed newest new), plans := plans, opened := false,
                  waitOk := true, waited := [], exhausted := [], told := false,
                  need := s.islandsFor newest new (groupHeads new groups), copies := [], acked := [], decision := none,
                  decided := [], switched := [] }
              (done { s with admitted := s.admitted ++ [a] } code p.frame).touchMem.showHeld.ltrCheck.draw
    | none => s)

/-- The class GC bucket is refilled at every multiple of 1,000 ns (R217). -/
def execGcBucketRefill (s : State) : Result := .next s.gcRefill

end Sys2Proof.Machine
end

