-- ==== Sys2Proof/Machine/Drives.lean ====
section
/-! DEFINITION. Clock Drives, references and the spare drive (R255 to R273), the Sidereal Clock (R274 to R276). -/

namespace Sys2Proof.Machine

/-- Status of drive n: its register. -/
def cdStatus (n : Nat) : Nat := Reg.CD_STATUS n
/-- `STATE` of a drive: 0 `OFF`, 1 `RELOCK`, 2 `FREE`, 3 `ACQUIRE`, 4 `LOCKED`, 5 `HOLDOVER`, 6 `FAILED`. -/
def State.cdState (s : State) (n : Nat) : Nat := s.fget (cdStatus n) Bit.CD_STATUS_STATE
def State.setCdState (s : State) (n v : Nat) : State := s.fset (cdStatus n) Bit.CD_STATUS_STATE v
/-- `REF_SEL` of a drive. -/
def State.refSel (s : State) (n : Nat) : Nat := s.fget (Reg.CD_CTL n) Bit.CD_CTL_REF_SEL
/-- The drive follows a frame pulse. -/
def State.refPulse (s : State) (n : Nat) : Bool := s.fbit (Reg.CD_CTL n) Bit.CD_CTL_REF_KIND

/-- Running heads of a drive. -/
def State.headsOf (s : State) (n : Nat) : List Nat :=
  (List.range 128).filter fun h => s.headRunning h && decide (hdf s.active h Hd.CD_SEL = n)

/-- The permitted slope in ppm/s, as numerator and denominator (R263): the least of the drive's or the segment's, 2,000, and
80,000 ÷ P² with P the longest frame period of the running heads in ms. -/
def State.slopeOf (s : State) (n : Nat) : Nat × Nat :=
  let own := min 2000 (if s.fbit (Reg.CD_PROF_CTL n) Bit.CD_PROF_CTL_RUNNING
    then s.fget (Reg.CD_PROF_SEG n (s.fget (Reg.CD_PROF_CTL n) Bit.CD_PROF_CTL_SEG)) Bit.CD_PROF_SEG_SLOPE
    else s.fget (Reg.CD_SLOPE n) Bit.CD_SLOPE_SLOPE)
  let p := maxOf ((s.headsOf n).map fun h => s.framePeriod s.active h (s.vtotal h))
  let top := 80000 * 65536000000 ^ 2
  if own * (p * p) ≤ top then (own, 1) else (top, p * p)

/-- The present divider value, times 2³²: on its ramp at the permitted slope (R261). -/
def State.dividerNow (s : State) (n : Nat) : Nat :=
  let x := s.drive n
  let r := s.slopeOf n
  let reach := x.rampFrom * r.1 * (s.now - x.rampAt) / (r.2 * 1000000000000000)
  if x.rampFrom ≤ x.rampTo then min x.rampTo (x.rampFrom + reach) else max x.rampTo (x.rampFrom - reach)

/-- The ramp turns to a new value from where it stands. -/
def State.rampTo (s : State) (n v : Nat) : State :=
  s.setDrive n { s.drive n with rampFrom := s.dividerNow n, rampAt := s.now, rampTo := v }
/-- The ramps go on from where they stand: what has passed keeps the slope that held then (R263). -/
def State.settle (s : State) : State :=
  (List.range 9).foldl (fun s n => if (s.drive n).rampFrom = (s.drive n).rampTo then s else s.rampTo n (s.drive n).rampTo) s

/-- T_line of a head at the present value of its drive's divider, 2⁻¹⁶ ns (R139, R140). -/
def State.lineTimeNow (s : State) (m : View) (h : Nat) : Nat :=
  let n := hdf m h Hd.CD_SEL
  let v := s.dividerNow n
  if v = 0 then s.lineTime m h
  else
    let r := s.pixelRate m h
    2 ^ 16 * (htotal m h * 1000000000 * r.2 * (s.drive n).divider) / (r.1 * v)

/-- A head's drive is gated: the head stalls (R260). -/
def State.stalled (s : State) (h : Nat) : Bool := (s.drive (hdf s.active h Hd.CD_SEL)).gated

/-- A value lies in the fine range about the anchor (R261). -/
def fineRange (anchor : Option Nat) (v : Nat) : Bool :=
  match anchor with
  | some a => decide ((max a v - min a v) * 1000000 ≤ a * 2000)
  | none => false

/-- `STATE` of a port (R236): 0 `DISCONNECTED`, 1 `UNTRAINED`, 2 `TRAINING`, 3 `TRAIN_FAIL`, 4 `IDLE`, 5 `VIDEO`, 6
`BLACK`. -/
def State.portState (s : State) (n : Nat) : Nat := s.fget (Reg.PRT_LINK_STATUS n) Bit.PRT_LINK_STATUS_STATE
/-- The port enters a state; the frame that it stops sending carries the port-down flag (R236). -/
def State.setPortState (s : State) (n v : Nat) : State :=
  let s := if 5 ≤ s.portState n ∧ v < 5 then
      { s with frames := s.frames.map fun (e : Nat × FrameRun) =>
          if e.1 = n then (n, { e.2 with flags := e.2.flags ||| 4 }) else e }
    else s
  s.fset (Reg.PRT_LINK_STATUS n) Bit.PRT_LINK_STATUS_STATE v

/-- The ports of the heads of a drive send idle pattern (R236, R260). -/
def State.idlePorts (s : State) (n : Nat) : State :=
  (s.headsOf n).foldl (fun s h => if 5 ≤ s.portState h then s.setPortState h 4 else s) s

/-- A relock begins (R259, R260): the gate closes, the settings are loaded, phase lock is lost. -/
def State.relock (s : State) (n : Nat) : State :=
  let x := s.drive n
  let s := s.setDrive n { x with gated := true, tries := 0, goodPulses := 0, wantStep := false, steps := 0,
                                 clearAccum := [], rampAt := s.now, rampFrom := x.divider, rampTo := x.divider,
                                 relockAt := s.now }
  let s := s.setCdState n 1
  let s := s.fset (cdStatus n) Bit.CD_STATUS_PHASE_LOCKED 0
  let s := s.fsat (cdStatus n) Bit.CD_STATUS_RELOCK_COUNT
  let s := s.fset (Reg.CD_PROF_CTL n) Bit.CD_PROF_CTL_RUNNING 0
  s.idlePorts n

/-- A drive is gated and stops (R255, R389). -/
def State.driveOff (s : State) (n : Nat) : State :=
  let s := s.setDrive n { s.drive n with gated := true, anchor := none, steps := 0, goodPulses := 0 }
  let s := s.fset (cdStatus n) Bit.CD_STATUS_PHASE_LOCKED 0
  (s.fset (Reg.CD_PROF_CTL n) Bit.CD_PROF_CTL_RUNNING 0).setCdState n 0 |>.idlePorts n

/-- Drives that are enabled, `CD8` while it stands for another among them. -/
def State.drivesOn (s : State) : List Nat := (List.range 9).filter fun n => s.fbit (Reg.CD_CTL n) Bit.CD_CTL_EN

/-- In PS4 the drives are off with their settings kept (R389). -/
def State.drivesSleep (s : State) : State := s.drivesOn.foldl (fun s n => s.driveOff n) s
/-- On the exit from PS4 every enabled drive relocks (R268, R389). -/
def State.drivesWake (s : State) : State := s.drivesOn.foldl (fun s n => s.relock n) s

/-! What a reference asks for (R264 to R268). -/

/-- The lowest head that a drive aligns, running or not (R267). -/
def State.alignHead (s : State) (n : Nat) : Option Nat :=
  (List.range 128).find? fun h => bitOf (s.rd (Reg.CD_ALIGN_W n (h / 32))) (h % 32) && decide (hdf s.active h Hd.CD_SEL = n)

/-- The period, 2⁻¹⁶ ns, that the monitor expects of a drive's reference (R264): none for a frame pulse without an aligned
head. The clock's is that of the frequency f_t × `DEN` ÷ `NUM`. -/
def State.expected (s : State) (n : Nat) : Option Nat :=
  let x := s.drive n
  let num := max 1 (s.fget (Reg.CD_REF n) Bit.CD_REF_NUM)
  let den := max 1 (s.fget (Reg.CD_REF n) Bit.CD_REF_DEN)
  if s.refPulse n then (s.alignHead n).map fun h => s.framePeriod s.active h (vtotalOf s.active h) / num
  else some (65536 * 40 * 2 ^ 32 * x.d * num / (max 1 x.divider * den))

/-- A period lies within `CD_QUAL.TOL` ppm of the expected one. -/
def State.inTolerance (s : State) (n exp period : Nat) : Bool :=
  decide ((max exp period - min exp period) * 1000000 ≤ s.fget (Reg.CD_QUAL n) Bit.CD_QUAL_TOL * exp)

/-- A period is one that a reference may have (R264): a clock of 1 to 250 MHz, a frame pulse of 1 to 480 Hz. -/
def State.refRange (s : State) (n period : Nat) : Bool :=
  if s.refPulse n then decide (65536 * 1000000000 ≤ 480 * period) && decide (period ≤ 65536 * 1000000000)
  else within period (65536 * 4) (65536 * 1000)

/-- The value that the reference asks for (R265): none when it lies outside the fine range. -/
def State.refValue (s : State) (n : Nat) : Option Nat :=
  let x := s.drive n
  let num := s.fget (Reg.CD_REF n) Bit.CD_REF_NUM
  let den := s.fget (Reg.CD_REF n) Bit.CD_REF_DEN
  if x.refPeriod = 0 then none
  else
    let v :=
      if s.refPulse n then
        match s.alignHead n with
        | some h => x.divider * (s.framePeriod s.active h (vtotalOf s.active h) * num) / x.refPeriod
        | none => x.divider
      -- f_ref = 10⁹ × 2¹⁶ ÷ refPeriod; f_t = 25 MHz × v ÷ (2³² × D)
      else 2 ^ 32 * (40 * 65536 * num * x.d) / (x.refPeriod * den)
    if fineRange x.anchor v then some v else none

/-- The reference of a drive is lost (R264, R266, R270): no further step is fixed, and a drive that follows it enters
`HOLDOVER` at the outer loop's last estimate, its phase slew ramped out. The caller raises the event. -/
def State.refLost (s : State) (n : Nat) : State :=
  let s := s.fset (cdStatus n) Bit.CD_STATUS_REF_VALID 0
  let s := s.fset (cdStatus n) Bit.CD_STATUS_REF_LOST 1
  let s := s.setDrive n { s.drive n with steps := 0, wantStep := false, goodPulses := 0 }
  if within (s.cdState n) 2 4 then
    let s := if s.cdState n = 2 then s else s.rampTo n (s.drive n).refTo
    (s.setCdState n 5).fset (cdStatus n) Bit.CD_STATUS_PHASE_LOCKED 0
  else s

/-- A reference that asks for a value outside the fine range is treated as lost (R265). -/
def State.dropRef (s : State) (n : Nat) : State := (s.refLost n).raise (srcRef (s.refSel n - 1)) 1 0 0

/-- The outer loop steers the divider to the value that the reference asks for (R265). -/
def State.steer (s : State) (n : Nat) : State :=
  match s.refValue n with
  | none => s.dropRef n
  | some v => (s.setDrive n { s.drive n with refTo := v }).rampTo n v

/-- The drive acquires its reference (R265, R268): frequency is steered; `STEP` plans steps at the next pulse. A clock reference
locks frequency only (log entry 128). -/
def State.acquire (s : State) (n : Nat) : State :=
  match s.refValue n with
  | none => s.dropRef n
  | some _ =>
    let s := s.steer n
    let s := s.fset (cdStatus n) Bit.CD_STATUS_PHASE_LOCKED 0
    let step := s.refPulse n && decide (s.fget (Reg.CD_CTL n) Bit.CD_CTL_RETURN = 1)
    let s := s.setDrive n { s.drive n with goodPulses := 0, steps := 0, wantStep := step }
    s.setCdState n (if s.refPulse n then 3 else 4)

/-- A drive leaves its reference as `REF_SEL` or `REF_KIND` changes: the monitor has yet to judge the new one (log entry 128). -/
def State.releaseRef (s : State) (n : Nat) : State :=
  let s := s.fset (cdStatus n) Bit.CD_STATUS_REF_VALID 0
  let s := s.fset (cdStatus n) Bit.CD_STATUS_PHASE_LOCKED 0
  let s := s.setDrive n { s.drive n with steps := 0, wantStep := false, goodPulses := 0, clearAccum := [], refPeriod := 0 }
  if within (s.cdState n) 3 5 then s.setCdState n 2 else s

/-- A change of `CD_REF` moves the value that a following drive is steered to (R265). -/
def State.refChanged (s : State) (n : Nat) : State := if within (s.cdState n) 3 4 then s.steer n else s

/-- The profile in hand stops where it stands. -/
def State.profStop (s : State) (n : Nat) : State :=
  if s.fbit (Reg.CD_PROF_CTL n) Bit.CD_PROF_CTL_RUNNING then
    (s.rampTo n (s.dividerNow n)).fset (Reg.CD_PROF_CTL n) Bit.CD_PROF_CTL_RUNNING 0
  else s

/-! Clock outputs (R272, R273). -/

/-- The setting of output j exceeds its limit: 800 MHz, or 200 MHz in LVCMOS (R272). -/
def State.outTooFast (s : State) (j : Nat) : Bool :=
  let c := s.rd (Reg.CD_OUT_CTL j)
  let fmt := getBits c 0 3
  let v := (s.drive (getBits c 4 3)).divider
  let div := s.fget (Reg.CD_OUT_DIV j) Bit.CD_OUT_DIV_DIV
  !bitOf c 3 && decide (fmt ≠ 0) && decide (2 ^ 32 * ((if fmt = 4 then 200 else 800) * div) < 25 * v)

/-- Output j is on, outside Safe Station. -/
def State.outOn (s : State) (j : Nat) : Bool := s.fget (Reg.CD_OUT_CTL j) Bit.CD_OUT_CTL_FMT ≠ 0 && !s.safe
/-- Output j carries the clock of its source: on, within its limit, its source not gated (R272). -/
def State.outRuns (s : State) (j : Nat) : Bool :=
  s.outOn j && !s.fbit (Reg.CD_OUT_CTL j) Bit.CD_OUT_CTL_PULSE && !s.outTooFast j &&
    !(s.drive (s.fget (Reg.CD_OUT_CTL j) Bit.CD_OUT_CTL_SRC)).gated

/-- Output j carries the frame pulse of head h (R273). -/
def State.outPulses (s : State) (j h : Nat) : Bool :=
  s.outOn j && s.fbit (Reg.CD_OUT_CTL j) Bit.CD_OUT_CTL_PULSE && s.fget (Reg.CD_OUT_CTL j) Bit.CD_OUT_CTL_PULSE_HEAD = h
/-- The frame pulses of head h rise for its boundary at `t`, a fixed delay later (R273). -/
def State.framePulse (s : State) (h t : Nat) : State :=
  { s with outRise := (List.range 4).foldl (fun (l : List (Nat × Nat)) j =>
      if s.outPulses j h then tabPut j (t + Config.pulseDelay) l else l) s.outRise }
/-- The level of output j as a frame pulse (R273): high for `PULSE_W` × 100 ns. -/
def State.outHigh (s : State) (j : Nat) : Bool :=
  s.outOn j && s.fbit (Reg.CD_OUT_CTL j) Bit.CD_OUT_CTL_PULSE &&
    match tabGet s.outRise j with
    | some t => decide (t ≤ s.now) && decide (s.now < t + 100 * s.fget (Reg.CD_OUT_CTL j) Bit.CD_OUT_CTL_PULSE_W)
    | none => false

/-- `CFG_ERR` after a change of an output's setting or of its source's (R272). -/
def State.outCheck (s : State) (j : Nat) : State :=
  if s.outTooFast j then s.fset (Reg.CD_OUT_CTL j) Bit.CD_OUT_CTL_CFG_ERR 1 else s
/-- The outputs of a drive after a change of its divider (R272). -/
def State.outChecks (s : State) (n : Nat) : State :=
  (List.range 4).foldl (fun s j => if s.fget (Reg.CD_OUT_CTL j) Bit.CD_OUT_CTL_SRC = n then s.outCheck j else s) s

/-- `APPLY` (R256, R261): refused, fine or coarse. -/
def State.cdApply (s : State) (n : Nat) : State :=
  let nn := s.fget (Reg.CD_DIV n) Bit.CD_DIV_N
  let d := s.fget (Reg.CD_DIV n) Bit.CD_DIV_D
  let v := 2 ^ 32 * nn + s.rd (Reg.CD_FRAC n)
  let fmax := s.fget (Reg.CD_FMAX n) Bit.CD_FMAX_FMAX
  if nn < 160 ∨ 319 < nn ∨ d % 2 = 1 ∨ d < 4 ∨ 32 < d ∨ 2 ^ 32 * (fmax * 10000) * d < 25000 * v * 10005 then
    (s.fset (cdStatus n) Bit.CD_STATUS_APPLY_REFUSED 1).raise (srcDrive n) 3 0 0
  else
    let x := s.drive n
    let s' := (s.setDrive n { x with n := nn, frac := s.rd (Reg.CD_FRAC n), d := d }).outChecks n
    if s.cdState n = 0 then s'
    else if d = x.d && fineRange x.anchor v then
      ((s'.rampTo n v).fset (Reg.CD_PROF_CTL n) Bit.CD_PROF_CTL_RUNNING 0).refChanged n
    else s'.relock n

/-- A write of `CD_CTL` (R255, R256, R259, R268): the stored fields, then `EN`, `APPLY`, `RELOCK`, `REACQUIRE`. Writes to `CD8`
are ignored. -/
def State.cdCtlWrite (s : State) (n v : Nat) : State :=
  if n = 8 then s else
  let off := Reg.CD_CTL n
  let was := s.fbit off Bit.CD_CTL_EN
  let old := s.rd off
  let sel := getBits v 1 2
  let ret := getBits v 4 2
  let stored := setBits (setBits (v % 128) 1 2 (if sel = 3 then 0 else sel)) 4 2 (if ret = 3 then 0 else ret)
  let s := s.wr off stored
  let s :=
    if was && !bitOf v 0 then s.driveOff n else s
  let s := if getBits stored 1 3 ≠ getBits old 1 3 then s.releaseRef n else s
  let s := if s.refSel n ≠ 0 then s.profStop n else s
  let s := if bitOf v 7 then s.cdApply n else s
  let s := if (bitOf v 0 && !was) || (bitOf v 8 && bitOf v 0 && decide (s.cdState n ≠ 1)) then s.relock n else s
  if bitOf v 9 && s.fbit (cdStatus n) Bit.CD_STATUS_REF_VALID && decide (s.refSel n ≠ 0) && within (s.cdState n) 2 5 then
    s.acquire n
  else s

/-- A write of `CD_CTL` that names `EN` (R255). -/
def execCdEnable (n : DriveId) (v : Word) (s : State) : Result :=
  .next (s.access (Reg.CD_CTL n) fun s => s.cdCtlWrite n v.toNat)
/-- A write of `APPLY` 1, the other fields as they stand (R256). -/
def execApply (n : DriveId) (s : State) : Result :=
  .next (s.access (Reg.CD_CTL n) fun s => s.cdCtlWrite n (s.rd (Reg.CD_CTL n) + 2 ^ 7))
/-- A write of `RELOCK` 1 (R259). -/
def execRelock (n : DriveId) (s : State) : Result :=
  .next (s.access (Reg.CD_CTL n) fun s => s.cdCtlWrite n (s.rd (Reg.CD_CTL n) + 2 ^ 8))
/-- A write of `REACQUIRE` 1 (R268). -/
def execReacquire (n : DriveId) (s : State) : Result :=
  .next (s.access (Reg.CD_CTL n) fun s => s.cdCtlWrite n (s.rd (Reg.CD_CTL n) + 2 ^ 9))

/-- The drive whose status and registers concern the hardware of drive n (R271): `CD8` acts for the drive that it has taken
over, whose own hardware serves nothing any more. -/
def State.actsFor (s : State) (n : Nat) : Option Nat :=
  let d := s.fget Reg.CD_SPARE_STATUS Bit.CD_SPARE_STATUS_DRIVE
  if n = 8 then some (if d = 15 then 8 else d) else if d = n then none else some n

/-- Inner lock is declared (R257, R259, R261, R268): the gate opens; with a valid reference the drive acquires. -/
def State.lockDeclared (s : State) (n : Nat) : State :=
  let v := s.dividerNow n
  let s := s.setDrive n { s.drive n with gated := false, anchor := some v, tries := 0 }
  let s := s.setCdState n 2
  if s.refSel n ≠ 0 && s.fbit (cdStatus n) Bit.CD_STATUS_REF_VALID then s.acquire n else s

/-- The comparator on a drive's lock pin (R257): first it comes to read above its threshold; then it has stayed above for 1 ms
without a break since then and since the relock began, and the drive declares inner lock (log entry 129). -/
def execCdLockDeclare (g : PinSignal) (s : State) : Result :=
  .next (
    match s.actsFor g.drive with
    | none => s
    | some n =>
      let x := s.drive n
      if g.first then
        if s.fbit (cdStatus n) Bit.CD_STATUS_PIN_LOCK then s
        else (s.setDrive n { x with pinAt := s.now }).fset (cdStatus n) Bit.CD_STATUS_PIN_LOCK 1
      else if s.cdState n = 1 && s.fbit (cdStatus n) Bit.CD_STATUS_PIN_LOCK && decide (max x.pinAt x.relockAt + 1000000 ≤ s.now)
      then s.lockDeclared n
      else s)

/-- Inner lock is lost (R258, R260): by a cycle slip (the first of the two events), or as the comparator comes to read below its
threshold, which a drive that is not locked only shows. -/
def execCdLockLoss (g : PinSignal) (s : State) : Result :=
  .next (
    match s.actsFor g.drive with
    | none => s
    | some n =>
      let s := if g.first then s else s.fset (cdStatus n) Bit.CD_STATUS_PIN_LOCK 0
      if within (s.cdState n) 2 5 then
        ((s.fset (cdStatus n) Bit.CD_STATUS_LOCK_LOST 1).raise (srcDrive n) 1 0 0).relock n
      else s)

/-- `CD8` is free (R271). -/
def State.spareDriveFree (s : State) : Bool :=
  s.fget Reg.CD_SPARE_STATUS Bit.CD_SPARE_STATUS_DRIVE = 15 && !s.fbit Reg.CD_SPARE_STATUS Bit.CD_SPARE_STATUS_BUSY

/-- The divider, reference and alignment settings of a drive (R271). -/
def driveSettings (n : Nat) : List Nat :=
  [Reg.CD_CTL n, Reg.CD_DIV n, Reg.CD_FRAC n, Reg.CD_FMAX n, Reg.CD_REF n, Reg.CD_PHASE_OFS n, Reg.CD_SLOPE n, Reg.CD_QUAL n] ++
    (List.range 4).map (Reg.CD_ALIGN_W n)

/-- A substitution by `CD8` begins (R271): it copies the settings of drive n and locks at that drive's value. -/
def State.spareBegin (s : State) (n : Nat) : State :=
  let v := s.dividerNow n
  let s := (driveSettings n).foldl (fun (s : State) r => s.wr (r + Reg.CD_CTL 8 - Reg.CD_CTL n) (s.rd r)) s
  let s := (s.setDrive 8 (s.drive n)).relock 8
  let s := s.setDrive 8 { s.drive 8 with rampFrom := v, rampTo := v }
  ({ s with spareFor := some n }.fset Reg.CD_SPARE_STATUS Bit.CD_SPARE_STATUS_BUSY 1).fset
    Reg.SYS_SPARE_STATUS Bit.SYS_SPARE_STATUS_CD_FREE 0

/-- A substitution by `CD8` begins, in PS2 and deeper after an exit to PS0 (R389). -/
def State.spareSoon (s : State) (n : Nat) : State :=
  if s.memOn then s.spareBegin n
  else { s with thermal := { s.thermal with driveWait := some n } }.touchMem.fset Reg.CD_SPARE_STATUS Bit.CD_SPARE_STATUS_BUSY 1

/-- 20 ms pass without lock (R258): one further attempt, then failure and, by choice, substitution. -/
def execCdRelockTimeout (n : DriveId) (s : State) : Result :=
  .next (
    match s.actsFor n with
    | none => s
    | some n =>
      let x := s.drive n
      if s.cdState n ≠ 1 || decide (s.now < x.relockAt + 20000000) then s
      else if x.tries = 0 then s.setDrive n { x with tries := 1, relockAt := s.now }
      else
        let s := (s.fset (cdStatus n) Bit.CD_STATUS_LOCK_FAIL 1).setCdState n 6
        let s := s.raise (srcDrive n) 2 0 0
        if s.fbit (Reg.CD_CTL n) Bit.CD_CTL_SPARE_AUTO && s.spareDriveFree && decide (n ≠ 8) then s.spareSoon n else s)

/-! Profiles (R262). -/

/-- The value of a segment's target. -/
def State.segValue (s : State) (n k : Nat) : Nat :=
  let a : Int := ((s.drive n).anchor.getD (s.drive n).divider : Nat)
  (a + a * signed 16 (s.fget (Reg.CD_PROF_SEG n k) Bit.CD_PROF_SEG_TARGET) / 16000000).toNat

/-- A profile enters segment k. -/
def State.enterSegment (s : State) (n k : Nat) : State :=
  ((s.rampTo n (s.segValue n k)).fset (Reg.CD_PROF_CTL n) Bit.CD_PROF_CTL_SEG k).fset (Reg.CD_PROF_CTL n)
    Bit.CD_PROF_CTL_RUNNING 1

/-- A write of `CD_PROF_CTL` (R262): `LAST` and `LOOP`, then `STOP`, then `GO`. -/
def State.profWrite (s : State) (n v : Nat) : State :=
  let off := Reg.CD_PROF_CTL n
  let s := s.fset off Bit.CD_PROF_CTL_LAST (getBits v 2 4)
  let s := s.fset off Bit.CD_PROF_CTL_LOOP (getBits v 6 1)
  let s := if bitOf v 1 then (s.rampTo n (s.dividerNow n)).fset off Bit.CD_PROF_CTL_RUNNING 0 else s
  if bitOf v 0 then
    if s.refSel n ≠ 0 || s.cdState n = 1 ||
        (List.range (getBits v 2 4 + 1)).any (fun k =>
          decide (32000 < (signed 16 (s.fget (Reg.CD_PROF_SEG n k) Bit.CD_PROF_SEG_TARGET)).natAbs)) then
      s.fset (cdStatus n) Bit.CD_STATUS_PROFILE_REFUSED 1
    else s.enterSegment n 0
  else s

/-- A write of `CD_PROF_CTL` with `GO` (R262): `last` and `loop` are the stored fields. -/
def execCdProfileGo (n : DriveId) (last : Fin 16) (loop : Bool) (s : State) : Result :=
  .next (s.access (Reg.CD_PROF_CTL n) fun s => s.profWrite n (1 + 4 * last.val + 64 * b2n loop))
/-- A write of `CD_PROF_CTL` with `STOP` (R262), the stored fields as they stand. -/
def execCdProfileStop (n : DriveId) (s : State) : Result :=
  .next (s.access (Reg.CD_PROF_CTL n) fun s => s.profWrite n (2 + s.rd (Reg.CD_PROF_CTL n) % 128 / 4 * 4))

/-- The target of the segment in hand is reached (R262). -/
def execCdSegmentEnd (n : DriveId) (s : State) : Result :=
  .next (
    let off := Reg.CD_PROF_CTL n
    if !s.fbit off Bit.CD_PROF_CTL_RUNNING || decide (s.dividerNow n ≠ (s.drive n).rampTo) then s
    else
      let k := s.fget off Bit.CD_PROF_CTL_SEG
      if k < s.fget off Bit.CD_PROF_CTL_LAST then s.enterSegment n (k + 1)
      else if s.fbit off Bit.CD_PROF_CTL_LOOP then s.enterSegment n 0
      else s.fset off Bit.CD_PROF_CTL_RUNNING 0)

/-! References (R264 to R270). -/

/-- Drives that follow reference r. -/
def State.followers (s : State) (r : Nat) : List Nat := (List.range 9).filter fun n => s.refSel n = r + 1

/-- The drives for which a sight of reference r is a valid one (R264): every period of the last `held` ns has been `period`, 2⁻¹⁶ ns. -/
def State.validFor (s : State) (r period held : Nat) : List Nat :=
  (s.followers r).filter fun n =>
    !s.fbit (cdStatus n) Bit.CD_STATUS_REF_VALID && s.refRange n period &&
      decide (1000000 * s.fget (Reg.CD_QUAL n) Bit.CD_QUAL_QUAL_MS ≤ held) &&
      (match s.expected n with | some e => s.inTolerance n e period | none => false)

/-- The monitor declares reference r valid for a drive (R264, R268). -/
def State.refReturns (s : State) (period n : Nat) : State :=
  let s := s.fset (cdStatus n) Bit.CD_STATUS_REF_VALID 1
  let s := s.setDrive n { s.drive n with refPeriod := period }
  if s.cdState n = 2 then s.acquire n
  else if s.cdState n = 5 && s.fget (Reg.CD_CTL n) Bit.CD_CTL_RETURN ≠ 2 then s.acquire n
  else s

/-- The monitor declares reference r valid (R264, R268). -/
def execRefValid (r : Fin 2) (x : RefSteady) (s : State) : Result :=
  .next (
    match s.validFor r x.period x.held with
    | [] => s
    | ns => ns.foldl (fun s n => s.refReturns x.period n) (s.raise (srcRef r) 2 0 0))

/-- The drives that lose reference r (R264): no edge for two expected periods, or 16 consecutive periods out of tolerance. -/
def State.lostFor (s : State) (r silent period count : Nat) : List Nat :=
  (s.followers r).filter fun n =>
    s.fbit (cdStatus n) Bit.CD_STATUS_REF_VALID &&
      (match s.expected n with
       | some e => decide (2 * e ≤ silent) || (decide (16 ≤ count) && !s.inTolerance n e period)
       | none => false)

/-- A reference is lost (R264, R266, R270). -/
def execRefLoss (x : RefFault) (s : State) : Result :=
  .next (
    match s.lostFor x.ref x.silent x.period x.count with
    | [] => s
    | ns => ns.foldl State.refLost (s.raise (srcRef x.ref) 1 0 0))

/-- Heads that a drive aligns (R267): those selected whose timing equals that of the lowest; the second part says that one
was left out. -/
def State.aligned (s : State) (n : Nat) : List Nat × Bool :=
  let sel := (List.range 128).filter fun h =>
    bitOf (s.rd (Reg.CD_ALIGN_W n (h / 32))) (h % 32) && s.headRunning h && decide (hdf s.active h Hd.CD_SEL = n)
  match sel with
  | [] => ([], false)
  | h0 :: _ =>
    let same := sel.filter fun h => (span 1 15).all fun i => decide (hdf s.active h i = hdf s.active h0 i)
    (same, decide (same.length ≠ sel.length))

/-- Steps planned to absorb d ns of a period of P ns (R269): lines to lengthen by, negative to shorten. -/
def planSteps (d p lineT vt vmin vmax : Nat) : Int :=
  let l := 65536 * d / lineT
  let k := 65536 * (p - d) / lineT
  let canL := decide (vt < vmax)
  let canS := decide (vmin < vt)
  if canL && (!canS || decide (ceilDiv l (vmax - vt) ≤ ceilDiv k (vt - vmin))) then (l : Int)
  else if canS then -(k : Int) else 0

/-- The frequency is slewed to absorb e (R268): up when the boundary falls late, by no more than `OFS_LIMIT` from the
reference's value and within the fine range; how far is a free value (log entry 130). -/
def State.slew (s : State) (n : Nat) (e : Int) : State :=
  let x := s.drive n
  let k := (Config.freeValue s.fresh).toNat % (x.refTo * s.fget (Reg.CD_SLOPE n) Bit.CD_SLOPE_OFS_LIMIT / 1000000 + 1)
  let a := x.anchor.getD x.refTo
  if 0 < e then s.draw.rampTo n (min (x.refTo + k) (max x.refTo (a + a * 2000 / 1000000)))
  else s.draw.rampTo n (max (x.refTo - k) (min x.refTo (a - a * 2000 / 1000000)))

/-- Drive n measures a pulse of its reference (R267 to R269): e is shown; eight pulses within one stream-clock period declare
phase lock; a wanted step is planned; what remains is slewed. -/
def State.measure (s : State) (n : Nat) : State :=
  let al := s.aligned n
  let s := if al.2 then s.fset (cdStatus n) Bit.CD_STATUS_ALIGN_MISMATCH 1 else s
  let s := s.setDrive n { s.drive n with pulseAt := s.now }
  match al.1 with
  | [] => s
  | h :: _ =>
    let p := max 1 (s.framePeriod s.active h (vtotalOf s.active h) / 65536)
    let aim : Int := (s.now : Int) + signed 32 (s.rd (Reg.CD_PHASE_OFS n))
    let raw := (((s.head h).boundary : Int) - aim) % p
    let e : Int := if 2 * raw < p then raw else raw - p
    let s := s.wr (Reg.CD_PHASE_ERR n) (e % (2 ^ 32 : Int)).toNat
    let x := s.drive n
    if s.cdState n = 3 then
      let close := decide (e.natAbs * 25000000 * x.divider < 2 ^ 32 * (1000000000 * x.d))
      let good := if close then x.goodPulses + 1 else 0
      let next : Int := s.boundaryOf h ((s.head h).frame + 1)
      let d := ((aim - next) % p).toNat
      let steps := if x.wantStep then
          planSteps d p (s.lineTime s.active h) (vtotalOf s.active h) (hdf s.active h Hd.VTOTAL_MIN)
            (hdf s.active h Hd.VTOTAL_MAX)
        else x.steps
      let s := s.setDrive n { x with goodPulses := good, wantStep := false, steps := steps, clearAccum := if good = 8 then al.1 else x.clearAccum }
      if good = 8 then ((s.rampTo n x.refTo).fset (cdStatus n) Bit.CD_STATUS_PHASE_LOCKED 1).setCdState n 4
      else if steps ≠ 0 then s
      else if close then s.rampTo n x.refTo
      else s.slew n e
    else s

/-- A pulse of reference r arrives (R267). -/
def execRefPulse (r : Fin 2) (s : State) : Result :=
  .next (((s.followers r).filter s.refPulse).foldl State.measure s)

/-! The spare drive (R271). -/

/-- A write of `CD_SPARE_REQ` (R271). -/
def State.spareReq (s : State) (v : Nat) : State :=
  let n := v % 16
  let off := Reg.CD_SPARE_STATUS
  let refuse (c : Nat) := (s.fset off Bit.CD_SPARE_STATUS_REFUSE_CODE c).fset off Bit.CD_SPARE_STATUS_REFUSED 1
  if 7 < n || s.fget off Bit.CD_SPARE_STATUS_DRIVE ≠ 15 then refuse 9
  else if s.fbit off Bit.CD_SPARE_STATUS_BUSY then refuse 8
  else s.spareSoon n
/-- A write of `CD_SPARE_REQ` by the PF. -/
def execCdSpareReq (v : Word) (s : State) : Result := .next (s.access Reg.CD_SPARE_REQ fun s => s.spareReq v.toNat)

/-- The consumers move to `CD8` once it has locked (R271): without gating when drive n is locked, else as the end of a relock. -/
def execCdSpareSwitch (s : State) : Result :=
  .next (
    match s.spareFor with
    | none => s
    | some n =>
      if !within (s.cdState 8) 2 5 then s
      else
        let off := Reg.CD_SPARE_STATUS
        let s := { s with spareFor := none, flashLog := s.flashLog ++ [(4, n)] }
        let s := (s.fset off Bit.CD_SPARE_STATUS_DRIVE n).fset off Bit.CD_SPARE_STATUS_BUSY 0
        let s := (s.fset off Bit.CD_SPARE_STATUS_DONE 1).fset (cdStatus n) Bit.CD_STATUS_SUBST 1
        let s := s.fset (cdStatus n) Bit.CD_STATUS_PIN_LOCK (s.fget (cdStatus 8) Bit.CD_STATUS_PIN_LOCK)
        let s := s.setDrive n { s.drive n with pinAt := (s.drive 8).pinAt }
        let s := s.raise 5538 2 0 0
        if s.cdState n = 6 || s.cdState n = 1 then s.lockDeclared n else s)

/-- A write of `CD_OUT_CTL` (R272, R273). -/
def State.outCtlWrite (s : State) (j v : Nat) : State :=
  let off := Reg.CD_OUT_CTL j
  let err := s.fbit off Bit.CD_OUT_CTL_CFG_ERR && !bitOf v 24
  let fmt := getBits v 0 3
  let w := getBits v 16 8
  let stored := (if 4 < fmt then 0 else fmt) + getBits v 3 4 * 8 + getBits v 8 7 * 256 + 2 ^ 16 * (if w = 0 then 1 else w) +
    2 ^ 24 * b2n err
  (s.wr off stored).outCheck j
/-- A write of `CD_OUT_CTL` by the PF. -/
def execCdOutCtlWrite (j : Fin 4) (v : Word) (s : State) : Result :=
  .next (s.access (Reg.CD_OUT_CTL j) fun s => s.outCtlWrite j v.toNat)

/-- A read of `CD_NOW_FRAC` takes the snapshot that `CD_NOW_N` returns. -/
def State.cdNowSnap (s : State) (n : Nat) : State :=
  let v := s.dividerNow n
  (s.wr (Reg.CD_NOW_FRAC n) (v % 2 ^ 32)).wr (Reg.CD_NOW_N n) (v / 2 ^ 32 % 512)

/-! The Sidereal Clock (R274 to R276). -/

/-- The master may be set to a later value of its 64 bits (R274): every head is stopped. -/
def State.mayStep (s : State) (v : Nat) : Bool :=
  (List.range 128).all (fun h => s.headState h = 0) && decide (s.now < v) && decide (v < 2 ^ 64)

/-- A write of `SID_SET_HI` (R274). -/
def State.sidSet (s : State) (v : Nat) : State :=
  let s := s.wr Reg.SID_SET_HI v
  let t := s.rd Reg.SID_SET_LO + 2 ^ 32 * v
  if s.mayStep t then { s with sid := BitVec.ofNat 64 t }
  else s.fset Reg.SID_CTL Bit.SID_CTL_STEP_REFUSED 1
/-- A write of `SID_SET_HI` by the PF. -/
def execSidSet (v : Word) (s : State) : Result := .next (s.access Reg.SID_SET_HI fun s => s.sidSet v.toNat)

/-- An integer moved towards another by at most one. -/
def toward (a b : Int) : Int := if a < b then a + 1 else if b < a then a - 1 else a

/-- `AVS_VID` (R410): it drives code 20 until fuse load has ended, then moves to the fused code by one step each 10 µs. -/
def State.avsStep (s : State) : State :=
  let loaded := s.avs.loaded || (match s.posting with | some t => decide (t + Config.fuseLoad % 200001 ≤ s.now) | none => false)
  let to_ := if loaded then Config.fusedVid else 20
  let move := decide (s.avs.at_ + 10000 ≤ s.now) && decide (s.avs.vid ≠ to_)
  let next := if s.avs.vid < to_ then s.avs.vid + 1 else s.avs.vid - 1
  { s with avs := ⟨if move then next else s.avs.vid, if move then s.now else s.avs.at_, loaded⟩ }

/-- One ns of the crystal passes (R14, R274): the master advances by it, corrected by the rate in force, which moves to `SID_RATE`
at no more than 1 ppm/s. It never moves backwards. -/
def State.tick (s : State) : State :=
  let s := s.avsStep
  let r := toward s.sidRate (1000000 * signed 32 (s.rd Reg.SID_RATE))
  let f := s.sidFrac + r
  let unit : Int := 1000000000000000
  if unit ≤ f then { s with sid := s.sid + 2, sidRate := r, sidFrac := f - unit }
  else if f ≤ -unit then { s with sidRate := r, sidFrac := f + unit }
  else { s with sid := s.sid + 1, sidRate := r, sidFrac := f }

/-- The rate that mode 2 sets (R275): a free value within the limits of R274 that drives the offset towards zero (log entry 131). -/
def State.ptmRate (s : State) (o : Int) : Int :=
  let k : Int := ((Config.freeValue s.fresh).toNat % 20000 + 1 : Nat)
  if 0 < o then k else if o < 0 then -k else 0

/-- A dialogue of the PTM requester ends, `PTM_MS` after the one before (R275, R327): the host-minus-Sidereal offset, or none without
a valid context. -/
def execPtmUpdate (ofs : Option DWord) (s : State) : Result :=
  .next (
    let mode := s.fget Reg.SID_CTL Bit.SID_CTL_PTM_MODE
    if mode = 0 || decide (s.now < s.ptmAt + 1000000 * s.fget Reg.SID_CTL Bit.SID_CTL_PTM_MS) then s
    else
      let s := { s with ptmAt := s.now }
      match ofs with
      | none => s.fset Reg.SID_CTL Bit.SID_CTL_PTM_VALID 0
      | some o =>
        if !s.linkUp then s.fset Reg.SID_CTL Bit.SID_CTL_PTM_VALID 0
        else
          let s := s.fset Reg.SID_CTL Bit.SID_CTL_PTM_VALID 1
          let s := { s with ptmOffset := o }
          if mode = 2 then
            let s := s.draw.wr Reg.SID_RATE (s.ptmRate o.toInt % (2 ^ 32 : Int)).toNat
            let t := ((s.now : Int) + o.toInt)
            if s.fbit Reg.SID_CTL Bit.SID_CTL_PTM_STEP && decide (1000000 < o.toInt.natAbs) && s.mayStep t.toNat
            then { s with sid := BitVec.ofNat 64 t.toNat } else s
          else s)

/-- A read of `SID_PTM_OFS_LO` takes the snapshot that the high half returns. -/
def State.ptmSnap (s : State) : State :=
  (s.wr Reg.SID_PTM_OFS_LO (s.ptmOffset.toNat % 2 ^ 32)).wr Reg.SID_PTM_OFS_HI (s.ptmOffset.toNat / 2 ^ 32)

/-- A read of `SID_NOW_LO` takes the snapshot that the high half returns. -/
def State.sidSnap (s : State) : State :=
  (s.wr Reg.SID_NOW_LO (s.now % 2 ^ 32)).wr Reg.SID_NOW_HI (s.now / 2 ^ 32)

/-- Time of alarm k. -/
def State.alarmAt (s : State) (k : Nat) : Nat := s.rd (Reg.SID_ALARM_LO k) + 2 ^ 32 * s.rd (Reg.SID_ALARM_HI k)

/-- Alarm k fires (R276). -/
def State.alarmFire (s : State) (k : Nat) : State :=
  let off := Reg.SID_ALARM_CTL k
  let s := (s.fset off Bit.SID_ALARM_CTL_FIRED 1).raiseAt (srcAlarm k) 0 0 0 s.now
  let per := s.rd (Reg.SID_ALARM_PER k)
  if s.fbit off Bit.SID_ALARM_CTL_PERIODIC && decide (per ≠ 0) then
    let t := s.alarmAt k + per
    (s.wr (Reg.SID_ALARM_LO k) (t % 2 ^ 32)).wr (Reg.SID_ALARM_HI k) (t / 2 ^ 32)
  else { s with alarmsSpent := setAdd k s.alarmsSpent }

/-- A write of an alarm's time (R276): a later time is still to be reached, one already past is not. -/
def State.alarmSet (s : State) (k : Nat) : State :=
  { s with alarmsSpent := if s.alarmAt k ≤ s.now then setAdd k s.alarmsSpent else s.alarmsSpent.erase k }

/-- A write of `SID_CTL` (R275): no request is made, and no context valid, in mode 0. -/
def State.ptmOff (s : State) : State :=
  if s.fget Reg.SID_CTL Bit.SID_CTL_PTM_MODE = 0 then s.fset Reg.SID_CTL Bit.SID_CTL_PTM_VALID 0 else s

/-- A write of `SID_ALARM_CTL` (R276): an alarm already past fires at once. -/
def State.alarmCtl (s : State) (k v : Nat) : State :=
  let off := Reg.SID_ALARM_CTL k
  let was := s.fbit off Bit.SID_ALARM_CTL_EN
  let fired := s.fbit off Bit.SID_ALARM_CTL_FIRED && !bitOf v 2
  let s := s.wr off (v % 4 + 4 * b2n fired)
  if bitOf v 0 && !was then
    let s := { s with alarmsSpent := s.alarmsSpent.erase k }
    if s.alarmAt k ≤ s.now then s.alarmFire k else s
  else s
/-- A write of `SID_ALARM_CTL` by the PF. -/
def execSidAlarmEnable (k : Fin 8) (v : Word) (s : State) : Result :=
  .next (s.access (Reg.SID_ALARM_CTL k) fun s => s.alarmCtl k v.toNat)

/-- The master reaches an enabled alarm (R276). -/
def execSidAlarmFire (k : Fin 8) (s : State) : Result :=
  .next (
    if s.fbit (Reg.SID_ALARM_CTL k) Bit.SID_ALARM_CTL_EN && decide (s.alarmAt k ≤ s.now) && !s.alarmsSpent.contains k.val
    then s.alarmFire k else s)

end Sys2Proof.Machine
end

