-- ==== Sys2Proof/Machine/PlateWords.lean ====
section
/-! DEFINITION. Words of the Plate Store and the accesses to them (R113 to R118, R132). -/

namespace Sys2Proof.Machine

/-! Words. -/

/-- Address of word w of plate p. -/
def plateWord (p w : Nat) : Nat := 2 ^ 23 * p + 64 * w
/-- What a byte of the Plate Store reads as that nothing has written: zero where the march of a POST has passed since the plate last lost
its contents (R130, R375), but for `PL31`, where the firmware is copied (R371); otherwise a free value. -/
def State.plateIdle (s : State) (a : Nat) : Byte :=
  let p := a / 2 ^ 23
  if p ≠ 31 && (if p = 30 then s.march.pl30 else s.march.others) then 0
  else Config.plateByte (if p = 30 then s.epoch else s.plateEpoch) a
/-- A byte of the Plate Store. -/
def State.plateByte (s : State) (a : Nat) : Byte := (tabGet s.plateMem a).getD (s.plateIdle a)
/-- A word of the Plate Store. -/
def State.plateLoad (s : State) (a : Nat) : List Byte := (List.range 64).map fun k => s.plateByte (a + k)
/-- `OWNER` of a plate. -/
def State.plateOwner (s : State) (p : Nat) : Nat := s.fget (Reg.PST_OWN p) Bit.PST_OWN_OWNER
/-- A handover of the plate is in transit. -/
def State.plateTransit (s : State) (p : Nat) : Bool := s.fbit (Reg.PST_OWN p) Bit.PST_OWN_TRANSIT
/-- The plate is being substituted. -/
def State.inSubst (s : State) (p : Nat) : Bool := s.fbit (Reg.PST_OWN p) Bit.PST_OWN_SUBST

/-! Accesses (R114, R117, R118, R132). -/

/-- A plate-access response: the count, the flag and the event (R117). The island of the plate's number raises it, whichever site serves
the plate (DESIGN CHOICE, log entry 135). -/
def State.nonOwner (s : State) (p : Nat) (write : Bool) : State :=
  let off := Reg.PST_PLATE_ERR p
  let s := if write then (s.fsat off Bit.PST_PLATE_ERR_WR_COUNT).fset off Bit.PST_PLATE_ERR_NONOWNER_WR 1
    else (s.fsat off Bit.PST_PLATE_ERR_RD_COUNT).fset off Bit.PST_PLATE_ERR_NONOWNER_RD 1
  s.raise (srcPlate p) 1 0 (islandQuadrant p)

/-- Correctable errors of entry k of the log. -/
def State.ceCount (s : State) (p k : Nat) : Nat := s.fget (Reg.PST_CE_ROW p k) Bit.PST_CE_ROW_COUNT
/-- Entry k of the log is in use. -/
def State.ceValid (s : State) (p k : Nat) : Bool := s.fbit (Reg.PST_CE_ROW p k) Bit.PST_CE_ROW_VALID

/-- A correctable error joins the log of rows (R132). -/
def State.ceRow (s : State) (p bank row : Nat) : State :=
  let s := s.fset (Reg.PST_PLATE_ERR p) Bit.PST_PLATE_ERR_CE 1
  let same (k : Nat) : Bool := s.ceValid p k && decide (s.rd (Reg.PST_CE_ROW p k) % 2 ^ 12 = bank + 16 * row)
  let least := (List.range 4).foldl (fun b k => if s.ceCount p k < s.ceCount p b then k else b) 0
  let (k, fresh) := match (List.range 4).find? same with
    | some k => (k, false)
    | none => (((List.range 4).find? fun k => !s.ceValid p k).getD least, true)
  let off := Reg.PST_CE_ROW p k
  let s := if fresh then s.wr off (bank + 16 * row + 2 ^ 16 + 2 ^ 24) else s.fsat off Bit.PST_CE_ROW_COUNT
  if s.ceCount p k = 4 then s.raise (srcPlate p) 5 (bank + 16 * row) (islandQuadrant p) else s

/-- The word that the writes of one cycle leave: a byte enabled more than once takes the lowest lane's value. -/
def mergeWrites (old : List Byte) (writes : List (Nat × List (Fin 64 × Byte))) : List Byte :=
  old.mapIdx fun k b =>
    let here := writes.filterMap fun w => ((w.2.find? fun x => x.1.val = k).map fun x => (w.1, x.2))
    match here.foldl (fun (m : Option (Nat × Byte)) x => match m with
      | some y => if x.1 < y.1 then some x else some y
      | none => some x) none with
    | some x => x.2
    | none => b

/-- The lanes that lost a byte to a lower-numbered lane. -/
def losers (new : List Byte) (writes : List (Nat × List (Fin 64 × Byte))) : List Nat :=
  (writes.filter fun w => w.2.any fun x => decide (new.getD x.1.val 0 ≠ x.2)).map (·.1)

/-- The lowest-numbered lane that enables a byte which lane l lost. -/
def winner (new : List Byte) (writes : List (Nat × List (Fin 64 × Byte))) (l : Nat) : Nat :=
  let lost := (writes.filter fun w => w.1 = l).flatMap fun w => w.2.filter fun x => decide (new.getD x.1.val 0 ≠ x.2)
  let by_ := (writes.filter fun w => w.2.any fun x => lost.any fun y => decide (x.1 = y.1)).map (·.1)
  by_.foldl min (by_.headD 0)

/-- A unit of an owner reaches the plate: it owns the plate, which is not in transit (R117). -/
def State.reaches (s : State) (p owner : Nat) : Bool :=
  decide (owner = s.plateOwner p) && decide (owner ≠ 0) && !s.plateTransit p

/-- Blink reaches a word of a plate that it does not own: in the stripe under a preserving test, or by its copy lane during the
plate's substitution (R117, R128, R134). -/
def State.blinkReaches (s : State) (p w : Nat) (u : PlateUse) : Bool :=
  decide (u.owner = 8) && ((s.blinks.any fun e => e.2.plate = p && e.2.preserve && decide (e.2.stripe = w / 1024)) ||
    (u.unit_ = .copy && (match s.subst with | some (q, _) => decide (q = p) | none => false)))

/-- The access is served (R117). -/
def State.plateMine (s : State) (p w : Nat) (u : PlateUse) : Bool := s.reaches p u.owner || s.blinkReaches p w u

/-- The reads of one quadrant cycle at word w of plate p, and the refusals of the accesses that are not its owner's (R117). -/
def State.plateReads (s : State) (p w : Nat) (uses : List PlateUse) (ecc : Ecc) : State :=
  let a := plateWord p w
  let mine (u : PlateUse) : Bool := s.plateMine p w u
  let reads := uses.filter fun u => mine u && u.bytes.isNone
  let bad := reads ≠ [] && (a ∈ s.platePoison || ecc = .uncorrectable)
  let word := s.plateLoad a
  let answers := uses.filterMap fun u => if u.bytes.isSome then none
    else some (u.owner, u.lane, if mine u && !bad then some word else none)
  let s := { s with plateAnswers := answers }
  let s := (uses.filter fun u => !mine u).foldl (fun (s : State) (u : PlateUse) => s.nonOwner p u.bytes.isSome) s
  if bad then
    { s.fset (Reg.PST_PLATE_ERR p) Bit.PST_PLATE_ERR_UE 1 with platePoison := setAdd a s.platePoison }
  else if reads ≠ [] && ecc = .corrected then s.ceRow p (w % 16) (w / 512 % 256)
  else s

/-- The bytes that the owner's lanes write in one quadrant cycle at word w of plate p, and their collisions (R117, R118). -/
def State.plateWrites (s : State) (p w : Nat) (writes : List (Nat × List (Fin 64 × Byte))) : State :=
  let a := plateWord p w
  let new := mergeWrites (s.plateLoad a) writes
  let whole := writes.any fun x => (List.range 64).all fun k => x.2.any fun y => y.1.val = k
  let s := { s with plateMem := memWrite s.plateMem a new,
                    platePoison := if whole then s.platePoison.erase a else s.platePoison }
  let lost := losers new writes
  if lost = [] then s
  else
    let off := Reg.PST_COLLIDE p
    let top := maxOf lost
    let s := lost.foldl (fun (s : State) _ => s.fsat off Bit.PST_COLLIDE_COUNT) s
    let s := (s.fset off Bit.PST_COLLIDE_LANE_LOST top).fset off Bit.PST_COLLIDE_LANE_KEPT (winner new writes top)
    let s := s.fset off Bit.PST_COLLIDE_COLLIDE 1
    s.raise (srcPlate p) 2 (winner new writes top + 64 * top) (islandQuadrant p)

/-- The accesses of one quadrant cycle to word w of plate p (R117, R118); `ecc` is what SECDED finds as the word is read. Blink's
writes beside the owner leave what the owner sees: its data stand in both copies (R128, R134). -/
def State.plateAccess (s : State) (p w : Nat) (uses : List PlateUse) (ecc : Ecc) : State :=
  let writes := (uses.filter fun u => s.reaches p u.owner).filterMap fun u => u.bytes.map fun b => (u.lane, b)
  let t := s.plateReads p w uses ecc
  if writes = [] then t else t.plateWrites p w writes

/-- One unit reads word w of plate p (R114, R117): the word unless it is poisoned. -/
def State.plateTake (s : State) (p w : Nat) (u : PlateUnit) (ecc : Ecc) : State × Option (List Byte) :=
  let t := s.plateReads p w [⟨u, none⟩] ecc
  (t, (t.plateAnswers.head?.bind fun x => x.2.2))
/-- One unit writes bytes of word w of plate p, by offset (R117). -/
def State.platePatch (s : State) (p w : Nat) (u : PlateUnit) (bytes : List (Fin 64 × Byte)) : State :=
  if s.reaches p u.owner then s.plateWrites p w [(u.lane, bytes)] else s.nonOwner p true
/-- One unit writes word w of plate p (R117). -/
def State.platePut (s : State) (p w : Nat) (u : PlateUnit) (bytes : List Byte) : State :=
  s.platePatch p w u ((List.finRange 64).map fun k => (k, bytes.getD k.val 0))

end Sys2Proof.Machine
end

