-- ==== Sys2Proof/Machine/Fetch.lean ====
section
/-! DEFINITION. The fetch engine: what a pipe fetches (R136 to R140), tags (R141 to R144), the memory controllers' service
(R145 to R147), host-window reads (R148, R149), Apertures (R156, R157) and line hold (R160 to R162). -/

namespace Sys2Proof.Machine

/-! Views. -/

/-- The split that keeps the old state of a head's group at an island (R227). -/
def State.splitOf (s : State) (island h : Nat) : Option Split :=
  s.splits.find? fun x => x.island = island && decide (groupOf s.active h = some x.group)
/-- The copy and the plan with which pipe p works for head h. -/
def State.pipeView (s : State) (p h : Nat) : View :=
  match s.splitOf (s.pipeIsland p) h with
  | some x => x.view
  | none => s.active
def State.pipePlan (s : State) (p h : Nat) : GroupPlan :=
  match s.splitOf (s.pipeIsland p) h with
  | some x => x.plan
  | none => ((groupOf s.active h).bind (tabGet s.activePlans)).getD GroupPlan.empty

/-- The frame of a head in progress. -/
def State.frameRun (s : State) (h : Nat) : FrameRun := (tabGet s.frames h).getD FrameRun.reset
/-- The state with it replaced. -/
def State.setFrameRun (s : State) (h : Nat) (x : FrameRun) : State := { s with frames := tabPut h x s.frames }

/-- Pipe p composes head h in the frame in progress; while the head's drive is gated it stalls (R140, R260). -/
def State.serves (s : State) (p h : Nat) : Bool :=
  s.headRunning h && !s.stalled h && hdf (s.pipeView p h) h Hd.HEAD_EN = 1 && decide (p ∈ pipesOf (s.pipeView p h) h)
/-- Pipe p fetches for head h: a shed head and one that reads its retained frame fetch nothing (R353, R358). -/
def State.fetches (s : State) (p h : Nat) : Bool :=
  s.serves p h && !(s.frameRun h).black && !(s.frameRun h).reading

/-- Key of `shown`. -/
def shownKey (sl frame : Nat) (pending : Bool) : Nat := sl * 4 + frame % 2 * 2 + b2n pending

/-- The addresses that a layer shows on frame f (R163 to R165, R23): none for a layer removed or made transparent. -/
def State.sourceAt (s : State) (m : View) (sl f : Nat) : Option (Nat × Nat × Nat) :=
  match tabGet s.shown (shownKey sl f false) with
  | some x => if x.frame = f then x.source else if isBound m sl then none else some (fieldSource m sl)
  | none => if isBound m sl then none else some (fieldSource m sl)

/-! What is fetched. -/

/-- A word in the landing. -/
def State.landedWord (s : State) (p h sl kind w : Nat) : Option Landed :=
  let f := (s.head h).frame
  s.landed.find? fun x => x.pipe = p && x.head = h && x.slot = sl && x.kind = kind && x.word = w && x.frame = f
/-- The state with that word replaced or added. -/
def State.putLanded (s : State) (x : Landed) : State :=
  let same (y : Landed) := y.pipe = x.pipe && y.head = x.head && y.slot = x.slot && y.kind = x.kind && y.word = x.word &&
    y.frame = x.frame
  if s.landed.any same then { s with landed := s.landed.map fun y => if same y then x else y }
  else { s with landed := x :: s.landed }

/-- The bytes of a word that landed: those of its place in the landing, or what the line buffer keeps of it (R124, R161). -/
def State.landedBytes (s : State) (x : Landed) : List Byte := if x.freed then x.data else s.plateLoad x.at_
/-- The bytes of a word that landed intact and is not held. -/
def State.intactWord (s : State) (p h sl kind w : Nat) : Option (List Byte) :=
  match s.landedWord p h sl kind w with
  | some x => if x.status = 1 && !x.held then some (s.landedBytes x) else none
  | none => none

/-- The unit that reads the plates for pipe p: the pipe, or the spare that serves it (R116, R363). -/
def State.pipeUnit (s : State) (p : Nat) : PlateUnit := .pipe (Fin.ofNat 36 ((tabGet s.pipeSubst p).getD p))
/-- The landing of head h on pipe p (R124). -/
def State.landingItem (s : State) (p h : Nat) : Option Item :=
  (s.pipePlan p h).items.find? fun i => i.pipe = p && i.head = h && decide (i.slot = 4096)
/-- Words that take room in it. -/
def State.landingWords (s : State) (p h : Nat) : List Landed :=
  s.landed.filter fun x => x.pipe = p && x.head = h && decide (x.status < 4) && !x.freed
/-- The lowest free place of the landing, as an address in the Plate Store (log entry 132). -/
def State.landingSpot (s : State) (p h : Nat) : Nat :=
  match s.landingItem p h with
  | some i =>
    let base := 2 ^ 23 * i.plate + i.start
    (((List.range (i.size / 64)).map fun k => base + 64 * k).find? fun a =>
      !(s.landingWords p h).any fun x => decide (x.at_ = a)).getD base
  | none => 0
/-- The sixth of a layer's line buffer that keeps a source line has a poisoned word (R114, R184; log entry 132). -/
def State.bufferLost (s : State) (m : View) (p h sl line : Nat) : Bool :=
  match (s.pipePlan p h).items.find? fun i => i.pipe = p && i.head = h && decide (i.slot = sl) with
  | some i =>
    let lo := 2 ^ 23 * i.plate + i.start + line % 6 * (8 * orientW m sl)
    s.platePoison.any fun a => decide (lo < a + 64) && decide (a < lo + 8 * orientW m sl)
  | none => false

/-- The map entry of tile t of a CLT layer as it landed. -/
def State.mapEntry (s : State) (m : View) (p h sl t : Nat) : Option Nat :=
  let o := mapOffset m sl (t % tilesX m sl) (t / tilesX m sl)
  (s.intactWord p h sl 2 (o / 64)).map fun b => ofBytes ((b.drop (o % 64)).take 2)

/-- A planned word is called for: every word, but of a CLT slot only the first `BLOCKS` words of a tile whose current map
entry is not `EMPTY` (R155). -/
def State.called (s : State) (m : View) (p h sl kind w : Nat) : Bool :=
  if isClt m sl && decide (kind = 0) then
    let per := 16 * cltWord (pixelFormat m sl)
    let row := lyr m sl Lyr.P0_PITCH * 32 / 64
    let ty := w / row
    let tx := w % row / per
    match s.mapEntry m p h sl (ty * tilesX m sl + tx) with
    | some e => !bitOf e 15 && decide (w % row % per < getBits e 0 8)
    | none => false
  else true

/-- The band whose segment holds a word: the first that needs it (R136). -/
def bandOf (m : View) (o : Occlusion) (h p sl kind w : Nat) : Option Nat :=
  (List.range (bandCount m h)).find? fun b => (bandNeed m o h p sl kind b).contains w

/-- Address of a word of a layer on frame f. -/
def State.wordAddr (s : State) (m : View) (sl kind w f : Nat) : Option Nat :=
  (s.sourceAt m sl f).map fun src => kindAddr m sl kind src + 64 * w

/-- A word that a pipe may ask for: the order of R143 first, then what it is. -/
structure Want where
  deadline : Int
  head : Nat
  slot : Nat
  kind : Nat
  band : Nat
  word : Nat
deriving DecidableEq, Repr

/-- The order of R143. -/
def Want.before (a b : Want) : Bool :=
  if a.deadline ≠ b.deadline then decide (a.deadline < b.deadline)
  else if a.head ≠ b.head then decide (a.head < b.head)
  else if a.slot ≠ b.slot then decide (a.slot < b.slot)
  else if a.band ≠ b.band then decide (a.band < b.band)
  else decide (a.kind ≤ b.kind)

/-- The earliest release of a segment of a frame of head h on pipe p, in units of 2⁻¹⁶ ns: `tb` its boundary, `vb` its blanking lines
(R139, R164). -/
def firstReleaseOf (m : View) (o : Occlusion) (h p tb vb lineT : Nat) : Option Int :=
  let all : List Int := (headLayers m h).flatMap fun sl => kinds.flatMap fun k => (List.range (bandCount m h)).filterMap fun b =>
    if segment m o h p sl k b = [] then none else some (releaseAt tb vb lineT b (decide (k = 2)))
  all.foldl (fun (b : Option Int) t => match b with | some u => some (min u t) | none => some t) none
/-- That of the frame in progress. -/
def State.firstRelease (s : State) (p h : Nat) : Option Int :=
  let m := s.pipeView p h
  let r := s.head h
  firstReleaseOf m (s.pipePlan p h).occlusion h p r.boundary (s.vtotal h - activeH m h) (s.frameRun h).lineT

/-- The first word of each segment of pipe p that has been neither granted nor read, its release passed (R139, R143). -/
def State.wants (s : State) (p : Nat) : List Want :=
  ((List.range 128).filter (s.fetches p)).flatMap fun h =>
    let m := s.pipeView p h
    let o := (s.pipePlan p h).occlusion
    let r := s.head h
    let t := (s.frameRun h).lineT
    let vb := s.vtotal h - activeH m h
    ((headLayers m h).filter fun sl => (s.sourceAt m sl r.frame).isSome).flatMap fun sl => kinds.flatMap fun k =>
      (List.range (bandCount m h)).filterMap fun b =>
        let map := decide (k = 2)
        if releaseAt r.boundary vb t b map ≤ 65536 * s.replica (s.pipeIsland p) then
          ((segment m o h p sl k b).find? fun w => (s.landedWord p h sl k w).isNone && s.called m p h sl k w).map fun w =>
            ⟨deadlineAt r.boundary vb t b map, h, sl, k, b, w⟩
        else none

/-! Grants. -/

/-- An Aperture. -/
def State.aperture (s : State) (sl p : Nat) : Option Aperture := tabGet s.apertures (64 * sl + p)

/-- Tags of a pipe out of its quota, from the spare pool. -/
def State.quotaUsed (s : State) (p : Nat) : Nat := (s.tags.filter fun t => t.2.pipe = p && !t.2.spare).length
def State.spareUsed (s : State) : Nat := (s.tags.filter fun t => t.2.spare).length

/-- Whether a tag is available for a word (R142): whether it comes from the spare pool. -/
def State.tagFor (s : State) (p : Nat) (host : Bool) : Option Bool :=
  if s.quotaUsed p < s.fget (Reg.FET_PIPE_QUOTA p) Bit.FET_PIPE_QUOTA_QUOTA then some false
  else if !host && decide (s.fget Reg.FET_TAG_RESERVED Bit.FET_TAG_RESERVED_RESERVED + s.spareUsed < 131072) then some true
  else none

/-- The landing of head h on pipe p has room for 64 bytes. -/
def State.landingRoom (s : State) (p h : Nat) : Bool :=
  decide (64 * (s.landingWords p h).length + 64 ≤ ((s.landingItem p h).map (·.size)).getD 0)

/-- Every condition of R143 but the tag. -/
def State.admits (s : State) (p : Nat) (w : Want) (dest : Place) : Bool :=
  (match s.aperture w.slot p with | some a => decide (0 ≤ a.credit) | none => false) && s.landingRoom p w.head &&
  (match dest with | .hostWin .. => s.linkUp | _ => true)

/-- The lowest tag number that is `FREE`. -/
def State.freeTag (s : State) : Nat := (s.tags.foldl (fun n t => if t.1 = n then n + 1 else n) 0)

/-- `FET_TAG_STATUS.IN_USE` and `FET_TAG_HWM` after a change of the tags. -/
def State.tagCount (s : State) : State :=
  let n := s.tags.length
  let s := s.fset Reg.FET_TAG_STATUS Bit.FET_TAG_STATUS_IN_USE n
  s.fset Reg.FET_TAG_HWM Bit.FET_TAG_HWM_HWM (max n (s.fget Reg.FET_TAG_HWM Bit.FET_TAG_HWM_HWM))

/-- A tag returns to `FREE`. -/
def State.dropTag (s : State) (t : Nat) : State := { s with tags := tabDel t s.tags }.tagCount

/-- Where a wanted word lies, with the rights of the layer's function (R94). -/
def State.wantPlace (s : State) (p : Nat) (w : Want) : Option (Nat × Place) :=
  let m := s.pipeView p w.head
  (s.wordAddr m w.slot w.kind w.word (s.head w.head).frame).map fun a => (a, s.translate (s.slotFn w.slot) a .read)

/-- A word is granted: tag, Aperture credit and landing room are taken (R141, R157). -/
def State.grant (s : State) (p : Nat) (w : Want) (addr : Nat) (dest : StoreDest) (spare : Bool) : State :=
  let f := (s.head w.head).frame
  let t : Tag :=
    { pipe := p, head := w.head, slot := w.slot, kind := w.kind, band := w.band, word := w.word, frame := f, addr := addr,
      at_ := s.now, dest := dest, deadline := w.deadline, state := 0, spare := spare, issued := false, urgent := false,
      request := none, answer := 0, data := [], arrived := 0 }
  let s := { s with
    tags := tabPut s.freeTag t s.tags
    apertures := match s.aperture w.slot p with
      | some a => tabPut (64 * w.slot + p) { a with credit := a.credit - 64 * 65536 } s.apertures
      | none => s.apertures }
  (s.putLanded ⟨p, w.head, w.slot, w.kind, w.word, f, 0, [], false, false, false, s.landingSpot p w.head⟩).tagCount

/-- The grant of R143 among the words `ws`. -/
def State.grantFrom (s : State) (p : Nat) (ws : List Want) : State :=
  let ok : List (Want × Nat × Place × Nat × Bool) := ws.filterMap fun w => (s.wantPlace p w).bind fun ad =>
    match ad.2 with
    | .refused pg => if s.admits p w ad.2 then some (w, ad.1, ad.2, pg, false) else none
    | .hostWin .. => if s.admits p w ad.2 then (s.tagFor p true).map fun sp => (w, ad.1, ad.2, 0, sp) else none
    | .localMem _ => if s.admits p w ad.2 then (s.tagFor p false).map fun sp => (w, ad.1, ad.2, 0, sp) else none
  let best : Option (Want × Nat × Place × Nat × Bool) := ok.foldl (fun best x => match best with
      | none => some x
      | some y => if y.1.before x.1 then some y else some x) none
  match best with
  | none => s
  | some (w, a, .localMem ph, _, sp) => s.grant p w a (.localMem ph) sp
  | some (w, a, .hostWin fn ad, _, sp) => s.grant p w a (.hostWin fn ad) sp
  | some (w, _, .refused pg, _, _) =>
    (s.refusal pg (s.slotFn w.slot) false (s.pipeIsland p)).putLanded
      ⟨p, w.head, w.slot, w.kind, w.word, (s.head w.head).frame, 4, [], false, false, false, 0⟩

/-! Apertures (R156 to R159) and the pipe's switch point (R20). -/

/-- The Apertures of pipe p are refilled for every multiple of 1,000 ns that its island's replica has reached (R157). -/
def State.refillPipe (s : State) (p : Nat) : State :=
  let n := s.ticksDue (2 + p) (s.pipeIsland p)
  if n = 0 then s
  else { s.markTick (2 + p) (s.pipeIsland p) with
    apertures := s.apertures.map fun (k, a) =>
      if k % 64 = p then (k, { a with credit := min (a.credit + n * a.rate) ((65536 * a.burst : Nat) : Int) }) else (k, a) }

/-- The Apertures of every pipe whose replica has reached a multiple of 1,000 ns are refilled. -/
def execApertureRefill (s : State) : Result := .next ((List.range 36).foldl State.refillPipe s)

/-- Aperture rate and burst of a layer on a pipe in a plan (R156). -/
def planAperture (p : GroupPlan) (key : Nat) : Option (Nat × Nat) :=
  match p.rates.find? (·.1 = key) with
  | some r => some (r.2, ((p.bursts.find? (·.1 = key)).map (·.2)).getD 0)
  | none => none

/-- Burst of a layer's Aperture: the programmed one in KiB, or the plan's (R156). -/
def apertureBurst (m : View) (key dflt : Nat) : Nat :=
  if lyr m (key / 64) Lyr.AP_BURST = 0 then dflt else 1024 * lyr m (key / 64) Lyr.AP_BURST

/-- Apertures of a pipe at its switch point (R158, R159): a changed rate or burst; a removal where the new state gives the layer
no segment on the pipe in any group. -/
def State.switchApertures (s : State) (p : Nat) (old new : GroupPlan) (keep : List Nat) : State :=
  let s := s.refillPipe p
  let held (k : Nat) : Bool := keep.contains k || s.activePlans.any fun e => e.2.rates.any (·.1 = k)
  let gone := old.rates.filter fun r => decide (r.1 % 64 = p) && !new.rates.any (·.1 = r.1) && !held r.1
  let s := { s with apertures := s.apertures.filter fun e => !gone.any (·.1 = e.1) }
  { s with apertures := s.apertures.map fun (e : Nat × Aperture) =>
      match (if e.1 % 64 = p then planAperture new e.1 else none) with
      | some (r, b) =>
        let b := apertureBurst s.active e.1 b
        (e.1, { rate := r, burst := b, credit := min e.2.credit ((65536 * b : Nat) : Int) })
      | none => e }

/-- The pipes that an island serves. -/
def State.pipesAt (s : State) (island : Nat) : List Nat := (List.range 36).filter fun p => s.pipeIsland p = island

/-- The island of a switch reaches its first work of the new frame (R20): a pipe the earliest release of a segment of the frame in
progress of one of the group's heads (R139), any other island at once. -/
def State.switchDue (s : State) (x : SwitchTodo) : Bool :=
  if 26 ≤ x.island ∧ x.island < 62 then
    (s.pipesAt x.island).any fun p => (membersOf s.active x.group).any fun h =>
      s.serves p h && (match s.firstRelease p h with
        | some t => decide (t ≤ 65536 * s.replica x.island)
        | none => true)
  else true

/-- The switches for which `pick` holds are made. -/
def State.makeSwitches (s : State) (pick : SwitchTodo → Bool) : State :=
  let mine := s.switches.filter pick
  let s := { s with switches := s.switches.filter fun x => !pick x }
  mine.foldl (fun s x => (s.pipesAt x.island).foldl (fun s p => s.switchApertures p x.old x.new x.keep) s) s

/-- A pipe front-end grants at most one request (R143): it first switches to the state of a frame whose release has come (R139) and
takes its refill (R157). A word that the Plate Map refuses is marked refused (R97). -/
def execFetchGrant (p : PipeId) (s : State) : Result :=
  .next (
    let s := (s.makeSwitches fun x => decide (x.island = s.pipeIsland p) && s.switchDue x).refillPipe p
    s.grantFrom p (s.wants p))

/-- The request of a `HELD` tag enters its queue (R141). -/
def execTagIssue (t : Fin 131072) (s : State) : Result :=
  .next (
    match tabGet s.tags t.val with
    | some x =>
      if x.issued || s.inTransit (.fetchRead t) then s
      else
        let y := { x with issued := true, state := if x.state = 0 then 1 else x.state, arrived := s.now }
        { s with tags := tabPut t.val y s.tags }
    | none => s)

/-! Memory controllers. -/

/-- The controller reads a word with the given finding: the bytes, or poison. -/
def State.eccRead (s : State) (phys : Nat) (e : Ecc) : State × Option (List Byte) := s.wordRead (wordOf phys) 64 e

/-- Scan-out reads that wait at controller n, and whether each is urgent now (R145). -/
def State.scanReads (s : State) (n : Nat) : List (Nat × Tag × Bool) :=
  s.tags.filterMap fun e =>
    match e.2.dest with
    | .localMem ph =>
      if mcOf ph = n && e.2.issued && decide (e.2.answer = 0) then
        some (e.1, e.2, e.2.urgent || decide (e.2.deadline - (s.replica (islandMc n) : Int) ≤ 4000))
      else none
    | _ => none

/-- The scan-out read that R145 serves first in its class: earliest deadline, then arrival, then lower pipe. -/
def firstRead (l : List (Nat × Tag × Bool)) : Option (Nat × Tag × Bool) :=
  l.foldl (fun best x => match best with
    | none => some x
    | some y =>
      let a := y.2.1
      let b := x.2.1
      if a.deadline < b.deadline || (a.deadline = b.deadline && (a.arrived < b.arrived || (a.arrived = b.arrived && a.pipe ≤ b.pipe)))
      then some y else some x) none

/-- A scan-out read is performed (R147). -/
def State.scanServe (s : State) (n t : Nat) (x : Tag) (phys : Nat) (e : Ecc) : State :=
  let slack : Int := x.deadline - (s.replica (islandMc n) : Int)
  let s := if slack < 0 then
      (s.fset (Reg.MC_SCHED_STATUS n) Bit.MC_SCHED_STATUS_LATE 1).fsat (Reg.MC_SCHED_STATUS n) Bit.MC_SCHED_STATUS_LATE_COUNT
    else s
  let s := if slack < signed 32 (s.rd (Reg.MC_SCHED_SLACK n)) then
      s.wr (Reg.MC_SCHED_SLACK n) (max slack (-(2 ^ 31 : Int)) % (2 ^ 32 : Int)).toNat else s
  let r := s.eccRead phys e
  match r.2 with
  | some b => { r.1 with tags := tabPut t { x with answer := 1, data := b } r.1.tags }
  | none => { r.1 with tags := tabPut t { x with answer := 2 } r.1.tags }

/-- The throttle holds (R357). -/
def State.throttled (s : State) : Bool :=
  s.thermal.hot || s.fbit Reg.THM_STATUS Bit.THM_STATUS_IMON || decide (s.now < s.thermal.imonEnd)

/-- The request of class GC or BE whose turn it is at controller n (R145): round-robin over the sources, in arrival order within
one. -/
def State.mcFirst (s : State) (n : Nat) (be : Bool) : Option McReq :=
  let mine := s.mcQueue.filter fun (r : McReq) => r.mc = n && r.be == be
  let next := match tabGet s.mcTurn (2 * n + b2n be) with
    | some last =>
      if mine.any (fun (r : McReq) => decide (last < r.source)) then mine.filter (fun (r : McReq) => decide (last < r.source))
      else mine
    | none => mine
  next.foldl (fun (b : Option McReq) (r : McReq) => match b with
    | some y => if r.source < y.source then some r else some y
    | none => some r) none

/-- A word hits the row that its bank has open (R146). -/
def State.rowHit (s : State) (phys : Nat) : Bool := decide (tabGet s.rowOpen (dramBank phys) = some (dramPlace phys).row)
/-- A served word leaves its row open. -/
def State.openRow (s : State) (phys : Nat) : State :=
  { s with rowOpen := tabPut (dramBank phys) (dramPlace phys).row s.rowOpen }

/-- The scan-out read that is served: the first of its class, or a row hit ahead of it whose deadline is no more than 250 ns later
(R146). -/
def State.scanPick (s : State) (l : List (Nat × Tag × Bool)) (hit : Option Nat) : Option (Nat × Tag × Bool) :=
  match firstRead l, hit with
  | some r, some w =>
    (match l.find? fun y => (match y.2.1.dest with
        | .localMem ph => decide (wordOf ph = w) && s.rowHit ph && decide (y.2.1.deadline ≤ r.2.1.deadline + 250)
        | _ => false) with
     | some y => some y
     | none => some r)
  | r, _ => r

/-- The request of class GC or BE that is served: the one whose turn it is, or a row hit ahead of it while it has waited less than
250 ns (R146). -/
def State.mcPick (s : State) (n : Nat) (be : Bool) (hit : Option Nat) : Option McReq :=
  match s.mcFirst n be, hit with
  | some r, some w =>
    (match s.mcQueue.find? fun y => y.mc = n && y.be == be && decide (y.word = w) && s.rowHit y.word &&
        decide (s.now < r.at_ + 250) with
     | some y => some y
     | none => some r)
  | r, _ => r

/-- A request of class GC or BE is served: its accessor takes the word with what ECC found in it (R100, R101). -/
def State.mcServe (s : State) (r : McReq) (e : Ecc) : State :=
  let s := { s with mcQueue := s.mcQueue.erase r, mcTurn := tabPut (2 * r.mc + b2n r.be) r.source s.mcTurn }
  let s := if e ≠ .clean && s.eccOn then { s with found := tabPut r.word e s.found } else s
  s.openRow r.word

/-- A memory controller serves its next request (R145 to R147): `scanHit` and `hit` name the words of row hits that it would
serve ahead among the scan-out reads and among the other requests, `e` is what ECC finds in the word served. Class M pre-empts; the throttle holds back class BE to one request in eight (R357). -/
def execMcServeRequest (n : McId) (scanHit hit : Option Nat) (e : Ecc) (s : State) : Result :=
  .next (
    if s.now < (tabGet s.mcBusy n).getD 0 || !s.memOn then s
    else
      let reads := s.scanReads n
      let served := { s with beGap := tabPut n ((tabGet s.beGap n).getD 7 + 1) s.beGap }
      let scan (r : Nat × Tag × Bool) :=
        match r.2.1.dest with
        | .localMem ph => (served.scanServe n r.1 r.2.1 ph e).openRow ph
        | _ => served
      match s.scanPick (reads.filter (·.2.2)) scanHit, s.mcPick n false hit, s.scanPick reads scanHit, s.mcPick n true hit with
      | some r, _, _, _ => scan r
      | none, some a, _, _ => served.mcServe a e
      | none, none, some r, _ => scan r
      | none, none, none, some a =>
        if s.throttled && decide ((tabGet s.beGap n).getD 7 < 7) then s
        else { s with beGap := tabPut n 0 s.beGap }.mcServe a e
      | none, none, none, none => s)

/-- The slack of a scan-out read falls to 4,000 ns (R145). -/
def execSchedUrgent (t : Fin 131072) (s : State) : Result :=
  .next (
    match tabGet s.tags t.val with
    | some x =>
      match x.dest with
      | .localMem ph =>
        if x.issued && decide (x.deadline - (s.replica (islandMc (mcOf ph)) : Int) ≤ 4000)
        then { s with tags := tabPut t.val { x with urgent := true } s.tags } else s
      | _ => s
    | none => s)

/-! Returns. -/

/-- Tiles of a CLT layer that the lines [y, y') of a pipe's part need (R155). -/
def tilesNeeded (m : View) (o : Occlusion) (h p sl y y' : Nat) : List Nat :=
  let cols := pipeColumns m h p
  uniq ((span (y / 32) (ceilDiv y' 32)).flatMap fun ty => (span (cols.1 / 32) (ceilDiv cols.2 32)).flatMap fun tx =>
    if visibleIn m o h sl tx ty then
      let c := tileCols m h tx
      let l := tileLines m h ty
      let xy := cropSpans m sl (columnsUsed m sl (max c.1 cols.1) (min c.2 cols.2)) (linesUsed m sl (max l.1 y) (min l.2 y'))
      tilesTouched m sl xy.1 xy.2
    else [])

/-- A tile is reported once in a frame: cause 2 a decode error (R111), 3 unplanned (R155). -/
def State.reportTile (s : State) (p h sl t cause : Nat) : State :=
  let x := s.frameRun h
  if (sl, t, cause) ∈ x.tiles then s
  else
    let s := s.setFrameRun h { x with tiles := (sl, t, cause) :: x.tiles, flags := x.flags ||| (if cause = 2 then 32 else 64) }
    let s := if cause = 3 then
        (s.fset (Reg.OCC_HEAD_UNPLANNED h) Bit.OCC_HEAD_UNPLANNED_UNPLANNED 1).fsat (Reg.OCC_HEAD_UNPLANNED h)
          Bit.OCC_HEAD_UNPLANNED_COUNT
      else s
    s.raise (srcHead h) cause (sl + t * 4096) (s.pipeIsland p)

/-- Map words that have arrived show tiles outside the admitted occupancy that are not `EMPTY` (R155). -/
def State.checkTiles (s : State) (o : Occlusion) (p h sl : Nat) (ts : List Nat) (entry : Nat → Option Nat) : State :=
  ts.foldl (fun s t =>
    match entry t with
    | some e => if !bitOf e 15 && !occupiedTile o sl t then s.reportTile p h sl t 3 else s
    | none => s) s
where
  /-- Entry of a tile in one map word. -/
  inWord (m : View) (sl w : Nat) (data : List Byte) (t : Nat) : Option Nat :=
    let off := mapOffset m sl (t % tilesX m sl) (t / tilesX m sl)
    if off / 64 = w then some (ofBytes ((data.drop (off % 64)).take 2)) else none

/-- The tag covers this word. -/
def Tag.covers (x : Tag) (y : Landed) : Bool :=
  y.pipe = x.pipe && y.head = x.head && y.slot = x.slot && y.kind = x.kind && y.word = x.word && y.frame = x.frame
/-- The word that a tag covers, changed. -/
def State.updWord (s : State) (x : Tag) (f : Landed → Landed) : State :=
  { s with landed := s.landed.map fun y => if x.covers y then f y else y }

/-- What the controller or the host core has read returns to its tag (R141); `lost` says that the transfer was lost in a
crossing, which is an error completion (R12). -/
def execFetchDataReturn (t : Fin 131072) (lost : Bool) (s : State) : Result :=
  .next (
    match tabGet s.tags t.val with
    | some x =>
      let answer := if lost then 3 else x.answer
      if !x.issued || decide (answer = 0) || decide (x.state = 3) then s
      else
      let s := if lost then s.crossingLoss (s.pipeIsland x.pipe) none else s
      if x.state = 2 then
        -- stale: nothing is written; the room is released
        (s.updWord x fun y => { y with status := 5 }).dropTag t.val
      else if answer = 3 then (s.updWord x fun y => { y with status := 3 }).dropTag t.val
      else
        let s := { s with tags := tabPut t.val { x with state := 3, answer := answer } s.tags }
        if x.kind = 2 && decide (answer = 1) then
          let m := s.pipeView x.pipe x.head
          let o := (s.pipePlan x.pipe x.head).occlusion
          s.checkTiles o x.pipe x.head x.slot (tilesNeeded m o x.head x.pipe x.slot 0 (activeH m x.head))
            (State.checkTiles.inWord m x.slot x.word x.data)
        else s
    | none => s)

/-- The landing write completes by the cluster's fetch-return lane (R116): the tag is freed (R141). -/
def execLandingWriteDone (t : Fin 131072) (s : State) : Result :=
  .next (
    match tabGet s.tags t.val with
    | some x =>
      if x.state = 3 then
        let at_ := ((s.landed.find? x.covers).map (·.at_)).getD 0
        let s := if x.answer = 1 then
            s.platePut (at_ / 2 ^ 23) (at_ % 2 ^ 23 / 64) (.fetchReturn (Fin.ofNat 4 (x.pipe / 9))) x.data
          else s
        (s.updWord x fun y => { y with status := if x.answer = 1 then 1 else 2 }).dropTag t.val
      else s
    | none => s)

/-! Host-window reads (R148, R149). -/

/-- The tag whose request is sent first: issued host reads not yet sent, earliest deadline, then arrival. -/
def State.nextHostTag (s : State) : Option (Nat × Tag) :=
  (firstRead (s.tags.filterMap fun e =>
    match e.2.dest with
    | .hostWin .. => if e.2.issued && e.2.request.isNone && decide (e.2.answer = 0) then some (e.1, e.2, false) else none
    | _ => none)).map fun x => (x.1, x.2.1)

/-- Words in the largest read request: 256 bytes, or Max_Read_Request_Size where that is less (R314). -/
def State.readWordsMax (s : State) : Nat := min 4 ((s.fn 0).maxRead / 64)

/-- Words of one segment in one naturally aligned block of n words that go out together: those next to each other around word w. -/
def mergeRun (n : Nat) (words : List Nat) (w : Nat) : List Nat :=
  words.filter fun v => decide (v / n = w / n) && (span (min v w) (max v w + 1)).all words.contains

/-- The PCIe core sends a merged read (R104, R148). -/
def execHostReadSend (s : State) : Result :=
  .next (
    match s.nextHostTag with
    | none => s
    | some (_, x) =>
      match x.dest with
      | .hostWin fn addr =>
        if !s.linkUp then s
        else
          -- words of the same segment that go on from this one in host memory; blocks lie on 256-byte addresses
          let place (y : Tag) : Option Nat := match y.dest with
            | .hostWin f a => if f = fn then some (a / 64) else none
            | _ => none
          let mate (y : Tag) : Bool := y.pipe = x.pipe && y.head = x.head && y.slot = x.slot && y.kind = x.kind &&
            y.band = x.band && y.frame = x.frame && y.issued && y.request.isNone && decide (y.answer = 0) &&
            (match place y with | some a => decide (a + x.word = addr / 64 + y.word) | none => false)
          let words : List Nat := (s.tags.filter fun e => mate e.2).filterMap fun e => place e.2
          let run := mergeRun s.readWordsMax words (addr / 64)
          let mine : List (Nat × Tag) := s.tags.filter fun e =>
            mate e.2 && (match place e.2 with | some a => run.contains a | none => false)
          let id := s.nextRead
          let base := run.foldl min (addr / 64) * 64
          let send (e : Nat × Tag) : Nat × Tag :=
            if mine.any (fun y => decide (y.1 = e.1)) then (e.1, { e.2 with request := some id }) else e
          let read : HostRead := ⟨id, fn, base, s.now + s.hostTimeout, mine.map fun (e : Nat × Tag) => e.1⟩
          let s := { s with tags := s.tags.map send, nextRead := id + 1, hostReads := s.hostReads ++ [read] }
          s.send (.readRequest fn base (64 * run.length))
      | _ => s)

/-- A host read of the fetch engine ends with an error: counted, logged in AER (R149, R323). -/
def State.hostReadError (s : State) (fn err : Nat) : State :=
  let off := Reg.FET_HOST_STATUS
  ((s.fset off Bit.FET_HOST_STATUS_ERROR 1).fsat off Bit.FET_HOST_STATUS_ERROR_COUNT).aerLog fn err

/-- A completion of a host read arrives (R149): the bytes from the first word on, an error status or poison. One that names
no read in flight is an unexpected completion (R322). -/
def execHostReadCompletion (id : Nat) (r : ReadResult) (s : State) : Result :=
  .next (
    match s.hostReads.find? (·.id = id) with
    | none => s.aerLog 0 3
    | some x =>
      let r := s.hostAnswer x.fn x.addr r
      let words := s.tags.filter fun e => decide (e.1 ∈ x.tags)
      let first := (words.map (·.2.word)).foldl min ((words.map (·.2.word)).headD 0)
      let answer (y : Tag) : Tag :=
        match r with
        | .data b => { y with answer := 1, data := (b.drop (64 * (y.word - first))).take 64 }
        | _ => { y with answer := 3 }
      let s := { s with
        hostReads := s.hostReads.filter fun y => decide (y.id ≠ id)
        tags := s.tags.map fun e => if e.1 ∈ x.tags then (e.1, answer e.2) else e }
      match r with
      | .data _ => s
      | .poisoned => s.hostReadError x.fn 1
      | _ => s.hostReadError x.fn 4)

/-- A host read of the fetch engine times out (R149): its tags return to `FREE`, and its words count as failed by an error
completion (DESIGN CHOICE, log entry 143). -/
def State.fetchTimeout (s : State) (id : Nat) : State :=
  match s.hostReads.find? (·.id = id) with
  | none => s
  | some x =>
    let off := Reg.FET_HOST_STATUS
    let s := ((s.fset off Bit.FET_HOST_STATUS_TIMEOUT 1).fsat off Bit.FET_HOST_STATUS_TIMEOUT_COUNT).aerLog x.fn 2
    let s := { s with hostReads := s.hostReads.filter fun y => decide (y.id ≠ id) }
    x.tags.foldl (fun s t =>
      match tabGet s.tags t with
      | some y => (s.updWord y fun z => { z with status := if y.state = 2 then 5 else 3 }).dropTag t
      | none => s) s

/-- A read of `FET_AP_CREDIT_LO` takes the snapshot of the selected Aperture. -/
def State.apSnap (s : State) : State :=
  let p := s.fget Reg.FET_AP_SEL Bit.FET_AP_SEL_PIPE
  let sl := s.fget Reg.FET_AP_SEL Bit.FET_AP_SEL_SLOT
  match s.aperture sl p with
  | some a =>
    let c := (a.credit % (2 ^ 48 : Int)).toNat
    (s.wr Reg.FET_AP_CREDIT_LO (c % 2 ^ 32)).wr Reg.FET_AP_CREDIT_HI (c / 2 ^ 32 + 2 ^ 16)
  | none => (s.wr Reg.FET_AP_CREDIT_LO 0).wr Reg.FET_AP_CREDIT_HI 0

/-! Line hold (R160 to R162). -/

/-- Line and byte column of a word of a plane (R106, R107). -/
def wordPlace (m : View) (sl kind w : Nat) : Nat × Nat :=
  let pitch := pitchOf m sl kind
  let off := 64 * w
  if lyr m sl Lyr.TILING = 1 then
    let row := off / (pitch * 32)
    let r := off % (pitch * 32)
    (row * 32 + r % 4096 / 128, r / 4096 * 128 + r % 128)
  else (off / pitch, off % pitch)

/-- The fill of a held word (R161): the nearest intact word of the same byte columns above it, else the nearest below it
that belongs to the same band. -/
def State.fillWord (s : State) (m : View) (o : Occlusion) (p h sl kind w : Nat) : Option (List Byte) :=
  if isClt m sl || decide (1 < kind) then none
  else
    let f := (s.head h).frame
    let at_ := wordPlace m sl kind w
    let same := (s.landed.filter fun x => x.pipe = p && x.head = h && x.slot = sl && x.kind = kind && x.frame = f &&
      x.status = 1 && !x.held && (!x.freed || isScaled m sl) && (wordPlace m sl kind x.word).2 = at_.2).map fun x =>
        ((wordPlace m sl kind x.word).1, x)
    let same := same.filter fun x => !x.2.freed || !s.bufferLost m p h sl x.1
    let above := same.filter fun x => decide (x.1 < at_.1)
    let below := same.filter fun x => decide (at_.1 < x.1) && !x.2.freed &&
      (bandOf m o h p sl kind x.2.word = bandOf m o h p sl kind w)
    let best (better : Nat → Nat → Bool) (l : List (Nat × Landed)) := (l.foldl (fun b x => match b with
      | none => some x
      | some y => if better x.1 y.1 then some x else some y) none).map fun x => s.landedBytes x.2
    match best (fun a b => decide (b < a)) above with
    | some d => some d
    | none => best (fun a b => decide (a < b)) below

/-- What the pipe has of a word for composition: its bytes, or its fill. -/
def State.wordFor (s : State) (m : View) (o : Occlusion) (p h sl kind w : Nat) : Option (List Byte) :=
  match s.intactWord p h sl kind w with
  | some b => some b
  | none => s.fillWord m o p h sl kind w

/-- Whether a word that was never granted went ungranted for want of a tag (R143): nothing else stood in its way. -/
def State.wantOfTag (s : State) (p : Nat) (w : Want) : Bool :=
  match s.wantPlace p w with
  | some (_, .localMem ph) => s.admits p w (.localMem ph) && (s.tagFor p false).isNone
  | some (_, .hostWin fn a) => s.admits p w (.hostWin fn a) && (s.tagFor p true).isNone
  | _ => false

/-- A word is held (R160, R162): counted, flagged, reported once per layer per frame. -/
def State.holdWord (s : State) (p h sl kind w cause : Nat) : State :=
  let m := s.pipeView p h
  let b := (bandOf m (s.pipePlan p h).occlusion h p sl kind w).getD 0
  let x := s.frameRun h
  let s := (s.fset (Reg.FET_PIPE_HOLD p) Bit.FET_PIPE_HOLD_HOLD 1).fsat (Reg.FET_PIPE_HOLD p) Bit.FET_PIPE_HOLD_WORDS
  if sl ∈ x.heldLayers then s
  else
    let s := s.setFrameRun h { x with heldLayers := sl :: x.heldLayers, flags := x.flags ||| 1 }
    let s := s.fsat (lyrOff sl Lyr.HOLD_COUNT) ⟨0, 16⟩
    s.raise (srcHead h) 1 (sl + b % 1024 * 4096 + 2 ^ 22 * cause) (s.pipeIsland p)

/-- The pipe reads a landing word for composition (R160): it uses the word or holds it; `e` is what SECDED finds as the word is read
from its plate. A word poisoned there, or read from a plate that the cluster does not own, is held, and one whose line the line buffer
has lost (R114, R117). -/
def State.consumeWord (s : State) (p h sl kind w : Nat) (e : Ecc) : State :=
  let m := s.pipeView p h
  let o := (s.pipePlan p h).occlusion
  let f := (s.head h).frame
  if !s.fetches p h || (s.sourceAt m sl f).isNone then s
  else
    match bandOf m o h p sl kind w with
    | none => s
    | some b =>
      match s.landedWord p h sl kind w with
      | some x =>
        if x.used then
          (if x.status = 1 && isScaled m sl && !x.held && decide (kind < 2) && s.bufferLost m p h sl (wordPlace m sl kind w).1
           then (s.putLanded { x with held := true }).holdWord p h sl kind w 3 else s)
        else if x.status = 1 then
          let r := s.plateTake (x.at_ / 2 ^ 23) (x.at_ % 2 ^ 23 / 64) (s.pipeUnit p) e
          if r.2.isSome then r.1.putLanded { x with used := true }
          else (r.1.putLanded { x with used := true, held := true }).holdWord p h sl kind w 3
        else
          let cause := match x.status with | 0 => 1 | 2 => 3 | 3 => 4 | _ => 5
          let s := s.putLanded { x with used := true, held := true }
          let mine (y : Tag) : Bool := y.covers x && decide (y.state < 2)
          let s := { s with tags := s.tags.map fun (e : Nat × Tag) => if mine e.2 then (e.1, { e.2 with state := 2 }) else e }
          s.holdWord p h sl kind w cause
      | none =>
        if !s.called m p h sl kind w then s
        else
          let s := if s.wantOfTag p ⟨0, h, sl, kind, b, w⟩ then
              (s.fset Reg.FET_TAG_STATUS Bit.FET_TAG_STATUS_EXHAUST 1).raise 5531 0 0 (s.pipeIsland p)
            else s
          (s.putLanded ⟨p, h, sl, kind, w, f, 5, [], true, true, false, 0⟩).holdWord p h sl kind w 2

/-- The pipe reads a landing word. -/
def execPipeConsumeWord (p : PipeId) (h : HeadId) (sl : SlotId) (kind : Fin 4) (w : WordRead) (s : State) : Result :=
  .next (s.consumeWord p h sl kind w.word w.found)

/-- Accesses of the fetch engine in flight: frame-store address and time of translation (R96). -/
def State.tagsInFlight (s : State) : List (Nat × Nat) := s.tags.map fun e => (e.2.addr, e.2.at_)

end Sys2Proof.Machine
end

