-- ==== Sys2Proof/Machine/FrameStore.lean ====
section
/-! DEFINITION. Plate Map entries (R94 to R96), refresh and retraining (R101, R145) and page retirement (R102, R103). -/

namespace Sys2Proof.Machine

/-- `PMAP_ENTRY_LO` as it reads: `VALID` forced to 0 for invalid and reserve pages, `RESERVE` per page (R95). -/
def State.pmapLo (s : State) (p : Nat) : Nat :=
  let w := setBits (s.rd (Reg.PMAP_ENTRY_LO p)) 0 1 (b2n (s.pageValid p))
  setBits w 10 1 (b2n (p < 65536 && s.isReserve p))

/-- A write of a Plate Map entry applies (R94 to R96): the rights and the function, `TARGET` of a host-window page only; a
write of `VALID` 1 to an invalid or reserve page stores 0. -/
def State.pmapWrite (s : State) (p : Nat) (hi : Bool) (v : Nat) : State :=
  let s := { s with pmapStamp := tabPut p s.now s.pmapStamp }
  let lo := Reg.PMAP_ENTRY_LO p
  if hi then (if 65536 ≤ p then s.wr (Reg.PMAP_ENTRY_HI p) v else s)
  else
    let valid := bitOf v 0 && (decide (65536 ≤ p) || decide (p < s.validPages - 1024))
    let s := s.wr lo (setBits (setBits (s.rd lo) 0 9 v) 0 1 (b2n valid))
    if 65536 ≤ p then s.fset lo Bit.PMAP_ENTRY_LO_TARGET (getBits v 20 12) else s

/-- A PF write of `PMAP_ENTRY_LO` or `_HI` (R96). -/
def execPmapEntryWrite (p : PageId) (hi : Bool) (v : Word) (s : State) : Result :=
  .next (s.access (Reg.PMAP_ENTRY_LO p) fun s => s.pmapWrite p hi v.toNat)

/-- The frame-store addresses and issue times of the accesses that a sequencer has in flight. -/
def Seq.inFlight (x : Seq) : List (Nat × Nat) :=
  (match x.waiting with
   | .fetch line _ t => [(line, t)]
   | .load _ _ addr (.register _) t _ => [(2 ^ 37 + addr, t)]
   | .load _ _ addr _ t _ => [(addr, t)]
   | .atom _ _ _ addr _ t _ _ => [(addr, t)]
   | _ => []) ++
  (x.stores.filterMap fun st => match st.dest with | .register _ => none | _ => some (st.word, st.at_)) ++
  (x.ringRead.toList ++ x.pollRead.toList).map fun rd => (rd.addr, rd.at_)

/-- The frame-store addresses and times of translation of the accesses that a channel has in flight. -/
def Chan.inFlight (x : Chan) : List (Nat × Nat) :=
  x.descRead.toList.map (fun rd => (rd.addr, rd.at_)) ++
  x.reads.map (fun r => (r.addr, r.at_)) ++ x.acks.map (fun b => (b.dst, b.at_))

/-- The frame-store addresses and times of translation of the lines of a stream that drain (R297). -/
def Stream.inFlight (x : Stream) : List (Nat × Nat) := x.lines.filterMap fun l => l.drain.map fun d => (l.addr, d.2)

/-- The accesses in flight of the fetch engine, the DMA channels and the ingest streams. -/
def State.otherInFlight (s : State) : List (Nat × Nat) :=
  s.tagsInFlight ++ (s.chans.flatMap (fun e => e.2.inFlight) ++ s.streams.flatMap fun e => e.2.inFlight)

/-- Every access of the device in flight: frame-store address and time of translation (R96). -/
def State.inFlight (s : State) : List (Nat × Nat) :=
  s.seqs.flatMap (fun e => e.2.inFlight) ++ s.otherInFlight

/-- An access translated through an earlier value of the entry of page p has not completed (R96). -/
def State.earlierPending (s : State) (p : Nat) : Bool :=
  match tabGet s.pmapStamp p with
  | none => false
  | some t => s.inFlight.any fun a => a.1 / 2 ^ 20 = p && decide (a.2 ≤ t)

/-- The PF's read of an entry completes (R96): only after earlier writes have applied and every access translated through
an earlier value has completed. -/
def execPmapEntryRead (p : PageId) (hi : Bool) (s : State) : Result :=
  .next (
    if s.earlierPending p then s
    else s.send (.completion 0 (toBytes 4 (if hi then s.rd (Reg.PMAP_ENTRY_HI p) else s.pmapLo p)) false))

/-- A refresh or periodic retraining window of `ns` pre-empts the other classes of a controller (R145). -/
def execMcRefresh (n : McId) (ns : Nat) (s : State) : Result :=
  .next { s with mcBusy := tabPut n (s.now + ns) s.mcBusy }

/-- Repeated EDC failures on a channel start an emergency retraining, outside the periodic windows (R101, R210); a link
error never poisons data. -/
def execMcEmergencyRetrain (n : McId) (ns : Nat) (s : State) : Result :=
  .next { s with mcBusy := tabPut n (max (s.now + ns) ((tabGet s.mcBusy n).getD 0)) s.mcBusy }

/-- A write of `SYS_RETIRE_REQ` (R102). -/
def State.retireReq (s : State) (v : Nat) : State :=
  let p := v % 65536
  if s.validPages - 1024 ≤ p then s.fset Reg.SYS_RETIRE_STATUS Bit.SYS_RETIRE_STATUS_REQ_REFUSED 1 else s.candidate p

/-- A write of `SYS_RETIRE_REQ` (R102). -/
def execRetireReqWrite (v : Word) (s : State) : Result :=
  .next (s.access Reg.SYS_RETIRE_REQ fun s => s.retireReq v.toNat)

/-- The retirement engine takes the next candidate and the lowest-numbered unused reserve frame; from here writes to the
old frame are mirrored (R103). -/
def execRetireStart (s : State) : Result :=
  .next (
    match s.retiring, s.retireQueue with
    | none, p :: rest =>
      let used := s.fget Reg.SYS_RETIRE_STATUS Bit.SYS_RETIRE_STATUS_USED
      let s := { s with retireQueue := rest }.fset Reg.SYS_RETIRE_STATUS Bit.SYS_RETIRE_STATUS_PENDING rest.length
      if used = 1024 then
        (s.fset Reg.SYS_RETIRE_STATUS Bit.SYS_RETIRE_STATUS_RETIRE_DROP 1).raise 5535 2 p 0
      else
        { s with retiring := some ⟨p, s.pageTarget p / 2 ^ 20, s.validPages - 1024 + used, false⟩ }.fset
          Reg.SYS_RETIRE_STATUS Bit.SYS_RETIRE_STATUS_BUSY 1
    | _, _ => s)

/-- The copy ends (R103): the whole frame stands in the reserve frame, a word that reads uncorrectable as a
poisoned word, the read recorded as R101 states; `TARGET` and `REMAPPED` are written under R96. -/
def execRetireCopyDone (s : State) : Result :=
  .next (
    match s.retiring with
    | some r =>
      if r.copied then s
      else
        let src := 2 ^ 20 * r.fromFrame
        let dst := 2 ^ 20 * r.toFrame
        let met := if s.eccOn then s.poison.filter fun a => decide (src ≤ a) && decide (a < src + 2 ^ 20) else []
        let bad := met.map fun a => a - src + dst
        let s := met.foldl State.uncorrectable s
        let s := { s with mem := memWrite s.mem dst (s.loadBytes src (2 ^ 20)), poison := bad ++ s.poison,
                          retiring := some { r with copied := true }, pmapStamp := tabPut r.page s.now s.pmapStamp }
        let s := s.fset (Reg.PMAP_ENTRY_LO r.page) Bit.PMAP_ENTRY_LO_TARGET (r.toFrame % 4096)
        let s := s.wr (Reg.PMAP_ENTRY_HI r.page) (r.toFrame / 4096)
        s.fset (Reg.PMAP_ENTRY_LO r.page) Bit.PMAP_ENTRY_LO_REMAPPED 1
    | none => s)

/-- Accesses translated to the old frame have completed (R103): mirroring stops, the frame is retired and never used again,
the reserve frame counts as used, the event is raised. -/
def execRetireComplete (s : State) : Result :=
  .next (
    match s.retiring with
    | some r =>
      if !r.copied || s.earlierPending r.page then s
      else
        let used := s.fget Reg.SYS_RETIRE_STATUS Bit.SYS_RETIRE_STATUS_USED + 1
        let s := { s with
          retiring := none
          retired := r.fromFrame :: s.retired
          flashLog := s.flashLog ++ [(6, r.page + 2 ^ 17 * r.toFrame + 2 ^ 34 * r.fromFrame)] }
        let s := s.fset Reg.SYS_RETIRE_STATUS Bit.SYS_RETIRE_STATUS_USED used
        let s := s.fset Reg.SYS_RETIRE_STATUS Bit.SYS_RETIRE_STATUS_BUSY 0
        let s := s.fset Reg.SYS_SPARE_STATUS Bit.SYS_SPARE_STATUS_FRAMES_FREE (1024 - used)
        s.raise 5535 1 r.page (islandMc (mcOf (2 ^ 20 * r.fromFrame)))
    | none => s)

end Sys2Proof.Machine
end

