-- ==== Sys2Proof/Machine/Compose.lean ====
section
/-! DEFINITION. Composition of an output line (R138, R155, R160, R199), the codes that a head sends (R19, R204, R236, R281,
R353, R364) and the retained frame (R352, R353). -/

namespace Sys2Proof.Machine

/-! What a head shows. -/

/-- The copy with which the pipes compose head h: that of a split pipe island, else the active one. -/
def State.headView (s : State) (h : Nat) : View :=
  match s.splits.find? fun x => decide (26 ≤ x.island) && decide (x.island < 62) &&
      decide (groupOf s.active h = some x.group) && decide (x.island ∈ (pipesOf x.view h).map islandPipe) with
  | some x => x.view
  | none => s.active

/-- The part of a head that a pipe composes: 1 for the right pipe of a pair. -/
def partOf (m : View) (h p : Nat) : Nat := if hdf m h Hd.PAIR_EN = 1 ∧ p = hdf m h Hd.PIPE2 then 1 else 0
/-- Parts of a head. -/
def partsOf (m : View) (h : Nat) : Nat := if hdf m h Hd.PAIR_EN = 1 then 2 else 1

/-- A value behind stage 6 from the rows of a frame; black where no row stands. -/
def rowValue (m : View) (h : Nat) (rows : List (Nat × List (Nat × Nat × Nat))) (x y : Nat) : Nat × Nat × Nat :=
  let half := activeW m h / 2
  let right := decide (partsOf m h = 2) && decide (half ≤ x)
  ((tabGet rows (2 * y + b2n right)).getD []).getD (if right then x - half else x) (0, 0, 0)

/-- The black code (R236), by component. -/
def blackCode (m : View) (h : Nat) : List Nat :=
  let n := outBits m h
  match getBits (cctl m h) 8 3 with
  | 0 => [0, 0, 0]
  | 4 => [0, 1, 2].map fun k => (Config.programmedBlack h k).toNat % 2 ^ n
  | _ => if bitOf (cctl m h) 12 then [16 * 2 ^ n / 256, 128 * 2 ^ n / 256, 128 * 2 ^ n / 256]
         else [0, 2 ^ (n - 1), 2 ^ (n - 1)]

/-- Codes of line y by component; on the odd lines of 4:2:0 the chroma of their pair of lines. -/
def fullCodes (m : View) (h : Nat) (run : FrameRun) (frame y : Nat) : List (List Nat) :=
  if run.black then
    let w := activeW m h
    let c := blackCode m h
    let n := if sampling m h = 0 then w else w / 2
    [List.replicate w (c.getD 0 0), List.replicate n (c.getD 1 0), List.replicate n (c.getD 2 0)]
  else
    let get := rowValue m h run.rows
    if sampling m h = 2 ∧ y % 2 = 1 then
      [(lineCodes m h frame get y).getD 0 [], (lineCodes m h frame get (y - 1)).getD 1 [],
       (lineCodes m h frame get (y - 1)).getD 2 []]
    else lineCodes m h frame get y

/-- Pixel pairs of a line replaced by those of another (R364). -/
def replacePairs (m : View) (h y : Nat) (cols : List Nat) (own other : List (List Nat)) : List (List Nat) :=
  let luma := (own.getD 0 []).mapIdx fun x v => if cols.contains (x / 2 * 2) then (other.getD 0 []).getD x v else v
  let chroma (k : Nat) := (own.getD k []).mapIdx fun j v =>
    let x := if sampling m h = 0 then j / 2 * 2 else 2 * j
    if cols.contains x then (other.getD k []).getD j v else v
  if sampling m h = 2 ∧ y % 2 = 1 then [luma, own.getD 1 [], own.getD 2 []] else [luma, chroma 1, chroma 2]

/-- Codes of line y beneath any warning pattern, with the replacements of R364. -/
def patchedCodes (m : View) (h : Nat) (run : FrameRun) (frame : Nat) : Nat → List (List Nat)
  | 0 => replacePairs m h 0 ((run.patches.filter (·.1 = 0)).map (·.2)) (fullCodes m h run frame 0)
           (fullCodes m h { run with black := true } frame 0)
  | y + 1 =>
    let cols := (run.patches.filter (·.1 = y + 1)).map (·.2)
    if cols = [] then fullCodes m h run frame (y + 1)
    else replacePairs m h (y + 1) cols (fullCodes m h run frame (y + 1)) (patchedCodes m h run frame y)

/-! Signature regions (R278, R281). -/

/-- The rectangle of region r: first column, past the last, first line, past the last; empty when not first < past. -/
def regionRect (m : View) (h r : Nat) : Nat × Nat × Nat × Nat :=
  let bound := (headLayers m h).find? fun sl => bitOf (lyr m sl Lyr.SIG_BIND) 4 && decide (getBits (lyr m sl Lyr.SIG_BIND) 0 4 = r)
  match bound with
  | some sl =>
    let c := clip (dstX m sl) (lyr m sl Lyr.DST_W) 0 (activeW m h)
    let l := clip (dstY m sl) (lyr m sl Lyr.DST_H) 0 (activeH m h)
    (c.1, c.2, l.1, l.2)
  | none =>
    (sgf m h r Sg.SIG_X, min (sgf m h r Sg.SIG_X + sgf m h r Sg.SIG_W) (activeW m h),
     sgf m h r Sg.SIG_Y, min (sgf m h r Sg.SIG_Y + sgf m h r Sg.SIG_H) (activeH m h))

/-- A pixel lies in region r. -/
def inRegion (m : View) (h r x y : Nat) : Bool :=
  let q := regionRect m h r
  decide (q.1 ≤ x) && decide (x < q.2.1) && decide (q.2.2.1 ≤ y) && decide (y < q.2.2.2)

/-- Component k of the warning pattern of region r at a pixel (R281). -/
def warnCode (m : View) (h r k x y : Nat) : Nat :=
  if (x + y) / 16 % 2 = 0 then
    let v := match k with
      | 0 => sgf m h r Sg.WARN_C01 % 4096
      | 1 => getBits (sgf m h r Sg.WARN_C01) 16 12
      | _ => sgf m h r Sg.WARN_C2 % 4096
    v % 2 ^ outBits m h
  else (blackCode m h).getD k 0

/-- Codes of a line with the warning pattern of the regions in the mask, the higher region over the lower. -/
def warnCodes (m : View) (h warn y : Nat) (codes : List (List Nat)) : List (List Nat) :=
  ((List.range 16).filter (bitOf warn)).foldl (fun c r => c.mapIdx fun k l => l.mapIdx fun j v =>
    let halved := decide (k ≠ 0) && decide (sampling m h ≠ 0)
    let x := if halved then 2 * j else j
    let y := if halved && decide (sampling m h = 2) then y / 2 * 2 else y
    if inRegion m h r x y then warnCode m h r k x y else v) codes

/-- The codes that head h sends on line y of the frame in progress, and those beneath the pattern. -/
def State.sentCodes (s : State) (h y : Nat) : List (List Nat) :=
  let m := s.headView h
  warnCodes m h (s.frameRun h).warn y (patchedCodes m h (s.frameRun h) (s.head h).frame y)
def State.beneathCodes (s : State) (h y : Nat) : List (List Nat) :=
  patchedCodes (s.headView h) h (s.frameRun h) (s.head h).frame y

/-! Composition. -/

/-- A layer put into an order by `ZORDER`. -/
def insertZ (m : View) (sl : Nat) : List Nat → List Nat
  | [] => [sl]
  | x :: xs => if lyr m sl Lyr.ZORDER ≤ lyr m x Lyr.ZORDER then sl :: x :: xs else x :: insertZ m sl xs

/-- The layers of a head in ascending `ZORDER`. -/
def zLayers (m : View) (h : Nat) : List Nat := (headLayers m h).foldr (insertZ m) []

/-- The linear colour of a layer at a raster position; none where it is not visible, removed or transparent (R199). -/
def State.layerAt (s : State) (m : View) (o : Occlusion) (p h sl x y : Nat) : Option Px :=
  let i := (x : Int) - dstX m sl
  let j := (y : Int) - dstY m sl
  if i < 0 ∨ j < 0 ∨ (lyr m sl Lyr.DST_W : Int) ≤ i ∨ (lyr m sl Lyr.DST_H : Int) ≤ j then none
  else if !visibleIn m o h sl (x / 32) (y / 32) then none
  else if isSolid m sl then some (solidColour m sl)
  else if (s.sourceAt m sl (s.head h).frame).isNone then none
  else (scaledPixel m o sl (bandOf m o h p sl 0) (s.wordFor m o p h sl) i.toNat j.toNat).map (layerColour m sl)

/-- The values behind stage 6 of one line of a pipe's part. -/
def State.composeRow (s : State) (m : View) (o : Occlusion) (p h y : Nat) : List (Nat × Nat × Nat) :=
  let cols := pipeColumns m h p
  let ls := zLayers m h
  (span cols.1 cols.2).map fun x =>
    headStages m h (ls.foldl (fun d sl =>
      match s.layerAt m o p h sl x y with
      | some q => blendLayer m sl q d
      | none => d) (0, 0, 0))

/-- The words that a line needs of one layer, the tile map and palette first. -/
def lineWords (m : View) (o : Occlusion) (h p sl y : Nat) : List (Nat × Nat) :=
  [2, 3, 0, 1].flatMap fun k => (linesNeed m o h p sl k y (y + 1)).map fun w => (k, w)

/-- A word is needed by a line after y. -/
def neededAfter (m : View) (o : Occlusion) (h p sl k w y : Nat) : Bool :=
  let e := min (16 * (y / 16) + 16) (activeH m h)
  (decide (y + 1 < e) && (linesNeed m o h p sl k (y + 1) e).contains w) ||
    (span (y / 16 + 1) (bandCount m h)).any fun b => (bandNeed m o h p sl k b).contains w ||
      (decide (k = 3) && decide (linesNeed m o h p sl 3 (16 * b) (min (16 * b + 16) (activeH m h)) ≠ []))

/-- At the end of line y the pipe frees the words that no later line uses (R138); each goes on counting as fetched in this frame.
The line buffer of a scaled layer keeps those of this line (R161, R184), a frame that is being retained the bytes it was
composed from. A word that a tag still covers keeps its room (R141). -/
def State.freeWords (s : State) (m : View) (o : Occlusion) (p h y : Nat) : State :=
  let f := (s.head h).frame
  let building := (s.frameRun h).building
  let free (x : Landed) : Landed :=
    if x.pipe ≠ p ∨ x.head ≠ h ∨ x.frame ≠ f ∨ x.status = 6 ∨ neededAfter m o h p x.slot x.kind x.word y then x
    else if s.tags.any fun e => e.2.covers x then x
    else if isScaled m x.slot && (lineWords m o h p x.slot y).contains (x.kind, x.word) then
      { x with data := if x.status = 1 then s.landedBytes x else [], freed := true }
    else if building && decide (x.status = 1) && x.used && !x.held then
      { x with status := 6, data := s.landedBytes x, freed := true, used := true }
    else { x with status := 6, data := [], freed := true, used := true }
  { s with landed := s.landed.map free }

/-- CLT tiles that the line needs: decode errors (R111) and tiles outside the admitted occupancy (R155) are reported. -/
def State.lineTiles (s : State) (m : View) (o : Occlusion) (p h sl y : Nat) : State :=
  if !isClt m sl || (s.sourceAt m sl (s.head h).frame).isNone then s
  else
    let ts := tilesNeeded m o h p sl y (y + 1)
    let s := ts.foldl (fun s t =>
      match tileOf m o sl (s.wordFor m o p h sl) (t % tilesX m sl) (t / tilesX m sl) with
      | .error => s.reportTile p h sl t 2
      | _ => s) s
    s.checkTiles o p h sl ts (s.mapEntry m p h sl)

/-! The retained frame (R352, R353). -/

/-- The word of a pixel of a retained frame (R352), from the codes of its line; a pixel of subsampled output takes the chroma of its
pair (log entry 53). -/
def retainedWord (m : View) (h : Nat) (codes : List (List Nat)) (x : Nat) : Nat :=
  let j := if sampling m h = 0 then x else x / 2
  codeWord (outBits m h) ((codes.getD 0 []).getD x 0) ((codes.getD 1 []).getD j 0) ((codes.getD 2 []).getD j 0)

/-- The pixel words of tile (tx, ty) of a pipe's columns; those outside are zero (R108). -/
def retainedTile (m : View) (h p : Nat) (lines : List (List (List Nat))) (tx ty : Nat) : List Nat :=
  let cols := pipeColumns m h p
  (List.range 1024).map fun i =>
    let x := cols.1 + 32 * tx + i % 32
    let y := 32 * ty + i / 32
    if x < cols.2 ∧ y < activeH m h then retainedWord m h (lines.getD y []) x else 0

/-- Bytes of a pipe's part of a retained frame (R110, R352): its tile map, whose entries hold a block offset of 24 bits more than
those of R109, and the coded tiles behind it. -/
def State.retainedBytes (s : State) (m : View) (h p : Nat) : Nat :=
  let cols := pipeColumns m h p
  let tx := ceilDiv (cols.2 - cols.1) 32
  let ty := ceilDiv (activeH m h) 32
  let lines := (List.range (activeH m h)).map (fullCodes m h (s.frameRun h) (s.head h).frame)
  let blocks := sumOf ((List.range ty).flatMap fun b => (List.range tx).map fun a =>
    (encodeTile 4 (retainedTile m h p lines a b)).2.length)
  kib (64 * ceilDiv (5 * ty * (ceilDiv tx 32 * 32)) 64 + blocks)

/-- Free pieces of `size` bytes in the plates of a pipe's cluster, outside every item and `taken` (R353); none when it does not
fit. -/
def State.retainedPlace (s : State) (p h size : Nat) (taken : List Item) : Option (List Item) :=
  let i : Item := ⟨p, h, 4097, 1024, 0, 0⟩
  let busy := taken ++ s.busyItems ++ s.retained.flatMap (·.2.items)
  let blocks := (s.eligible i).flatMap fun pl =>
    (List.range 8192).filterMap fun k =>
      let b : Item := { i with plate := pl, start := 1024 * k }
      if busy.any b.meets then none else some b
  if 1024 * blocks.length < size then none else some (blocks.take (size / 1024))

/-- The places of a head's retained frame, one part for each of its pipes (R353): none unless every part fits. -/
def State.retainedItems (s : State) (m : View) (h : Nat) : Option (List Item) :=
  (pipesOf m h).foldl (fun (taken : Option (List Item)) p => taken.bind fun l =>
    (s.retainedPlace p h (s.retainedBytes m h p) l).map (l ++ ·)) (some [])

/-- The bytes of layers that the frame in progress was composed from: slot, kind, word, bytes (R353). -/
def State.composedFrom (s : State) (h : Nat) : List (Nat × Nat × Nat × List Byte) :=
  (s.landed.filter fun x => x.head = h && decide (x.frame = (s.head h).frame) && decide (x.data ≠ [])).map fun x =>
    (x.slot, x.kind, x.word, x.data)

/-- The last line of a frame has been composed: holds end (R299), `ACT_BUF` follows what was shown, which on a black frame is
nothing (R167), a retained frame that was being built stands (R352). -/
def State.frameComposed (s : State) (h : Nat) : State :=
  let m := s.headView h
  let f := (s.head h).frame
  let s := { s with holds := s.holds.filter fun x => !(x.2.1 = h && x.2.2 = f) }
  let s := (headLayers m h).foldl (fun s sl =>
    match tabGet s.shown (shownKey sl f false) with
    | some x =>
      match x.source, x.ring with
      | some _, some k => if x.frame = f ∧ !(s.frameRun h).black then s.wr (lyrOff sl Lyr.ACT_BUF) k else s
      | _, _ => s
    | none => s) s
  let x := s.frameRun h
  if x.building && !s.throttled then
    match s.retainedItems m h with
    | some items =>
      let shown := (headLayers m h).map fun sl => (sl, s.sourceAt m sl f)
      { s with retained := tabPut h ⟨x.rows, items, s.composedFrom h, shown⟩ s.retained }
    | none => s.fset Reg.PWR_STATUS Bit.PWR_STATUS_RETAIN_MISS 1
  else s

/-- A pipe composes one output line of its part of a head (R199): it reads the words it has not read, composes from what it
has, and frees what no later line uses. A shed head is composed black (R358); a head that reads its retained frame takes
the line from it (R353). -/
def State.composeLine (s : State) (p h y : Nat) : State :=
  let m := s.pipeView p h
  let part := partOf m h p
  if !s.serves p h || decide (activeH m h ≤ y) || (tabGet (s.frameRun h).rows (2 * y + part)).isSome then s
  else
    let o := (s.pipePlan p h).occlusion
    let put (s : State) (row : List (Nat × Nat × Nat)) : State :=
      s.setFrameRun h { s.frameRun h with rows := tabPut (2 * y + part) row (s.frameRun h).rows }
    let s :=
      if (s.frameRun h).black then put s []
      else if (s.frameRun h).reading then
        put s ((((tabGet s.retained h).bind fun r => tabGet r.rows (2 * y + part))).getD [])
      else
        let s := (headLayers m h).foldl (fun s sl =>
          (lineWords m o h p sl y).foldl (fun s kw => s.consumeWord p h sl kw.1 kw.2 .clean) s) s
        let s := (headLayers m h).foldl (fun s sl => s.lineTiles m o p h sl y) s
        (put s (s.composeRow m o p h y)).freeWords m o p h y
    if (s.frameRun h).rows.length = activeH m h * partsOf m h then
      s.frameComposed h |>.setFrameRun h { (s.frameComposed h).frameRun h with doneAt := s.now }
    else s

end Sys2Proof.Machine
end

