-- ==== Sys2Proof/Machine/Events.lean ====
section
/-! DEFINITION. The Event Controller and the Finder (R332 to R347), the MSI-X tables (R321). -/

namespace Sys2Proof.Machine

/-! Who sleeps (R345). -/

/-- The present power state (R348). -/
def State.powerState (s : State) : Nat := s.fget Reg.PWR_STATUS Bit.PWR_STATUS_STATE
/-- The power state of the PCIe link (R325): 0 L0 or L0p, 1 to 3 L1, L1.1 and L1.2, which only PS3 and deeper request. -/
def State.linkPower (s : State) : Nat :=
  let (l1, l11, l12) := (s.fn 0).aspm
  if !s.linkUp || decide (s.powerState < 3) || !l1 then 0 else if l12 then 3 else if l11 then 2 else 1
/-- A host function sleeps. -/
def State.fnAsleep (s : State) (f : Nat) : Bool := decide (3 ≤ (s.fn f).dstate) || decide (4 ≤ s.powerState)
/-- A Station core sleeps: its island is powered down. -/
def State.coreAsleep (s : State) : Bool := !s.islandOn 5

/-! Targets (R335, R345). -/

/-- Where an event is delivered. -/
inductive Target
  | host (fn vec : Nat)
  | core (c : Nat)
  | nobody
deriving DecidableEq, Repr

/-- The function or core sleeps. -/
def State.asleep (s : State) : Target → Bool
  | .host f _ => s.fnAsleep f
  | .core _ => s.coreAsleep
  | .nobody => false

/-- Target of a source by its own routing (R335). -/
def State.ownTarget (s : State) (src : Nat) : Target :=
  let off := Reg.EVC_SRC_CFG src
  if !s.fbit off Bit.EVC_SRC_CFG_EN then .nobody
  else
    match s.fget off Bit.EVC_SRC_CFG_TARGET with
    | 0 => .host (s.sourceFn src) (s.fget off Bit.EVC_SRC_CFG_VECTOR)
    | 1 => .core 0
    | 2 => .core 1
    | _ => .nobody
/-- The fallback target (R345). -/
def State.fallback (s : State) : Target :=
  match s.fget Reg.EVC_CTL Bit.EVC_CTL_FALLBACK with
  | 0 => .core 0
  | 1 => .core 1
  | _ => .host 0 (s.fget Reg.EVC_CTL Bit.EVC_CTL_FALLBACK_VEC)
/-- Where a pending source is to be delivered. -/
def State.targetOf (s : State) (src : Nat) : Target := if src ∈ s.redirected then s.fallback else s.ownTarget src

/-- The pending mark of a source is cleared, by a delivery or a discard. -/
def State.unpend (s : State) (src : Nat) : State :=
  let s := { s with
    pendTime := tabDel src s.pendTime
    heldSince := tabDel src s.heldSince
    timedOut := s.timedOut.erase src
    redirected := s.redirected.erase src }
  (s.fset (Reg.EVC_SRC_CFG src) Bit.EVC_SRC_CFG_PENDING 0).fset (Reg.EVC_SRC_CFG src) Bit.EVC_SRC_CFG_HELD 0

/-- A pending source is held while its target sleeps, and is released when it wakes (R345). -/
def State.holdCheck (s : State) (src : Nat) : State :=
  let off := Reg.EVC_SRC_CFG src
  if !s.fbit off Bit.EVC_SRC_CFG_PENDING || src ∈ s.redirected then s
  else if s.asleep (s.ownTarget src) then
    if s.fbit off Bit.EVC_SRC_CFG_HELD then
      if src ∈ s.timedOut && !s.asleep s.fallback then
        { s with redirected := src :: s.redirected, timedOut := s.timedOut.erase src }.fset off Bit.EVC_SRC_CFG_HELD 0
      else s
    else { s with heldSince := tabPut src s.now s.heldSince }.fset off Bit.EVC_SRC_CFG_HELD 1
  else { s with heldSince := tabDel src s.heldSince, timedOut := s.timedOut.erase src }.fset off Bit.EVC_SRC_CFG_HELD 0

/-- Every pending source is looked at again, after a target woke. -/
def State.wakeTargets (s : State) : State := s.pendTime.foldl (fun s e => s.holdCheck e.1) s

/-! Records (R336). -/

/-- The 16 bytes of a record. -/
def recordBytes (o : Occ) (lost : Bool) : List Byte :=
  toBytes 8 o.time ++ toBytes 2 o.source ++ toBytes 1 (o.island % 128 + 128 * b2n lost) ++ toBytes 1 o.cause ++
    toBytes 4 (o.detail % 2 ^ 32)

/-- Base, slots and enable of a function's record ring. -/
def State.evRingBase (s : State) (f : Nat) : Nat :=
  let size := 2 ^ (12 + s.fget (Reg.EVC_FN_RING_CTL f) Bit.EVC_FN_RING_CTL_SIZE)
  (s.rd (Reg.EVC_FN_RING_BASE_LO f) / 4096 * 4096 + 2 ^ 32 * (s.rd (Reg.EVC_FN_RING_BASE_HI f) % 32)) / size * size
def State.evRingSlots (s : State) (f : Nat) : Nat := 2 ^ (8 + s.fget (Reg.EVC_FN_RING_CTL f) Bit.EVC_FN_RING_CTL_SIZE)

/-- A record is dropped: `OVERFLOW`, and `LOST` in the next one written. -/
def State.dropRecord (s : State) (f : Nat) : State :=
  { s with ringLost := setAdd f s.ringLost }.fset (Reg.EVC_FN_RING_CTL f) Bit.EVC_FN_RING_CTL_OVERFLOW 1

/-- A record goes to a function's ring, or is dropped (R336). -/
def State.fnRecord (s : State) (f : Nat) (o : Occ) : State :=
  let wr := s.rd (Reg.EVC_FN_RING_WR f)
  let full := decide (s.evRingSlots f ≤ (wr + 2 ^ 32 - s.rd (Reg.EVC_FN_RING_RD f)) % 2 ^ 32)
  if full || !s.fbit (Reg.EVC_FN_RING_CTL f) Bit.EVC_FN_RING_CTL_EN then s.dropRecord f
  else
    let bytes := recordBytes o (f ∈ s.ringLost)
    let written (s : State) : State :=
      { s with ringLost := s.ringLost.erase f }.wr (Reg.EVC_FN_RING_WR f) (wr + 1)
    match s.translate f (s.evRingBase f + 16 * (wr % s.evRingSlots f)) .write with
    | .localMem phys => written (s.touchMem.store phys bytes)
    | .hostWin fn a =>
      if s.linkUp && !s.fnAsleep f then written (s.send (.write fn a bytes)) else s.dropRecord f
    | .refused _ => s.dropRecord f

/-- A record goes to a Station core's ring in `PL31`, or is dropped (R336). -/
def State.coreRecord (s : State) (c : Nat) (o : Occ) : State :=
  if 4096 ≤ (s.stationRecords.filter (·.1 = c)).length then { s with ringLost := setAdd (32 + c) s.ringLost }
  else
    { s with
      stationRecords := s.stationRecords ++ [(c, recordBytes o (32 + c ∈ s.ringLost))]
      ringLost := s.ringLost.erase (32 + c) }

/-! Occurrences (R334, R335). -/

/-- An occurrence reaches the Event Controller: it is counted whatever its routing; a routed one is recorded and leaves its
source pending, held while its target sleeps. -/
def State.arrive (s : State) (o : Occ) : State :=
  let s := s.finc (Reg.EVC_SRC_COUNT o.source) Bit.EVC_SRC_COUNT_COUNT
  let pend (s : State) : State :=
    let s := if (tabGet s.pendTime o.source).isSome then s else { s with pendTime := tabPut o.source o.time s.pendTime }
    (s.fset (Reg.EVC_SRC_CFG o.source) Bit.EVC_SRC_CFG_PENDING 1).holdCheck o.source
  match s.ownTarget o.source with
  | .host f _ => pend (s.fnRecord f o)
  | .core c => pend (s.coreRecord c o)
  | .nobody => s

/-- A source stands on the Finder's watch list (R346). -/
def State.watched (s : State) (src : Nat) : Bool :=
  (List.range 64).any fun k =>
    s.fbit (Reg.AON_WATCH k) Bit.AON_WATCH_EN && decide (s.fget (Reg.AON_WATCH k) Bit.AON_WATCH_SOURCE = src)

/-- The Finder takes an occurrence (R346, R347): its source is watched, of a port only cause 1, and its target, or the
device, sleeps. -/
def State.finderTakes (s : State) (o : Occ) : Bool :=
  s.watched o.source && (decide (4352 ≤ o.source ∧ o.source < 4480 → o.cause = 1)) &&
    (decide (4 ≤ s.powerState) || s.asleep (s.ownTarget o.source))

/-- An occurrence list without its first occurrence of a source. -/
def dropOcc (src : Nat) : List Occ → List Occ
  | [] => []
  | o :: os => if o.source = src then os else o :: dropOcc src os

/-- The oldest occurrence of a source reaches island 2; none does in Safe Station (R377). -/
def execEventOccurrence (src : Fin 6144) (s : State) : Result :=
  .next (
    match s.occs.find? (·.source = src.val) with
    | some o =>
      if s.safe || !s.islandOn 2 || s.finderTakes o then s else { s with occs := dropOcc src s.occs }.arrive o
    | none => s)

/-! Sources outside the core (R332). -/

/-- The host can give a wake signal: an L1 exit begins from L1, `PERST_N` is released in PS4 or PS5, `CLKREQ_N` is asserted where the
link had let go of it, in L1.1, L1.2 or while it is down (R325, R332). -/
def State.maySignal (s : State) (cause : Fin 3) : Bool :=
  match cause with
  | 0 => decide (1 ≤ s.linkPower)
  | 1 => decide (4 ≤ s.powerState)
  | 2 => !s.linkUp || decide (2 ≤ s.linkPower)

/-- The host begins an L1 exit, releases `PERST_N` in PS4 or PS5, or asserts `CLKREQ_N`: causes 1 to 3 of source 5,525. -/
def execHostWakeSignal (cause : Fin 3) (s : State) : Result :=
  .next (if s.maySignal cause then s.raise 5525 (cause.val + 1) 0 0 else s)

/-- An edge at a `GPIO` pin. -/
def execGpioEdge (k : Fin 16) (rise : Bool) (s : State) : Result :=
  .next (s.raise (srcGpio k) (if rise then 1 else 2) 0 0)

/-! Arbitration (R338 to R343). -/

/-- Group and sub-priority of a priority (R338). -/
def State.prioGroup (s : State) (prio : Nat) : Nat := prio / 2 ^ s.fget Reg.EVC_CTL Bit.EVC_CTL_GROUP_SPLIT
def State.prioSub (s : State) (prio : Nat) : Nat := prio % 2 ^ s.fget Reg.EVC_CTL Bit.EVC_CTL_GROUP_SPLIT
def State.prioOf (s : State) (src : Nat) : Nat := s.fget (Reg.EVC_SRC_CFG src) Bit.EVC_SRC_CFG_PRIO

/-- The first list comes before the second by its numbers in order. -/
def lexLess : List Nat → List Nat → Bool
  | a :: as, b :: bs => decide (a < b) || (decide (a = b) && lexLess as bs)
  | _, _ => false

/-- The candidate with the least key. -/
def leastBy {α : Type} : List (List Nat × α) → Option (List Nat × α)
  | [] => none
  | x :: xs =>
    match leastBy xs with
    | some y => if lexLess y.1 x.1 then some y else some x
    | none => some x

/-- Pending sources that are not held and whose targets are awake, with their targets and times. -/
def State.deliverable (s : State) : List (Nat × Target × Nat) :=
  (s.pendTime.filter fun e =>
    !s.fbit (Reg.EVC_SRC_CFG e.1) Bit.EVC_SRC_CFG_HELD && !s.asleep (s.targetOf e.1)).map fun e => (e.1, s.targetOf e.1, e.2)

/-- Entries of a function's MSI-X table (R321). -/
def vectorsOf (f : Nat) : Nat := if f = 0 then 2048 else 64
/-- Number of a host vector among the instances of `EVC_VEC_CFG`. -/
def vecIndex (f v : Nat) : Nat := if f = 0 then v else 2048 + 64 * (f - 1) + v
/-- The word k of an MSI-X table entry. -/
def msixOff (f v k : Nat) : Nat := (if f = 0 then Reg.MSIX_ADDR_LO v else Reg.VF_MSIX_ADDR_LO f v) + 4 * k

/-- A vector is masked: by its entry, by its function, or by bits [1:0] of its address (R321). -/
def State.vecMasked (s : State) (f v : Nat) : Bool :=
  !(s.fn f).msixEnable || (s.fn f).msixMask || bitOf (s.rd (msixOff f v 3)) 0 || decide (s.rd (msixOff f v 0) % 4 ≠ 0)

/-- A vector is held by moderation (R342), which the idle hint bypasses (R343). -/
def State.vecModerated (s : State) (f v : Nat) : Bool :=
  s.fbit (Reg.EVC_VEC_CFG (vecIndex f v)) Bit.EVC_VEC_CFG_MOD_ACTIVE && !s.fbit (Reg.EVC_FN_IDLE f) Bit.EVC_FN_IDLE_IDLE

/-- The host vectors that may launch, with the key of R340: group, sub-priority, earliest time, function, vector. -/
def State.launchable (s : State) : List (List Nat × Nat × Nat) :=
  s.deliverable.filterMap fun (src, t, _) =>
    match t with
    | .host f v =>
      if decide (vectorsOf f ≤ v) || s.vecMasked f v || s.vecModerated f v then none
      else
        let mine := s.deliverable.filter fun x => decide (x.2.1 = .host f v)
        let prio := (mine.map fun x => s.prioOf x.1).foldl min (s.prioOf src)
        let time := (mine.map fun x => x.2.2).foldl min (((tabGet s.pendTime src).getD 0))
        some ([s.prioGroup prio, s.prioSub prio, time, f, v], f, v)
    | _ => none

/-- A PBA bit (R341): the vector is pending. -/
def State.vecPending (s : State) (f v : Nat) : Bool :=
  s.pendTime.any fun e => decide (s.targetOf e.1 = .host f v)

/-- A message for a vector enters the transmit queue: every source routed to it loses its pending mark, the idle hint
clears, a moderation interval begins (R340 to R343). -/
def State.launch (s : State) (f v : Nat) : State :=
  let addr := s.rd (msixOff f v 0) + 2 ^ 32 * s.rd (msixOff f v 1)
  let mine := s.deliverable.filter fun x => decide (x.2.1 = .host f v)
  let s := s.send (.msix f v addr (s.rd (msixOff f v 2)))
  let s := mine.foldl (fun s x => s.unpend x.1) s
  let s := s.fset (Reg.EVC_FN_IDLE f) Bit.EVC_FN_IDLE_IDLE 0
  let i := vecIndex f v
  let us := s.fget (Reg.EVC_VEC_CFG i) Bit.EVC_VEC_CFG_MOD
  if us = 0 then { s with modEnd := tabDel i s.modEnd }.fset (Reg.EVC_VEC_CFG i) Bit.EVC_VEC_CFG_MOD_ACTIVE 0
  else
    { s with modEnd := tabPut i (s.replica 1 + 1000 * us) s.modEnd }.fset (Reg.EVC_VEC_CFG i)
      Bit.EVC_VEC_CFG_MOD_ACTIVE 1

/-- The PCIe core launches the message whose turn it is (R340, R341). -/
def execMsixLaunch (s : State) : Result :=
  .next (
    if !s.linkUp then s
    else match leastBy s.launchable with
      | some (_, f, v) => s.launch f v
      | none => s)

/-- A vector's moderation interval ends (R342). -/
def execModIntervalEnd (v : Fin 4032) (s : State) : Result :=
  .next (
    match tabGet s.modEnd v with
    | some t =>
      if t ≤ s.replica 1 then
        { s with modEnd := tabDel v s.modEnd }.fset (Reg.EVC_VEC_CFG v) Bit.EVC_VEC_CFG_MOD_ACTIVE 0
      else s
    | none => s)

/-- Levels entered by a Station core, and the sources it may enter, with the key of R339. -/
def State.levelsOf (s : State) (c : Nat) : List Nat := (tabGet s.stationLevels c).getD []
def State.enterable (s : State) (c : Nat) : List (List Nat × Nat) :=
  s.deliverable.filterMap fun (src, t, time) =>
    let p := s.prioOf src
    if t = .core c && (s.levelsOf c).all (fun l => decide (s.prioGroup p < s.prioGroup l))
    then some ([s.prioGroup p, s.prioSub p, time, src], src) else none

/-- A Station core's moderation holds back a pre-emption (R342); its wait state bypasses it (R343). -/
def State.coreModerated (s : State) (c : Nat) : Bool :=
  !s.fbit (Reg.EVC_SC_CTL c) Bit.EVC_SC_CTL_WAITING &&
    (match tabGet s.stationEntry c with
     | some t => decide (s.replica 2 < t + 1000 * s.fget (Reg.EVC_SC_CTL c) Bit.EVC_SC_CTL_MOD)
     | none => false)

/-- A Station core enters the handler of the source whose turn it is (R339). -/
def execStationHandlerEntry (c : Fin 2) (s : State) : Result :=
  .next (
    if s.coreAsleep || s.stationDown || decide (8 ≤ (s.levelsOf c).length) || s.coreModerated c then s
    else
      match leastBy (s.enterable c) with
      | none => s
      | some (_, src) =>
        let levels := s.prioOf src :: s.levelsOf c
        let s := { s.unpend src with
          stationLevels := tabPut c levels s.stationLevels
          stationEntry := tabPut c (s.replica 2) s.stationEntry }
        (s.fset (Reg.EVC_SC_CTL c) Bit.EVC_SC_CTL_DEPTH levels.length).fset (Reg.EVC_SC_CTL c)
          Bit.EVC_SC_CTL_WAITING 0)

/-- The handler of a Station core's innermost level returns, its firmware having read its ring; with no level left the core
may enter its wait state (R339, R343). -/
def execStationHandlerReturn (c : Fin 2) (wait : Bool) (s : State) : Result :=
  .next (
    match s.levelsOf c with
    | [] => s
    | _ :: rest =>
      let s := { s with
        stationLevels := tabPut c rest s.stationLevels
        stationRecords := s.stationRecords.filter fun x => decide (x.1 ≠ c.val) }
      (s.fset (Reg.EVC_SC_CTL c) Bit.EVC_SC_CTL_DEPTH rest.length).fset (Reg.EVC_SC_CTL c) Bit.EVC_SC_CTL_WAITING
        (b2n (wait && decide (rest = []))))

/-! Routing writes (R333, R335, R344). -/

/-- The function of a source changes (R319, R320, R333): `EN` is cleared, pending and held state is discarded. -/
def State.sourceMoved (s : State) (src : Nat) : State := (s.unpend src).fset (Reg.EVC_SRC_CFG src) Bit.EVC_SRC_CFG_EN 0

/-- A write of `EVC_SRC_CFG` by function w (R333, R335, R344). -/
def State.srcCfgWrite (s : State) (w src v : Nat) : State :=
  let off := Reg.EVC_SRC_CFG src
  if 5539 ≤ src || (w ≠ 0 && s.sourceFn src ≠ w) then s
  else
    let fn := getBits v 24 5
    let soft := decide (5184 ≤ src) && decide (src < 5440) && decide (w = 0)
    let s := if soft && fn ≠ s.fget off Bit.EVC_SRC_CFG_FN then (s.unpend src).fset off Bit.EVC_SRC_CFG_FN fn else s
    let tgt := getBits v 1 2
    let vec := getBits v 3 11
    let s := s.fset off Bit.EVC_SRC_CFG_EN (getBits v 0 1)
    let s := if w ≠ 0 && (tgt = 1 || tgt = 2) then s else s.fset off Bit.EVC_SRC_CFG_TARGET tgt
    let s := if w ≠ 0 && 64 ≤ vec then s else s.fset off Bit.EVC_SRC_CFG_VECTOR vec
    let s := s.fset off Bit.EVC_SRC_CFG_PRIO (getBits v 16 8)
    if s.ownTarget src = .nobody then s.unpend src
    else { s with redirected := s.redirected.erase src }.holdCheck src

/-- A write of `EVC_SRC_CFG`. -/
def execEvcSrcCfgWrite (w : FnId) (src : Fin 6144) (v : Word) (s : State) : Result :=
  .next (s.access (Reg.EVC_SRC_CFG src) fun s => s.srcCfgWrite w src v.toNat)

/-- A write of `EVC_FN_IDLE` by function w: 1 sets the hint (R343). -/
def State.fnIdleWrite (s : State) (w f v : Nat) : State :=
  if (w = 0 || w = f) && bitOf v 0 then s.fset (Reg.EVC_FN_IDLE f) Bit.EVC_FN_IDLE_IDLE 1 else s
/-- A write of `EVC_FN_IDLE`. -/
def execEvcFnIdleWrite (w f : FnId) (v : Word) (s : State) : Result :=
  .next (s.access (Reg.EVC_FN_IDLE f) fun s => s.fnIdleWrite w f v.toNat)

/-- A write of word k of entry v of function f's MSI-X table (R321, R341). -/
def State.msixWrite (s : State) (f v k x : Nat) : State :=
  if vectorsOf f ≤ v then s else s.wr (msixOff f v k) (if k = 3 then x % 2 else x)
/-- A write to an MSI-X table. -/
def execMsixTableWrite (f : FnId) (v : Fin 2048) (k : Fin 4) (x : Word) (s : State) : Result :=
  .next (s.access (Reg.MSIX_ADDR_LO 0) fun s => s.msixWrite f v k x.toNat)

/-! Sleeping targets (R345) and the Finder (R346, R347). -/

/-- The hold time of a source that is not watched runs out (R345). -/
def execEventHoldTimeout (src : Fin 6144) (s : State) : Result :=
  .next (
    match tabGet s.heldSince src with
    | some t =>
      if s.watched src || decide (s.now < t + 1000000 * s.fget Reg.EVC_CTL Bit.EVC_CTL_HOLD_MS) ||
          decide (src.val ∈ s.redirected) then s
      else ({ s with timedOut := setAdd src s.timedOut }).holdCheck src
    | none => s)

/-- Sources that may be watched (R346). -/
def wakeCapable (src : Nat) : Bool :=
  (decide (4352 ≤ src) && decide (src < 4480)) || (decide (5497 ≤ src) && decide (src < 5529))

/-- A write of `AON_WATCH` (R346). -/
def State.watchWrite (s : State) (k v : Nat) : State :=
  if wakeCapable (v % 8192) then s.wr (Reg.AON_WATCH k) (v % 16384)
  else (s.fset Reg.AON_STATUS Bit.AON_STATUS_WATCH_REFUSED 1).fset Reg.AON_STATUS Bit.AON_STATUS_ENTRY k
/-- A write of `AON_WATCH` by the PF. -/
def execAonWatchWrite (k : Fin 64) (v : Word) (s : State) : Result :=
  .next (s.access (Reg.AON_WATCH k) fun s => s.watchWrite k v.toNat)

/-- A watched source occurs while its target sleeps (R347): the wake is recorded, the device leaves its state, a host
target is told by PME or `WAKE_N`. During a wake under way the occurrence only joins those that are handed over. -/
def State.finderWake (s : State) (o : Occ) : State :=
  let joins := s.finder ≠ []
  let s := { s with occs := dropOcc o.source s.occs, finder := s.finder ++ [{ o with island := 0 }] }
  if joins then s
  else
  let s := { s with waking := true, exitTo := 0, pwrTarget := none }
  let s := if s.fbit Reg.AON_WAKE_CAUSE Bit.AON_WAKE_CAUSE_VALID then s else
    let s := s.fset Reg.AON_WAKE_CAUSE Bit.AON_WAKE_CAUSE_SOURCE o.source
    let s := s.fset Reg.AON_WAKE_CAUSE Bit.AON_WAKE_CAUSE_VALID 1
    (s.wr Reg.AON_WAKE_TIME_LO (o.time % 2 ^ 32)).wr Reg.AON_WAKE_TIME_HI (o.time / 2 ^ 32)
  match s.ownTarget o.source with
  | .host f _ =>
    if (s.fn f).dstate = 3 && (s.fn f).pmeEnable then
      if s.linkUp then s.send (.pme f) else { s with pmeWait := setAdd f s.pmeWait }
    else if (s.fn f).dstate = 4 then { s with wakeN := true }
    else s
  | _ => s

/-- The Finder takes the oldest occurrence of a watched source. -/
def execFinderWake (src : Fin 6144) (s : State) : Result :=
  .next (
    match s.occs.find? (·.source = src.val) with
    | some o => if s.finderTakes o then s.finderWake o else s
    | none => s)

/-- The device-wide order (R383): by stamp, then by island, then by source. Two occurrences that agree in all three keep the order in
which they were raised. -/
def occBefore (a b : Occ) : Bool := lexLess [a.time, a.island, a.source] [b.time, b.island, b.source]

/-- An occurrence goes to its place among occurrences in the device-wide order, behind those equal to it. -/
def occInsert (o : Occ) : List Occ → List Occ
  | [] => [o]
  | x :: xs => if occBefore o x then o :: x :: xs else x :: occInsert o xs

/-- Occurrences in the device-wide order (R383). -/
def occSort (l : List Occ) : List Occ := l.foldl (fun (m : List Occ) o => occInsert o m) []

/-- Island 2 has power: the Finder hands over what it latched, in the order of occurrence (R347, R383). -/
def execFinderHandover (s : State) : Result :=
  .next (
    if s.islandOn 2 then (occSort s.finder).foldl (fun s o => s.arrive o) { s with finder := [] } else s)

end Sys2Proof.Machine
end

