-- ==== Sys2Proof/Machine/Ports.lean ====
section
/-! DEFINITION. DisplayPort ports: quads and lanes (R237 to R239), training (R241 to R243), AUX (R244, R245), HPD (R246,
R247), lane substitution and loopback (R252 to R254). -/

namespace Sys2Proof.Machine

/-- A port's state. -/
def State.port (s : State) (n : Nat) : Port := (tabGet s.ports n).getD Port.reset
/-- The state with a port's state set. -/
def State.setPort (s : State) (n : Nat) (x : Port) : State := { s with ports := tabPut n x s.ports }

/-- `POLICY` of a port: 0 `AUTO`, 1 `FIXED`, 2 `MANUAL`. -/
def State.policy (s : State) (n : Nat) : Nat := s.fget (Reg.PRT_LINK_CTL n) Bit.PRT_LINK_CTL_POLICY
/-- The head is enabled in the active state or in a pending state of its group. -/
def State.enabledAnywhere (s : State) (h : Nat) : Bool :=
  decide (hdf s.active h Hd.HEAD_EN = 1) || s.admitted.any fun a => decide (hdf a.view h Hd.HEAD_EN = 1) &&
    a.frames.any fun x => decide (groupOf a.view h = some x.1)

/-- Code of a lane count, and the count of a code (`LANES`). -/
def laneCode (lanes : Nat) : Nat := if lanes = 4 then 2 else if lanes = 2 then 1 else 0
def laneCount (code : Nat) : Nat := 2 ^ min code 2

/-! The AUX engine (R245). -/

/-- A transaction begins: 1 the driver's, 2 a link-status read, 3 one of a training. -/
def State.auxBegin (s : State) (n who : Nat) : State :=
  s.setPort n { s.port n with aux := who, tries := 0, defers := 0, deferred := false, auxAt := s.now }

/-- A disconnection ends the attempt in hand (R243); it is not counted as a failure. -/
def State.dropAttempt (s : State) (n : Nat) : State :=
  (s.setPort n { s.port n with running := false, wanted := false, attempts := [], dropping := false, irqSeen := false }).setPortState
    n 0

/-- The next transaction of a free AUX engine (R245); `last` is the one before it. The link engine goes first, but a driver transaction
waits for no second one of it. A disconnection ends a training at its next transaction (R243). -/
def State.auxNext (s : State) (n last : Nat) : State :=
  let x := s.port n
  let driver (s : State) : State :=
    if (s.port n).driverWaits then (s.setPort n { s.port n with driverWaits := false }).auxBegin n 1 else s
  if x.aux ≠ 0 then s
  else if x.driverWaits && decide (2 ≤ last) then driver s
  else if x.engineWaits then (s.setPort n { x with engineWaits := false }).auxBegin n 2
  else if x.running && x.dropping then driver (s.dropAttempt n)
  else if x.wanted || x.running then s.auxBegin n 3
  else driver s

/-- The AUX engine is free for the next transaction. -/
def State.auxFree (s : State) (n : Nat) : State :=
  let last := (s.port n).aux
  (s.setPort n { s.port n with aux := 0, tries := 0, defers := 0, deferred := false }).auxNext n last

/-- A training that has ended leaves the AUX engine. -/
def State.auxSettle (s : State) (n : Nat) : State :=
  if (s.port n).aux = 3 && !(s.port n).wanted && !(s.port n).running then s.auxFree n else s

/-! Training. -/

/-- Training is asked for (R241). -/
def State.train (s : State) (n : Nat) (held : Option (Nat × Nat)) : State :=
  let x := s.port n
  ((s.setPort n { x with wanted := true, running := false, attempts := [], held := held, dropping := false }).setPortState
    n 2).auxNext n 0

/-- Training asked for anew: the retries of R242 count from zero. -/
def State.trainAnew (s : State) (n : Nat) : State := (s.setPort n { s.port n with retries := 0 }).train n none

/-- The port enters `TRAIN_FAIL` (R242). -/
def State.trainFail (s : State) (n : Nat) : State :=
  let s := s.setPort n { s.port n with wanted := false, running := false, attempts := [], failAt := s.now }
  (((s.setPortState n 3).fset (Reg.PRT_LINK_STATUS n) Bit.PRT_LINK_STATUS_TRAIN_FAILED 1).raise (srcPort n) 4 0
    (islandHead n)).auxSettle n

/-- The rates and lane counts that training tries, in order (R241, R242): `rates` the codes that the sink and every LTTPR
support, `sinkLanes` the sink's lane count. A width with a failed lane is left out (R253); `FIXED` knows one attempt only. -/
def State.attemptList (s : State) (n rates sinkLanes : Nat) : List (Nat × Nat) :=
  let full := s.headLanes n
  let top := s.fget (Reg.PRT_LINK_CTL n) Bit.PRT_LINK_CTL_MAX_RATE
  let fits (r l : Nat) := decide (hdf s.active n Hd.HEAD_EN = 0) || s.streamFits s.active n l r
  let sound (l : Nat) := (s.port n).failedLanes.all fun k => decide (l ≤ k)
  if s.policy n = 1 then (if full = 0 then [] else [(top, full)])
  else
    let all := ([4, 2, 1].filter fun l => decide (l ≤ min full sinkLanes) && sound l).flatMap fun l =>
      ([6, 5, 4, 3, 2, 1, 0].filter fun r => decide (r ≤ top) && bitOf rates r && fits r l).map fun r => (r, l)
    match (s.port n).held with
    | some h => if all.contains h then all.dropWhile (fun a => decide (a ≠ h)) else all
    | none => all

/-- The link engine begins an attempt (R241): the first reads the capabilities of the sink and the LTTPRs. It waits while a
transaction of the driver runs (R245). -/
def execTrainingAttemptStart (n : HeadId) (rates : BitVec 7) (lanes : Fin 3) (lttprs : Fin 9) (s : State) : Result :=
  .next (
    let x := s.port n
    if s.portState n ≠ 2 || !x.wanted || decide (x.aux = 1) then s
    else
      let list := if x.attempts = [] then s.attemptList n rates.toNat (laneCount lanes) else x.attempts
      let s := s.fset (Reg.PRT_LINK_STATUS n) Bit.PRT_LINK_STATUS_LTTPRS lttprs
      if list = [] then s.trainFail n
      else (s.setPort n { x with wanted := false, running := true, attempts := list }).auxNext n 0)

/-- An IRQ_HPD is examined: the link engine reads the link status (R247). -/
def State.askLinkStatus (s : State) (n : Nat) : State :=
  if s.policy n = 2 then s else (s.setPort n { s.port n with engineWaits := true }).auxNext n 0

/-- An attempt ends (R242, R243): link up; or the next attempt; or `TRAIN_FAIL`. -/
def execTrainingAttemptEnd (n : HeadId) (ok : Bool) (s : State) : Result :=
  .next (
    let x := s.port n
    let off := Reg.PRT_LINK_STATUS n
    match x.attempts with
    | [] => s
    | (rate, lanes) :: rest =>
      if s.portState n ≠ 2 || !x.running then s
      else if x.dropping then (s.dropAttempt n).auxSettle n
      else
        let irq (s : State) : State := if x.irqSeen then (s.setPort n { s.port n with irqSeen := false }).askLinkStatus n else s
        if ok then
          let s := s.setPort n { x with running := false, wanted := false, attempts := [], held := none, retries := 0 }
          let s := (s.fset off Bit.PRT_LINK_STATUS_RATE rate).fset off Bit.PRT_LINK_STATUS_LANES (laneCode lanes)
          let s := s.fsat off Bit.PRT_LINK_STATUS_TRAIN_COUNT
          let s := s.fset (Reg.PRT_LANE n) Bit.PRT_LANE_DEGRADED (b2n (lanes < s.headLanes n))
          irq (((s.setPortState n 4).raise (srcPort n) 3 0 (islandHead n)).auxSettle n)
        else
          let s := s.fsat off Bit.PRT_LINK_STATUS_FAIL_COUNT
          if rest = [] then irq (s.trainFail n)
          else irq (s.setPort n { x with running := false, wanted := true, attempts := rest }))

/-- One second has passed in `TRAIN_FAIL` (R242). -/
def execTrainRetryTimer (n : HeadId) (s : State) : Result :=
  .next (
    let x := s.port n
    if s.portState n = 3 && s.fbit (Reg.PRT_LINK_CTL n) Bit.PRT_LINK_CTL_AUTO_RETRY && decide (s.policy n ≠ 2) &&
        decide (x.retries < 8) && decide (x.failAt + 1000000000 ≤ s.now) then
      (s.setPort n { x with retries := x.retries + 1 }).train n none
    else s)

/-- A write of `PRT_LINK_CTL` (R241, R243). -/
def State.linkCtlWrite (s : State) (n v : Nat) : State :=
  let off := Reg.PRT_LINK_CTL n
  let rate := if v % 8 = 7 then 6 else v % 8
  let policy := if getBits v 4 2 = 3 then 0 else getBits v 4 2
  let change := decide (rate ≠ s.fget off Bit.PRT_LINK_CTL_MAX_RATE) || decide (policy ≠ s.policy n)
  let s := if s.enabledAnywhere n && change then
      s.fset (Reg.PRT_LINK_STATUS n) Bit.PRT_LINK_STATUS_CTL_REFUSED 1
    else (s.fset off Bit.PRT_LINK_CTL_MAX_RATE rate).fset off Bit.PRT_LINK_CTL_POLICY policy
  let s := s.fset off Bit.PRT_LINK_CTL_AUTO_RETRY (getBits v 6 1)
  if bitOf v 7 && decide (s.portState n ≠ 0) && decide (s.portState n ≠ 2) && decide (s.policy n ≠ 2) then s.trainAnew n
  else s

/-- A write of `PRT_LINK_CTL` by function w. -/
def execPrtLinkCtlWrite (w : FnId) (n : HeadId) (v : Word) (s : State) : Result :=
  .next (if s.headReach w n then s.access (Reg.PRT_LINK_CTL n) fun s => s.linkCtlWrite n v.toNat else s)
/-- A write of `RETRAIN` 1, the other fields as they stand. -/
def execRetrain (w : FnId) (n : HeadId) (s : State) : Result :=
  .next (if s.headReach w n then
    s.access (Reg.PRT_LINK_CTL n) fun s => s.linkCtlWrite n (s.rd (Reg.PRT_LINK_CTL n) % 128 + 128) else s)

/-- A write of `PRT_MAN_CTL` (R241): ignored unless `POLICY` is `MANUAL`. -/
def State.manCtlWrite (s : State) (n v : Nat) : State :=
  if s.policy n ≠ 2 then s
  else
    let off := Reg.PRT_MAN_CTL n
    let lanes := min (getBits v 3 2) (laneCode (s.headLanes n))
    let pattern := if 9 < getBits v 8 4 then 9 else getBits v 8 4
    let s := s.wr off (v % 8 + lanes * 8 + pattern * 256 + 2 ^ 16 * getBits v 16 16)
    if s.portState n = 0 then s
    else if pattern = 0 then
      let st := Reg.PRT_LINK_STATUS n
      let same := decide (4 ≤ s.portState n) && decide (s.fget st Bit.PRT_LINK_STATUS_RATE = v % 8) &&
        decide (s.fget st Bit.PRT_LINK_STATUS_LANES = lanes)
      if same then s
      else ((s.fset st Bit.PRT_LINK_STATUS_RATE (v % 8)).fset st Bit.PRT_LINK_STATUS_LANES lanes).setPortState n 4
    else s.setPortState n (if pattern = 9 then 1 else 2)

/-- A write of `PRT_MAN_CTL` by function w. -/
def execPrtManCtlWrite (w : FnId) (n : HeadId) (v : Word) (s : State) : Result :=
  .next (if s.headReach w n then s.access (Reg.PRT_MAN_CTL n) fun s => s.manCtlWrite n v.toNat else s)

/-- A write of `PRT_QUAD_MODE` (R238). -/
def State.quadWrite (s : State) (q v : Nat) : State :=
  let off := Reg.PRT_QUAD_MODE q
  let ports := (List.range 4).map (4 * q + ·)
  let s := if bitOf v 2 then s.fset off Bit.PRT_QUAD_MODE_REFUSED 0 else s
  if v % 4 = s.fget off Bit.PRT_QUAD_MODE_MODE then s
  else if ports.any s.enabledAnywhere then s.fset off Bit.PRT_QUAD_MODE_REFUSED 1
  else
    ports.foldl (fun s n =>
      let s := (s.setPort n { s.port n with wanted := false, running := false, attempts := [] }).auxSettle n
      s.setPortState n (if s.fbit (Reg.PRT_HPD n) Bit.PRT_HPD_CONNECTED then 1 else 0))
      (s.fset off Bit.PRT_QUAD_MODE_MODE (v % 4))

/-- A write of `PRT_QUAD_MODE` by the PF. -/
def execPrtQuadModeWrite (q : Fin 32) (v : Word) (s : State) : Result :=
  .next (s.access (Reg.PRT_QUAD_MODE q) fun s => s.quadWrite q v.toNat)

/-- The port at a boundary of its head (R236, R240, R241): `VIDEO` or `BLACK` when it is trained and the stream fits; a
head that starts on a port in `UNTRAINED`, or at a rate too low, has it trained. -/
def State.portBoundary (s : State) (h : Nat) (started : Bool) : State :=
  let st := s.portState h
  let off := Reg.PRT_LINK_STATUS h
  let auto := decide (s.policy h ≠ 2)
  if st = 1 && started && auto then s.trainAnew h
  else if st < 4 then s
  else if (s.drive (hdf s.active h Hd.CD_SEL)).gated then s.setPortState h 4
  else if !s.streamFits s.active h (laneCount (s.fget off Bit.PRT_LINK_STATUS_LANES)) (s.fget off Bit.PRT_LINK_STATUS_RATE) then
    (if auto then s.trainAnew h else s.setPortState h 4)
  else
    let s := s.setPortState h (if s.headState h = 2 then 6 else 5)
    if (s.port h).substituting then
      (s.setPort h { s.port h with substituting := false }).fset (Reg.PRT_LANE h) Bit.PRT_LANE_SUBST_DONE 1
    else s

/-! HPD (R246, R247). -/

/-- The island that samples `HPD`: the port's, or the Finder's while that has no power (R346). -/
def State.hpdIsland (s : State) (n : Nat) : Nat := if s.islandOn (islandHead n) then islandHead n else 0

/-- `HPD` falls. -/
def execHpdFall (n : HeadId) (s : State) : Result :=
  .next ((s.setPort n { s.port n with fallAt := some s.now, riseAt := none }).fset (Reg.PRT_HPD n) Bit.PRT_HPD_LEVEL 0)

/-- `HPD` rises: a low of less than 0.25 ms was a glitch, one of less than 2 ms an IRQ_HPD. -/
def execHpdRise (n : HeadId) (s : State) : Result :=
  .next (
    let x := s.port n
    let off := Reg.PRT_HPD n
    let s := (s.setPort n { x with riseAt := some s.now, fallAt := none }).fset off Bit.PRT_HPD_LEVEL 1
    match x.fallAt with
    | none => s
    | some t =>
      if s.posting.isSome || !s.islandOn (islandHead n) || decide (t + 2000000 ≤ s.now) then s
      else if s.now < t + 250000 then s.fsat off Bit.PRT_HPD_GLITCH_COUNT
      else
        let s := ((s.fset off Bit.PRT_HPD_IRQ 1).fsat off Bit.PRT_HPD_IRQ_COUNT).raise (srcPort n) 2 0 (islandHead n)
        if s.portState n = 2 then s.setPort n { s.port n with irqSeen := true } else s.askLinkStatus n)

/-- `HPD` has stood high for 2 ms after a low: a connect. -/
def execHpdConnect (n : HeadId) (s : State) : Result :=
  .next (
    let off := Reg.PRT_HPD n
    match (s.port n).riseAt with
    | some t =>
      if s.posting.isSome || s.fbit off Bit.PRT_HPD_CONNECTED || decide (s.now < t + 2000000) then s
      else
        let s := (s.fset off Bit.PRT_HPD_CONNECTED 1).fset off Bit.PRT_HPD_CONN_CHANGE 1
        let s := s.raise (srcPort n) 1 1 (s.hpdIsland n)
        if s.policy n ≠ 2 && hdf s.active n Hd.HEAD_EN = 1 then s.trainAnew n else s.setPortState n 1
    | none => s)

/-- `HPD` has stood low for 2 ms: a disconnect. During training the attempt ends first (R243). -/
def execHpdDisconnect (n : HeadId) (s : State) : Result :=
  .next (
    let off := Reg.PRT_HPD n
    match (s.port n).fallAt with
    | some t =>
      if s.posting.isSome || !s.fbit off Bit.PRT_HPD_CONNECTED || decide (s.now < t + 2000000) then s
      else
        let s := (s.fset off Bit.PRT_HPD_CONNECTED 0).fset off Bit.PRT_HPD_CONN_CHANGE 1
        let s := s.raise (srcPort n) 1 0 (s.hpdIsland n)
        if s.portState n = 2 && (s.port n).running then s.setPort n { s.port n with dropping := true }
        else ((s.setPort n { s.port n with wanted := false, attempts := [] }).setPortState n 0).auxSettle n
    | none => s)

/-! AUX (R244, R245). -/

/-- A driver transaction completes. -/
def State.auxDone (s : State) (n result bytes : Nat) : State :=
  let off := Reg.PRT_AUX_STATUS n
  let s := s.fset off Bit.PRT_AUX_STATUS_BUSY 0
  let s := s.fset off Bit.PRT_AUX_STATUS_DONE 1
  let s := s.fset off Bit.PRT_AUX_STATUS_RESULT result
  s.fset off Bit.PRT_AUX_STATUS_BYTES bytes

/-- A write of `PRT_AUX_CMD` (R244, R245). -/
def State.auxCmd (s : State) (n v : Nat) : State :=
  let st := Reg.PRT_AUX_STATUS n
  let s := s.wr (Reg.PRT_AUX_CMD n) (v % 2 ^ 29)
  if !bitOf v 30 then s
  else if s.fbit st Bit.PRT_AUX_STATUS_BUSY then s.fset st Bit.PRT_AUX_STATUS_GO_LOST 1
  else if s.portState n = 0 then s.auxDone n 4 0
  else ((s.setPort n { s.port n with driverWaits := true }).fset st Bit.PRT_AUX_STATUS_BUSY 1).auxNext n 0

/-- A write of `PRT_AUX_CMD` with `GO` by function w; `v` gives the other fields. -/
def execAuxGo (w : FnId) (n : HeadId) (v : Word) (s : State) : Result :=
  .next (if s.headReach w n then
    s.access (Reg.PRT_AUX_CMD n) fun s => s.auxCmd n (v.toNat % 2 ^ 29 + 2 ^ 30) else s)

/-- No valid reply to the transaction in hand (R244): a retry, up to 3 times. -/
def State.auxNoReply (s : State) (n : Nat) : State :=
  let x := s.port n
  if x.tries < 3 then s.setPort n { x with tries := x.tries + 1, auxAt := s.now }
  else if x.aux = 1 then (s.auxDone n 3 0).auxFree n
  else s.auxFree n

/-- A reply of this many data bytes has a bad length (R244): more than a driver's read has asked for, or any to a write or an
address-only request. -/
def State.auxBadLength (s : State) (n len : Nat) : Bool :=
  let c := Reg.PRT_AUX_CMD n
  let reads := bitOf (s.fget c Bit.PRT_AUX_CMD_CMD) 0 && !s.fbit c Bit.PRT_AUX_CMD_ADDR_ONLY
  decide ((if reads then s.fget c Bit.PRT_AUX_CMD_LEN + 1 else 0) < len)

/-- A reply (R244): its command nibble, the bytes read, the bytes written before a `NACK`; of a link-status read
whether lock or alignment is lost. One with a bad length counts as no reply. -/
def execAuxReply (n : HeadId) (nibble : Fin 16) (data : List Byte) (wrote : Fin 17) (lost : Bool) (s : State) : Result :=
  .next (
    let x := s.port n
    let defer := decide (nibble.val % 4 = 2) || decide (nibble.val / 4 = 2)
    let nack := decide (nibble.val % 4 = 1) || decide (nibble.val / 4 = 1)
    let off := Reg.PRT_AUX_STATUS n
    if x.aux = 0 || x.deferred then s
    else if x.aux = 1 && s.auxBadLength n data.length then s.auxNoReply n
    else
      let s := if x.aux = 1 then s.fset off Bit.PRT_AUX_STATUS_REPLY nibble else s
      if defer && decide (x.defers < 7) then
        s.setPort n { x with defers := x.defers + 1, deferred := true, tries := 0, auxAt := s.now }
      else if 2 ≤ x.aux then
        let s := s.auxFree n
        if x.aux = 2 && !defer && !nack && lost && decide (s.policy n ≠ 2) && decide (4 ≤ s.portState n) then s.trainAnew n else s
      else if defer then (s.auxDone n 2 0).auxFree n
      else if nack then (s.auxDone n 1 wrote).auxFree n
      else
        let reads := bitOf (s.fget (Reg.PRT_AUX_CMD n) Bit.PRT_AUX_CMD_CMD) 0
        let d := if reads then data.take 16 else []
        let s := if reads then
            (List.range 4).foldl (fun s k =>
              if 4 * k < d.length then
                let old := toBytes 4 (s.rd (Reg.PRT_AUX_DATA n k))
                let new := (d.drop (4 * k)).take 4
                s.wr (Reg.PRT_AUX_DATA n k) (ofBytes (new ++ old.drop new.length))
              else s) s
          else s
        (s.auxDone n 0 d.length).auxFree n)

/-- No valid reply within 500 µs (R244). -/
def execAuxTimeout (n : HeadId) (s : State) : Result :=
  .next (
    let x := s.port n
    if x.aux = 0 || x.deferred || decide (s.now < x.auxAt + 500000) then s else s.auxNoReply n)

/-- 400 µs have passed after a `DEFER` (R244). -/
def execAuxDeferRetry (n : HeadId) (s : State) : Result :=
  .next (
    let x := s.port n
    if x.deferred && decide (x.auxAt + 400000 ≤ s.now) then s.setPort n { x with deferred := false, auxAt := s.now } else s)

/-! Lane substitution (R252, R253) and loopback (R254). -/

/-- The port, and its lane, of logical lane j of a quad (R237). -/
def laneOwner (mode j : Nat) : Nat × Nat :=
  match mode with
  | 0 => (0, j)
  | 1 => if j < 2 then (0, j) else (2, j - 2)
  | 2 => (j, 0)
  | _ => if j < 2 then (0, j) else (j, 0)
/-- Physical lane of logical lane j of quad q (R237). -/
def physicalLane (q j : Nat) : Nat := 17 * (q / 4) + 4 * (q % 4) + j
/-- Logical lane of a port's lane k. -/
def logicalLane (mode port k : Nat) : Nat := if mode = 1 ∧ port = 2 then 2 + k else if mode = 0 then k else port + k

/-- The spare of a lane group is used or on its way. -/
def State.spareFree (s : State) (g : Nat) : Bool :=
  s.fbit (Reg.PRT_LANE (16 * g)) Bit.PRT_LANE_SPARE_FREE && (tabGet s.steering g).isNone

/-- A substitution of port lane k begins (R252): a port in `VIDEO` stops, its lanes in electrical idle; on any other the
steering alone is done. -/
def State.steerBegin (s : State) (n k : Nat) : State :=
  let sending := decide (s.portState n = 5)
  let s := if sending then s.setPortState n 1 else s
  { s with steering := tabPut (n / 16) ⟨n, k, sending⟩ s.steering }

/-- The width at which a port is trained, tries to train, or would train first. -/
def State.portWidth (s : State) (n : Nat) : Nat :=
  if 4 ≤ s.portState n then laneCount (s.fget (Reg.PRT_LINK_STATUS n) Bit.PRT_LINK_STATUS_LANES)
  else match (s.port n).attempts with
    | a :: _ => a.2
    | [] => s.headLanes n

/-- A lane fault that no spare can take (R253): of a port without a sink it is remembered. -/
def State.degrade (s : State) (n k : Nat) : State :=
  let x := s.port n
  let s := s.setPort n { x with failedLanes := setAdd k x.failedLanes }
  if s.portState n = 0 then s
  else
    let width := s.portWidth n
    let top := s.fget (Reg.PRT_LINK_CTL n) Bit.PRT_LINK_CTL_MAX_RATE
    let narrower := [4, 2, 1].find? fun l => decide (l < width) &&
      (decide (hdf s.active n Hd.HEAD_EN = 0) || s.streamFits s.active n l top)
    match narrower with
    | some l =>
      if l ≤ k && s.policy n = 0 then (s.trainAnew n).fset (Reg.PRT_LANE n) Bit.PRT_LANE_DEGRADED 1 else s.trainFail n
    | none => s.trainFail n

/-- A slice monitor reports a fault of logical lane j of a quad (R252, R253). -/
def execLaneSliceFault (q : Fin 32) (j : Fin 4) (s : State) : Result :=
  .next (
    let mode := s.fget (Reg.PRT_QUAD_MODE q) Bit.PRT_QUAD_MODE_MODE
    let (p, k) := laneOwner mode j
    let n := 4 * q.val + p
    let s := s.raise (srcPort n) 5 (physicalLane q j) (islandHead n)
    if s.spareFree (n / 16) then s.steerBegin n k else s.degrade n k)

/-- A write of `PRT_LANE` (R252, R254): the stored fields, then the requests. -/
def State.laneWrite (s : State) (n v : Nat) : State :=
  let off := Reg.PRT_LANE n
  let refuse (s : State) (c : Nat) : State := (s.fset off Bit.PRT_LANE_REFUSE_CODE c).fset off Bit.PRT_LANE_REFUSED 1
  let s := [Bit.PRT_LANE_REFUSED, Bit.PRT_LANE_SUBST_DONE, Bit.PRT_LANE_LOOP_DONE].foldl
    (fun s f => if bitOf v f.lo then s.fset off f 0 else s) s
  let k := getBits v 2 2
  let s := s.fset off Bit.PRT_LANE_SUBST_LANE k
  let g := n / 16
  let steering := (tabGet s.steering g).isSome
  let s :=
    if bitOf v 0 then
      if s.headLanes n ≤ k || !s.fbit off Bit.PRT_LANE_SPARE_FREE then refuse s 9
      else if steering then refuse s 8
      else s.steerBegin n k
    else s
  if bitOf v 1 then
    if s.enabledAnywhere n then refuse s 10
    else if (tabGet s.steering g).isSome then refuse s 7
    else s.setPort n { s.port n with looping := true, loopAt := s.now }
  else s

/-- A write of `SUBST_REQ` 1 with `SUBST_LANE` (R252). -/
def execSubstReq (n : HeadId) (k : Fin 4) (s : State) : Result :=
  .next (s.access (Reg.PRT_LANE n) fun s => s.laneWrite n (1 + 4 * k.val))
/-- A write of `LOOPBACK_REQ` 1 (R254). -/
def execLoopbackReq (n : HeadId) (s : State) : Result :=
  .next (s.access (Reg.PRT_LANE n) fun s =>
    s.laneWrite n (2 + 4 * s.fget (Reg.PRT_LANE n) Bit.PRT_LANE_SUBST_LANE))

/-- The spare slice stands in front of the lane's output stage (R252): the port trains at the rate and width it held. -/
def execLaneSteerDone (g : Fin 8) (s : State) : Result :=
  .next (
    match tabGet s.steering g with
    | none => s
    | some x =>
      let n := x.port
      let mode := s.fget (Reg.PRT_QUAD_MODE (n / 4)) Bit.PRT_QUAD_MODE_MODE
      let lane := physicalLane (n / 4) (logicalLane mode (n % 4) x.lane)
      let s := { s with steering := tabDel g s.steering, flashLog := s.flashLog ++ [(3, lane)] }
      let s : State := (List.range 16).foldl (fun (s : State) (i : Nat) => s.fset (Reg.PRT_LANE (16 * g.val + i)) Bit.PRT_LANE_SPARE_FREE 0) s
      let s := s.fset Reg.SYS_SPARE_STATUS Bit.SYS_SPARE_STATUS_LANES_FREE
        (s.fget Reg.SYS_SPARE_STATUS Bit.SYS_SPARE_STATUS_LANES_FREE - 1)
      let s := s.fset (Reg.PRT_LANE n) Bit.PRT_LANE_SUBSTITUTED 1
      if x.wasSending && decide (s.policy n ≠ 2) && decide (s.portState n ≠ 0) then
        let st := s.rd (Reg.PRT_LINK_STATUS n)
        let s := s.setPort n { s.port n with substituting := true, retries := 0 }
        s.train n (some (getBits st 3 3, laneCount (getBits st 6 2)))
      else s.fset (Reg.PRT_LANE n) Bit.PRT_LANE_SUBST_DONE 1)

/-- The loopback ends after 10 ms (R254). -/
def execLoopbackDone (n : HeadId) (fail : Bool) (s : State) : Result :=
  .next (
    if (s.port n).looping && decide ((s.port n).loopAt + 10000000 ≤ s.now) then
      let s := s.setPort n { s.port n with looping := false }
      (s.fset (Reg.PRT_LANE n) Bit.PRT_LANE_LOOP_FAIL (b2n fail)).fset (Reg.PRT_LANE n) Bit.PRT_LANE_LOOP_DONE 1
    else s)

end Sys2Proof.Machine
end

