-- ==== Sys2Proof/Machine/Frames.lean ====
section
/-! DEFINITION. Frame boundaries (R230, R235), selection of buffers (R164 to R167), latch windows, decisions, moves and
switch points (R20, R21, R226 to R229), retained frames and pipe swaps at a boundary (R352, R353, R363, R364). -/

namespace Sys2Proof.Machine

/-! Selection (R164 to R167). -/

/-- The candidate of a bound layer at time t: a ring slot of its stream (R164). Of two that carry the same stamp the higher-numbered
slot counts as the newer (log entry 133). -/
def State.candidateAt (s : State) (m : View) (sl t : Nat) : Option Nat :=
  let st := lyr m sl Lyr.INGEST_STREAM
  let complete (k : Nat) := decide (k < s.slotCount st) && decide ((s.slot st k).state = 2) && decide ((s.slot st k).stamp ≤ t)
  if lyr m sl Lyr.INGEST_MODE = 1 then
    (if complete (lyr m sl Lyr.BUF_INDEX) then some (lyr m sl Lyr.BUF_INDEX) else none)
  else
    (List.range (s.slotCount st)).foldl (fun (b : Option Nat) k =>
      if complete k then
        match b with
        | some j => if (s.slot st j).stamp ≤ (s.slot st k).stamp then some k else b
        | none => some k
      else b) none

/-- What a bound layer shows on frame f under its policy, selected at time t (R165). -/
def State.selectLayer (s : State) (m : View) (h sl f t : Nat) : Shown :=
  let st := lyr m sl Lyr.INGEST_STREAM
  match s.candidateAt m sl t with
  | none => ⟨f, none, none, false, true⟩
  | some k =>
    let fresh := match tabGet s.selectedAt h with | some u => decide (u < (s.slot st k).stamp) | none => true
    if fresh || lyr m sl Lyr.READY_POLICY ≠ 1 then ⟨f, some k, s.slotSource st k, fresh, false⟩
    else ⟨f, some k, none, false, true⟩

/-- A head selects at time t for frame f from one copy; the slots it selects become held (R299). -/
def State.selectFor (s : State) (m : View) (h f t : Nat) (pending : Bool) : State :=
  ((headLayers m h).filter (isBound m)).foldl (fun s sl =>
    let x := s.selectLayer m h sl f t
    let s := { s with shown := tabPut (shownKey sl f pending) x s.shown }
    match x.ring with
    | some k =>
      let e := (256 * lyr m sl Lyr.INGEST_STREAM + k, h, f)
      if e ∈ s.holds then s else { s with holds := e :: s.holds }
    | none => s) s

/-- The admitted commit that places frame f or an earlier one of head h. -/
def State.dueFor (s : State) (h f : Nat) : Option Admitted :=
  s.admitted.find? fun a => a.headFrames.any fun x => decide (x.1 = h) && decide (x.2 ≤ f) &&
    a.frames.any fun y => decide (groupOf a.view h = some y.1)

/-- The plan of a head's group in a commit, or the active one. -/
def State.planFor (s : State) (due : Option Admitted) (h : Nat) : GroupPlan :=
  match due with
  | some a => ((groupOf a.view h).bind (tabGet a.plans)).getD GroupPlan.empty
  | none => ((groupOf s.active h).bind (tabGet s.activePlans)).getD GroupPlan.empty

/-- S(F) for the next frame of a head (R164): 20,000 ns before its boundary, or the earliest release of one of its segments. -/
def State.selectionTime (s : State) (due : Option Admitted) (h : Nat) : Nat :=
  let m := match due with | some a => a.view | none => s.active
  let o := (s.planFor due h).occlusion
  let f := (s.head h).frame + 1
  let tb := match due.bind fun a => a.frames.find? fun x => decide (groupOf a.view h = some x.1) with
    | some x => x.2.2
    | none => s.boundaryOf h f
  let v := if s.headRunning h then (s.head h).nextV else vtotalOf m h
  (pipesOf m h).foldl (fun t p =>
    match firstReleaseOf m o h p tb (v - activeH m h) (s.lineTimeNow m h) with
    | some r => min t (r / 65536).toNat
    | none => t) (tb - 20000)

/-- The selection point of a head's next frame: for the active state, and for one that is to take effect with it. -/
def execSelectionPoint (h : HeadId) (s : State) : Result :=
  .next (
    let f := (s.head h).frame + 1
    let due := s.dueFor h f
    let t := s.selectionTime due h
    if tabGet s.selectedFor h = some f || (!s.headRunning h && due.isNone) || decide (s.now < t) then s
    else
      let s' := if s.headRunning h then s.selectFor s.active h f t false else s
      let s' := match due with | some a => s'.selectFor a.view h f t true | none => s'
      { s' with selectedAt := tabPut h t s'.selectedAt, selectedFor := tabPut h f s'.selectedFor })

/-! The latch window (R20, R21, R226). -/

/-- The copy that holds before an admitted commit takes effect, and its place in the order of verdicts. -/
def State.orderOf (s : State) (id : Nat) : Nat := (s.admitted.takeWhile fun a => decide (a.id ≠ id)).length
def State.before (s : State) (id : Nat) : View := s.viewAfter (s.orderOf id)
def State.admittedOf (s : State) (id : Nat) : Option Admitted := s.admitted.find? (·.id = id)
def State.putAdmitted (s : State) (a : Admitted) : State :=
  { s with admitted := s.admitted.map fun (b : Admitted) => if b.id = a.id then a else b }

/-- Layers that wait for a commit (R166). -/
def State.waitingLayers (s : State) (a : Admitted) : List Nat :=
  let old := s.before a.id
  let heads := groupHeads a.view (groupsOf a.mask)
  (layersIn a.view).filter fun sl =>
    decide (lyr a.view sl Lyr.HEAD ∈ heads) && isBound a.view sl && decide (lyr a.view sl Lyr.READY_POLICY = 2) &&
      (decide (lyr old sl Lyr.LAYER_EN = 0) ||
        [Lyr.INGEST_STREAM, Lyr.INGEST_MODE, Lyr.BUF_INDEX].any fun i => decide (lyr old sl i ≠ lyr a.view sl i))

/-- A waiting layer has at the start of the latch window a candidate completed after the commit issued (R166). -/
def State.hasNewer (s : State) (a : Admitted) (sl : Nat) : Bool :=
  match s.candidateAt a.view sl (a.windowEnd - 20000) with
  | some k => decide (a.issue < (s.slot (lyr a.view sl Lyr.INGEST_STREAM) k).stamp)
  | none => false

/-- The latch window opens 20,000 ns before its end: the test of R166; latch copies and selections are sent (R226). -/
def execLatchWindowOpen (id : Nat) (s : State) : Result :=
  .next (
    match s.admittedOf id with
    | some a =>
      if a.opened || decide (s.now < a.windowEnd - 20000) then s
      else
        let ls := s.waitingLayers a
        let tried (sl : Nat) := (tabGet a.waited sl).getD 0
        let lacking := ls.filter fun sl => !s.hasNewer a sl
        let failed := lacking.filter fun sl => decide (tried sl < lyr a.view sl Lyr.READY_WAIT)
        s.putAdmitted { a with
          opened := true
          waitOk := decide (failed = [])
          waited := failed.foldl (fun w sl => tabPut sl (tried sl + 1) w) a.waited
          exhausted := lacking.filter fun sl => decide (lyr a.view sl Lyr.READY_WAIT ≤ tried sl)
          copies := []
          acked := []
          decision := none
          decided := [] }
    | none => s)

/-- Apertures that a pipe creates as its island accepts a latch copy (R158): credit zero. -/
def State.newApertures (s : State) (a : Admitted) (p : Nat) : State :=
  let s := s.refillPipe p
  (a.plans.flatMap fun x => x.2.rates.filterMap fun r =>
      if r.1 % 64 = p then (planAperture x.2 r.1).map fun y => (r.1, y.1, y.2) else none).foldl (fun s r =>
    if (tabGet s.apertures r.1).isSome then s
    else { s with apertures := tabPut r.1 ⟨r.2.1, apertureBurst a.view r.1 r.2.2, 0⟩ s.apertures }) s

/-- An island accepts its latch copy and acknowledges it; `lost` says that the acknowledgement is lost on its way to island 4 (R12). Only
what reaches Ephemeris by the decision point counts (R21). -/
def execLatchCopyReceive (id : Nat) (island : IslandId) (lost : Bool) (s : State) : Result :=
  .next (
    match s.admittedOf id with
    | some a =>
      if !a.opened || !a.need.contains island || a.copies.contains island || a.decision.isSome || !s.islandOn island then s
      else
        let late := decide (a.windowEnd - 100 < s.now)
        let a := { a with copies := island.val :: a.copies, acked := if lost || late then a.acked else island.val :: a.acked }
        let s := (s.pipesAt island).foldl (fun s p => s.newApertures a p) (s.putAdmitted a)
        if lost then s.crossingLoss 4 none else s
    | none => s)

/-! Moves (R228). -/

/-- A move is reported: before its result has been delivered through that result, afterwards by the word, the event and
`EPH_STATUS`. -/
def State.reportMove (s : State) (a : Admitted) (frame : Nat) : State :=
  if !a.told then
    match s.commit a.id with
    | some c => s.putCommit { c with verdict := some 1, frame := frame }
    | none => s
  else
    let s := if a.result = 0 ∨ 160 ≤ a.by_ then s
      else s.deviceWrite a.fn a.result (toBytes 8 (resultWord 1 false a.ticket frame)) 4
    let s := if 160 ≤ a.by_ then s else s.raise (srcCommitMoved a.by_) 0 (a.ticket + 65536 * (frame % 65536)) 4
    (s.fset Reg.EPH_STATUS Bit.EPH_STATUS_MOVED 1).fsat Reg.EPH_STATUS Bit.EPH_STATUS_MOVE_COUNT

/-- A commit is placed at the reference group's next frame that meets no conflict with an earlier commit. -/
def State.moveOne (s : State) (a : Admitted) : State :=
  let i := s.orderOf a.id
  let s0 := { s with admitted := s.admitted.take i }
  let old := s0.newest
  let groups := groupsOf a.mask
  let g0 := groups.headD 0
  let t0 := ((a.frames.find? (·.1 = g0)).map (·.2.2)).getD 0
  let p := match s0.clockHead a.view g0 with
    | some k => s0.placeFrom old a.view groups k s0.admitted 65536 (s0.frameAt k t0 + 1)
    | none =>
      let rh := leastMember a.view g0
      s0.placeStart old a.view groups s0.admitted (a.windowEnd + s.framePeriod a.view rh (vtotalOf a.view rh) / 65536)
  (s.putAdmitted { a with frames := p.frames, headFrames := p.headFrames, windowEnd := p.windowEnd, opened := false }).reportMove
    a p.frame

/-- Later commits that would fall at or before a moved one move after it, in order; `n` bounds them. -/
def State.moveLater (s : State) : Nat → Nat → State
  | 0, _ => s
  | n + 1, i =>
    match s.admitted[i]? with
    | none => s
    | some a =>
      let s := if State.conflicts (s.admitted.take i) ⟨a.frames, [], 0, 0⟩ then s.moveOne a else s
      s.moveLater n (i + 1)

/-- The decision point, 100 ns before the window ends (R21, R226): go when every acknowledgement has arrived and the test of R166 passed; otherwise
withdraw, and the commit moves. -/
def execDecisionPoint (id : Nat) (s : State) : Result :=
  .next (
    match s.admittedOf id with
    | some a =>
      if !a.opened || a.decision.isSome || decide (s.now < a.windowEnd - 100) then s
      else
        let acks := a.need.all a.acked.contains
        let s := if acks then s else s.fset Reg.EPH_STATUS Bit.EPH_STATUS_LATE_ACK 1
        if acks && a.waitOk then s.putAdmitted { a with decision := some true }
        else
          let a := { a with decision := some false }
          let s := (s.putAdmitted a).moveOne a
          (s.moveLater s.admitted.length (s.orderOf id + 1)).showHeld
    | none => s)

/-- An island receives the first copy of a decision to reach it: on a withdraw it discards its latch copy. -/
def execDecisionReceive (id : Nat) (island : IslandId) (s : State) : Result :=
  .next (
    match s.admittedOf id with
    | some a =>
      match a.decision with
      | some go =>
        if !a.copies.contains island || a.decided.any (·.1 = island.val) then s
        else if go then s.putAdmitted { a with decided := (island.val, true) :: a.decided }
        else s.putAdmitted { a with copies := a.copies.erase island }
      | none => s
    | none => s)

/-! Taking effect (R20, R27, R227, R229). -/

/-- The word belongs to a pool table or coefficient set (R182, R190). -/
def poolWord (off : Nat) : Bool := match shadowObj off with | some o => isPool o | none => false

/-- Status fields that a commit sets or returns to zero (R32, R35, R153, R221). -/
def State.commitStatus (s : State) (old : View) (a : Admitted) (g : Nat) (plan : GroupPlan) : State :=
  let m := s.active
  let ms := membersOf m g
  let frameOf (h : Nat) := ((a.headFrames.find? (·.1 = h)).map (·.2)).getD 0
  let s := ((layersIn m).filter fun sl => decide (lyr m sl Lyr.HEAD ∈ ms)).foldl (fun s sl =>
    let s := if lyr old sl Lyr.LAYER_EN = 0 then
        [Lyr.ACT_FRAME, Lyr.ACT_BUF, Lyr.HOLD_COUNT, Lyr.FALLBACK_COUNT, Lyr.FETCH_TILES, Lyr.PLAN_RATE].foldl
          (fun (s : State) i => s.wr (lyrOff sl i) 0) s
      else s
    let s := s.wr (lyrOff sl Lyr.ACT_FRAME) (frameOf (lyr m sl Lyr.HEAD) % 2 ^ 32)
    let s := s.wr (lyrOff sl Lyr.FETCH_TILES) (min ((tabGet plan.tiles sl).getD 0) (2 ^ 19 - 1))
    let rate := sumOf ((plan.rates.filter fun r => decide (r.1 / 64 = sl)).map (·.2))
    let s := s.wr (lyrOff sl Lyr.PLAN_RATE) (min rate (2 ^ 32 - 1))
    s.wr (lyrOff sl Lyr.OWNER_FN) (s.slotFn sl)) s
  ms.foldl (fun s h =>
    let s := if hdf old h Hd.HEAD_EN = 0 ∧ hdf m h Hd.HEAD_EN = 1 then s.wr (hdOff h Hd.WB_SKIP) 0 else s
    let s := (List.range 16).foldl (fun (s : State) r =>
      if sgf old h r Sg.SIG_EN = 0 ∧ sgf m h r Sg.SIG_EN = 1 then
        [Sg.LAST_CRC, Sg.LAST_FRAME, Sg.MISMATCH_COUNT].foldl (fun (s : State) i => s.wr (sgOff h r i) 0) s
      else s) s
    let tiles := if hdf m h Hd.HEAD_EN = 1 then tileGrid m h else []
    let depth := maxOf (tiles.map fun t => depthAt m plan.occlusion h t.1 t.2)
    let hidden := sumOf (tiles.map fun t => ((headLayers m h).filter fun sl => hiddenIn m plan.occlusion h sl t.1 t.2).length)
    let off := Reg.OCC_HEAD_STAT h
    (s.fset off Bit.OCC_HEAD_STAT_MAX_DEPTH depth).fset off Bit.OCC_HEAD_STAT_HIDDEN_PAIRS (min hidden (2 ^ 24 - 1))) s

/-- A commit that changes the timing of a running head ends the phase lock of a drive that aligns it, of the old one too when
`CD_SEL` changes; the drive measures again (R270, R422). -/
def State.timingChanged (s : State) (old : View) (g : Nat) : State :=
  (membersOf s.active g).foldl (fun s h =>
    let changed := (span 1 15).any fun i => decide (hdf old h i ≠ hdf s.active h i)
    (uniq [hdf old h Hd.CD_SEL, hdf s.active h Hd.CD_SEL]).foldl (fun s n =>
      if changed && s.headRunning h && bitOf (s.rd (Reg.CD_ALIGN_W n (h / 32))) (h % 32) && decide (n < 9) then
        let s := s.fset (cdStatus n) Bit.CD_STATUS_PHASE_LOCKED 0
        let s := s.setDrive n { s.drive n with goodPulses := 0 }
        if s.cdState n = 3 || s.cdState n = 4 then s.acquire n else s
      else s) s) s

/-- An admitted state takes effect for group g at the boundary time t (R229): the active copy switches; islands without the
decision keep the old state (R227). -/
def State.takeEffect (s : State) (a : Admitted) (g t : Nat) : State :=
  let old := s.active
  let groups := groupsOf a.mask
  let first := decide (a.frames.length = groups.length)
  let mine (off : Nat) : Bool :=
    if poolWord off then first && carries a.view old groups off else carries a.view old [g] off
  let oldPlan := (tabGet s.activePlans g).getD GroupPlan.empty
  let plan := (tabGet a.plans g).getD GroupPlan.empty
  let new := overlay old a.view mine
  let frame := ((a.frames.find? (·.1 = g)).map (·.2.1)).getD 0
  let rest := a.frames.filter fun x => decide (x.1 ≠ g)
  let ms := membersOf new g
  let islands := (s.islandsFor old new ms).filter a.need.contains
  let keep := a.plans.flatMap fun x => x.2.rates.map (·.1)
  let got (i : Nat) := a.decided.any fun d => decide (d.1 = i) && d.2
  let lost := islands.filter fun i => !got i
  let frameFor (h : Nat) : Nat := ((a.headFrames.find? (·.1 = h)).map (·.2)).getD 0
  let s := { s with
    active := new
    activePlans := tabPut g plan s.activePlans
    admitted := (s.admitted.map fun (b : Admitted) => if b.id = a.id then { b with frames := rest } else b).filter fun (b : Admitted) =>
      decide (b.frames ≠ [])
    benchGroups := if a.bench then setAdd g s.benchGroups else s.benchGroups.erase g
    committedAt := ms.foldl (fun (c : List (Nat × Nat)) (h : Nat) => tabPut h (frameFor h) c) s.committedAt
    hostGone := if s.linkUp && decide (s.linkBackAt ≤ a.issue) then s.hostGone.filter (fun (h : Nat) => !ms.contains h) else s.hostGone
    switches := s.switches ++ (islands.filter got).map fun (i : Nat) => (⟨a.id, i, g, oldPlan, plan, keep⟩ : SwitchTodo)
    splits := s.splits ++ lost.map fun (i : Nat) => (⟨i, g, old, oldPlan, t⟩ : Split) }
  let s := if lost = [] then s else s.fset Reg.EPH_STATUS Bit.EPH_STATUS_SPLIT 1
  let s := s.wr (Reg.EPH_GRP_FRAME g) (frame % 2 ^ 32)
  let s := s.commitStatus old a g plan
  let s := ((layersIn new).filter fun sl => a.exhausted.contains sl && decide (lyr new sl Lyr.HEAD ∈ ms)).foldl (fun s sl =>
    { s with shown := s.shown.map fun (e : Nat × Shown) =>
        if e.1 / 4 = sl && decide (e.1 % 2 = 1) then (e.1, { e.2 with fallback := true }) else e }) s
  (s.timingChanged old g).showHeld.ltrCheck

/-- Islands that were split switch at their group's next boundary and report the fault (R227). -/
def State.endSplits (s : State) (g t : Nat) : State :=
  let ended := s.splits.filter fun x => decide (x.group = g) && decide (x.since + 1000 < t)
  ended.foldl (fun s x =>
    let s := { s with splits := s.splits.erase x }
    let new := (tabGet s.activePlans g).getD GroupPlan.empty
    ((s.pipesAt x.island).foldl (fun s p => s.switchApertures p x.plan new []) s).raise 5532 0 g x.island) s

/-- An island reaches its first work of the new frame and switches (R20). -/
def execSwitchPoint (id : Nat) (island : IslandId) (s : State) : Result :=
  .next (s.makeSwitches fun x => x.id = id && x.island = island.val && s.switchDue x)

/-! The boundary. -/

/-- The copy by which the timing generator of head h runs: the old one while its lane group is split (R227). -/
def State.timingView (s : State) (h : Nat) : View :=
  match s.splitOf (islandHead h) h with
  | some x => x.view
  | none => s.active

/-- The accumulator of a head when the next line begins (R232): each enable takes 2²⁴ from it, `HTOTAL` ÷ `PPC` of them make a line,
and each edge of the stream clock adds `PIX_INC`. -/
def lineAccum (m : View) (h a : Nat) : Nat :=
  let inc := max 1 (hdf m h Hd.PIX_INC)
  let goal := 2 ^ 24 * (htotal m h / ppcOf m h)
  a + ceilDiv (goal - a) inc * inc - goal

/-- The boundary of a phase-locked head falls in the first cycle of its stream clock at or after an aligned point (R267). -/
def State.onAlignedPoint (s : State) (m : View) (h : Nat) : Bool :=
  let n := hdf m h Hd.CD_SEL
  !(s.phaseHeld m h && (s.aligned n).1.contains h) ||
    decide ((s.now : Int) ≤ s.alignedPoint n s.now 0 + ((s.drive n).clockNs : Nat))

/-- `TIME` of a boundary (R386): that of the group's lowest-numbered running member, when it lies at the same boundary. -/
def State.boundaryTime (s : State) (m : View) (h : Nat) : Nat :=
  let own := s.replica (islandHead h)
  match (groupOf m h).bind fun g => (membersOf m g).find? fun k => s.headRunning k with
  | some k =>
    let t := (s.head k).boundary
    let half := s.framePeriod m k (vtotalOf m k) / 131072
    if k ≠ h && decide (max own t - min own t < half) then t else own
  | none => own

/-- Lines by which the drive changes the next total of an aligned head (R269): chosen at the first such head's boundary,
the same for the others. -/
def State.stepLines (s : State) (m : View) (h t : Nat) : State × Int :=
  let n := hdf m h Hd.CD_SEL
  let x := s.drive n
  let vt := vtotalOf m h
  let half := s.framePeriod m h vt / 131072
  if !(s.aligned n).1.contains h then (s, 0)
  else if max x.deltaAt t - min x.deltaAt t < half && decide (x.deltaAt ≠ 0) then (s, x.delta)
  else if x.steps = 0 then (s, 0)
  else
    let d : Int := if 0 < x.steps then min x.steps ((hdf m h Hd.VTOTAL_MAX - vt : Nat) : Int)
      else -(min (-x.steps) ((vt - hdf m h Hd.VTOTAL_MIN : Nat) : Int))
    (s.setDrive n { x with steps := x.steps - d, delta := d, deltaAt := t }, d)

/-- The total of frame f + 1 is fixed at the boundary of frame f (R140). -/
def State.fixNext (s : State) (h f t : Nat) : State :=
  let m := match s.admitted.find? fun a => decide (a.decision = some true) && a.headFrames.any (fun x => x = (h, f + 1)) with
    | some a => a.view
    | none => s.active
  let (s, d) := s.stepLines m h t
  s.setHead h { s.head h with nextV := ((vtotalOf m h : Int) + d).toNat }

/-- The words of frames of a head before frame f are consumed or passed over: their tags become `STALE`, and the room of a word is
released with its tag (R141). -/
def State.dropOldWords (s : State) (h f : Nat) : State :=
  let old (y : Tag) := decide (y.head = h) && decide (y.frame < f) && decide (y.state < 2)
  { s with
    tags := s.tags.map fun (e : Nat × Tag) => if old e.2 then (e.1, { e.2 with state := 2 }) else e
    landed := s.landed.filter fun x => !(x.head = h && decide (x.frame < f)) || s.tags.any fun e => e.2.covers x }

/-- The selections that hold for frame f: those of the state that took effect, otherwise those of the active one; the others
are released. -/
def State.adoptShown (s : State) (h f : Nat) (took : Bool) : State :=
  let mine (e : Nat × Shown) : Bool := decide (lyr s.active (e.1 / 4) Lyr.HEAD = h) && decide (e.2.frame = f)
  let keep := s.shown.filter fun e => !(mine e && decide ((e.1 % 2 = 1) ≠ took))
  let shown := keep.foldl (fun (l : List (Nat × Shown)) e =>
    if mine e && decide (e.1 % 2 = 1) then tabPut (e.1 - 1) e.2 l else tabPut e.1 e.2 l) []
  let used (key : Nat) : Bool := shown.any fun e => mine e &&
    decide (lyr s.active (e.1 / 4) Lyr.INGEST_STREAM = key / 256) && decide (e.2.ring = some (key % 256))
  { s with
    shown := shown
    holds := s.holds.filter fun x => !(x.2.1 = h && decide (x.2.2 ≤ f)) || (decide (x.2.2 = f) && used x.1) }

/-- After a fault swap a head repeats the selections of the frame before (R364). -/
def State.repeatShown (s : State) (h f : Nat) : State :=
  (headLayers s.active h).foldl (fun s sl =>
    match tabGet s.shown (shownKey sl (f - 1) false) with
    | some x => { s with shown := tabPut (shownKey sl f false) { x with frame := f } s.shown }
    | none => s) s

/-- Host-window layers of a head are removed from the first boundary after the link has gone, until a commit after its return (R23). -/
def State.removeHostLayers (s : State) (h f : Nat) : State :=
  if !s.hostGone.contains h then s
  else
    let hosts := (((groupOf s.active h).bind (tabGet s.activePlans)).getD GroupPlan.empty).hostLayers
    ((headLayers s.active h).filter hosts.contains).foldl (fun s sl =>
      { s with shown := tabPut (shownKey sl f false) ⟨f, none, none, false, true⟩ s.shown }) s

/-- The layers of a head that fall under a fallback on frame f are counted (R167). -/
def State.countFallbacks (s : State) (h f : Nat) : State × Bool :=
  let fell := (headLayers s.active h).filter fun sl =>
    match tabGet s.shown (shownKey sl f false) with | some x => x.frame = f && x.fallback | none => false
  (fell.foldl (fun s sl => s.fsat (lyrOff sl Lyr.FALLBACK_COUNT) ⟨0, 16⟩) s, decide (fell ≠ []))

/-! Pipe swaps at a boundary (R363, R364). -/

/-- A swap whose last head has moved ends. -/
def State.swapsEnd (s : State) : State :=
  s.swaps.foldl (fun s x =>
    let heads := (List.range 128).filter fun h => s.headRunning h && decide (x.pipe ∈ pipesOf s.active h)
    if x.loaded && heads.all x.moved.contains then
      let off := Reg.SYS_PIPE_SWAP_STATUS
      let s := { s with
        swaps := s.swaps.erase x, pipeSubst := tabPut x.pipe x.spare s.pipeSubst
        pipeRoles := if x.fault then tabPut x.pipe 3 s.pipeRoles else s.pipeRoles
        flashLog := s.flashLog ++ (if x.fault then [(5, x.pipe), (12, x.pipe)] else [(5, x.pipe)]) }
      let s := (s.fset off Bit.SYS_PIPE_SWAP_STATUS_DONE 1).fset off Bit.SYS_PIPE_SWAP_STATUS_BUSY (b2n (s.swaps ≠ []))
      s.raise 5538 1 0 0
    else s) s

/-- A head moves to the spare at its first boundary after the loading; after a failure at its first boundary 1 ms later.
Answers whether it moves after a failure. -/
def State.swapHead (s : State) (h : Nat) : State × Bool :=
  let mine (x : Swap) : Bool := x.loaded && decide (x.pipe ∈ pipesOf s.active h) && !x.moved.contains h &&
    (!x.fault || decide (x.at_ + 1000000 ≤ s.now))
  let again := s.swaps.any fun x => mine x && x.fault
  ({ s with swaps := s.swaps.map fun (x : Swap) => if mine x then { x with moved := h :: x.moved } else x }, again)

/-! Opening a frame. -/

/-- Everything that the boundary settles of a frame of a head that goes on or starts (R76, R140, R230 to R235, R422): `old` is the copy
of the frame that ends. -/
def State.openTiming (s : State) (h f t : Nat) (started : Bool) (old : View) : State :=
  let m := s.timingView h
  let n := hdf m h Hd.CD_SEL
  let x := s.head h
  let v := if started then vtotalOf m h else x.nextV
  let clear := (s.drive n).clearAccum.contains h
  let s := if clear then s.setDrive n { s.drive n with clearAccum := (s.drive n).clearAccum.erase h } else s
  let accum := if started || clear || decide (hdf old h Hd.CD_SEL ≠ n) then 0 else lineAccum old h x.accum
  let s := s.setHead h { frame := f, boundary := t, line := 0, pixel := ppcOf m h, accum := accum, nextV := v }
  let s := s.wr (hdOff h Hd.ACT_VTOTAL) v
  s.fixNext h f t

/-- A word that the retained frame was composed from reads otherwise now (R353). Whether a word in host memory has changed the model
cannot tell: a free value (log entry 134). -/
def State.wordDiffers (s : State) (m : View) (f : Nat) (x : Nat × Nat × Nat × List Byte) : Bool :=
  match (s.wordAddr m x.1 x.2.1 x.2.2.1 f).map fun a => s.translate (s.slotFn x.1) a .read with
  | some (.localMem ph) => s.poisoned ph || decide (s.loadBytes ph 64 ≠ x.2.2.2)
  | some (.hostWin ..) => decide ((Config.freeValue s.fresh).toNat % 2 = 1)
  | _ => true

/-- Whether the retained frame of a head differs from its frame f (R353): a commit, a black frame, words held while it was built,
a layer that shows something else, or a word that has changed. -/
def State.retainedStale (s : State) (h f : Nat) (prev : FrameRun) (commit black : Bool) : Bool :=
  match tabGet s.retained h with
  | none => false
  | some r =>
    let m := s.headView h
    commit || black || (prev.building && decide (prev.heldLayers ≠ [])) ||
      (headLayers m h).any (fun sl => !r.sources.contains (sl, s.sourceAt m sl f)) || r.content.any (s.wordDiffers m f)

/-- The head's record of the frame that opens, and with it `PWR_STATUS.RETAINED` (R284, R352, R353, R358). -/
def State.openRun (s : State) (h f t : Nat) (commit fallback again : Bool) : State :=
  let m := s.headView h
  let prev := s.frameRun h
  let shed := s.shedSteps.any (·.contains h)
  let fresh := (headLayers m h).any fun sl =>
    match tabGet s.shown (shownKey sl f false) with | some x => decide (x.frame = f) && x.fresh | none => false
  let temporal := decide (bitOf (cctl m h) 19)
  let still := !prev.committed && !prev.freshBuf && decide (prev.heldLayers = []) && !temporal && decide (outBits m h ≤ 10) &&
    !prev.black && decide (prev.number ≠ 0)
  let count := if still then (tabGet s.staticRun h).getD 0 + 1 else 0
  let s := { s with staticRun := tabPut h count s.staticRun }
  let s := if s.retainedStale h f prev commit shed then { s with retained := tabDel h s.retained } else s
  let s := if (tabGet s.retained h).isSome then s.draw else s
  let held := (tabGet s.retained h).isSome
  let split := s.splits.any fun x => decide (groupOf m h = some x.group)
  let bench := s.bench || (match groupOf m h with | some g => s.benchGroups.contains g | none => false)
  let warn := (List.range 16).foldl (fun w r =>
    if bitOf ((tabGet s.mismatch h).getD 0) r && sgf m h r Sg.SIG_EN = 1 && sgf m h r Sg.SIG_ACTION = 1 then w + 2 ^ r else w) 0
  let wanted := decide (hdf m h Hd.WB_EN = 1) && decide (f % max 1 (hdf m h Hd.WB_DIV) = 0)
  let skip := wanted && s.wbBusy.contains h
  let flags := b2n fallback * 2 + b2n (s.portState h < 5) * 4 + b2n split * 8 + b2n bench * 16 + b2n commit * 128 +
    b2n again * 256 + b2n shed * 512 + (if temporal then 2048 + f % 4 * 4096 else 0)
  let s := s.setFrameRun h {
    lineT := s.lineTimeNow (s.timingView h) h, flags := flags, heldLayers := [], tiles := [], rows := [], patches := [], black := shed
    reading := held && !shed
    building := !held && !shed && decide (s.fget Reg.PWR_CTL Bit.PWR_CTL_STATIC_FRAMES ≤ count)
    committed := commit, freshBuf := fresh
    journal := s.fbit Reg.JRN_CTL Bit.JRN_CTL_EN && bitOf (s.rd (Reg.JRN_HEAD_W (h / 32))) (h % 32)
    recorded := false, chosen := wanted && !skip, warn := warn, number := f, opened := t, doneAt := 0 }
  let s := if wanted && !skip then { s with wbBusy := setAdd h s.wbBusy } else s
  let s := if skip then (s.fsat (hdOff h Hd.WB_SKIP) ⟨0, 16⟩).raise (srcHead h) 5 0 (islandHead h) else s
  s.fset Reg.PWR_STATUS Bit.PWR_STATUS_RETAINED s.retained.length

/-- Heads that read `SHED` (R358). -/
def State.countShed (s : State) : State :=
  s.fset Reg.THM_STATUS Bit.THM_STATUS_SHED_COUNT ((List.range 128).filter fun h => s.headState h = 2).length

/-- A head stops at the boundary of frame f, its last (R235). -/
def State.stopHead (s : State) (h f t : Nat) : State :=
  let s := s.setHead h { s.head h with frame := f, boundary := t, line := 0, pixel := 0, accum := 0 }
  let s := s.wr (hdOff h Hd.HEAD_STATE) 0
  let s := if 5 ≤ s.portState h then s.setPortState h 4 else s
  let s := (s.dropOldWords h f).setFrameRun h { FrameRun.reset with number := f, opened := t }
  let s := { s with
    staticRun := tabDel h s.staticRun
    retained := tabDel h s.retained
    holds := s.holds.filter fun x => decide (x.2.1 ≠ h)
    shedSteps := (s.shedSteps.map fun (l : List Nat) => l.erase h).filter fun (l : List Nat) => decide (l ≠ []) }
  let s := s.fset Reg.PWR_STATUS Bit.PWR_STATUS_RETAINED s.retained.length
  s.countShed

/-- A boundary of head h can come now: a running head ends its last line (R230), its frame composed and recorded (R282), at an aligned point where it is phase-locked (R267); one
that starts with its group has reached the placed boundary (R235); its drives run (R260); and a commit that is due has been
decided (R226). -/
def State.boundaryReady (s : State) (h : Nat) (due : Option Admitted) (view : View) : Bool :=
  let old := s.timingView h
  let gated (m : View) := (s.drive (hdf m h Hd.CD_SEL)).gated
  let alone := match groupOf view h with | some g => (membersOf view g).all fun k => !s.headRunning k | none => true
  let placed := match due.bind fun a => a.frames.find? fun x => decide (groupOf view h = some x.1) with
    | some x => decide (x.2.2 ≤ s.now)
    | none => true
  (match due with | some a => decide (a.decision = some true) | none => true) &&
  (if s.headRunning h then
    !gated old && (s.frameRun h).recorded && decide ((s.head h).line + 1 = s.vtotal h) && s.onAlignedPoint old h &&
      (decide (hdf view h Hd.HEAD_EN = 0) || !gated view)
   else !gated view && (!alone || placed))

/-- A boundary of head h: admitted states take effect, the head stops, starts or goes on. -/
def State.frameBoundary (s : State) (h : Nat) : State :=
  let ran := s.headRunning h
  let f := (s.head h).frame + 1
  let due := s.dueFor h f
  let view := match due with | some a => a.view | none => s.active
  if (!ran && due.isNone && decide (hdf s.active h Hd.HEAD_EN = 0)) || !s.boundaryReady h due view then s
  else
    let t := s.boundaryTime view h
    let old := s.timingView h
    let s := s.settle
    let s := match groupOf s.active h with | some g => s.endSplits g t | none => s
    let s := match due, groupOf view h with
      | some a, some g => s.takeEffect a g t
      | _, _ => s
    let on := decide (hdf (s.timingView h) h Hd.HEAD_EN = 1)
    let s := if ran || on then (s.raiseAt (srcBoundary h) 0 (f % 2 ^ 32) (islandHead h) t).framePulse h t else s
    if !on then (if ran then s.stopHead h f t else s)
    else
      let commit := decide (tabGet s.committedAt h = some f)
      let s := (s.openTiming h f t (!ran) old).dropOldWords h f
      let s := s.adoptShown h f commit
      let (s, again) := s.swapHead h
      let s := if again then s.repeatShown h f else s
      let s := s.removeHostLayers h f
      let (s, fell) := s.countFallbacks h f
      let s := s.wr (hdOff h Hd.HEAD_STATE) (if s.shedSteps.any (·.contains h) then 2 else 1)
      let s := s.portBoundary h (!ran)
      (s.openRun h f t commit fell again).swapsEnd.countShed

/-- A frame boundary of a head. -/
def execFrameBoundary (h : HeadId) (s : State) : Result := .next (s.frameBoundary h)

/-- A later line of a head begins (R76, R230, R232); none does while its drive is gated (R260). -/
def execLineStart (h : HeadId) (s : State) : Result :=
  .next (
    let x := s.head h
    let m := s.timingView h
    if s.headRunning h && !(s.drive (hdf m h Hd.CD_SEL)).gated && decide (x.line + 1 < s.vtotal h) then
      s.setHead h { x with line := x.line + 1, pixel := ppcOf m h, accum := lineAccum m h x.accum }
    else s)

end Sys2Proof.Machine
end

