-- ==== Sys2Proof/Machine/Ingest.lean ====
section
/-! DEFINITION. Ingest streams: slots and windows (R294 to R300), meters (R301 to R303), and the frame-store aperture
(R317). -/

namespace Sys2Proof.Machine

/-- A stream's state. -/
def State.stream (s : State) (st : Nat) : Stream := (tabGet s.streams st).getD Stream.reset
/-- The state with a stream's state set. -/
def State.setStream (s : State) (st : Nat) (x : Stream) : State := { s with streams := tabPut st x s.streams }
/-- The state with a slot's state set. -/
def State.setSlot (s : State) (st k : Nat) (x : Slot) : State := { s with slots := tabPut (256 * st + k) x s.slots }
/-- The open slot of a stream. -/
def State.openSlot (s : State) (st : Nat) : Option Nat :=
  if s.fbit (Reg.ING_OPEN st) Bit.ING_OPEN_OPEN then some (s.fget (Reg.ING_OPEN st) Bit.ING_OPEN_SLOT) else none
/-- Ranges of a slot. -/
def State.rangesOf (s : State) (st k : Nat) : List (Nat × Nat) := (tabGet s.slotRanges (256 * st + k)).getD []
/-- A function reaches a stream's registers. -/
def State.streamReach (s : State) (w st : Nat) : Bool := w = 0 || s.streamFn st = w

/-- An address lies in one of the ranges; only those in local pages are matched (R296). -/
def inRanges (l : List (Nat × Nat)) (a : Nat) : Bool :=
  decide (a < 2 ^ 36) && l.any fun r => decide (r.1 ≤ a) && decide (a < r.1 + r.2)

/-- The slot is marked with a cause, unless it carries one (R297). -/
def State.markSlot (s : State) (st k cause : Nat) : State :=
  let x := s.stream st
  if s.openSlot st = some k then s.setStream st { x with cause := if x.cause = 0 then cause else x.cause }
  else
    s.setStream st { x with completions := x.completions.map fun (c : Completing) =>
      if c.slot = k && c.cause = 0 then { c with cause := cause } else c }

/-- Bytes 40 to 63 of a slot's descriptor (R294). -/
def State.writeDesc (s : State) (st k stamp state cause seq : Nat) : State :=
  s.deviceWrite (s.streamFn st) (s.slotDesc st k + 40)
    (toBytes 8 stamp ++ toBytes 1 state ++ toBytes 1 cause ++ toBytes 6 0 ++ toBytes 8 seq) 3

/-- A slot ends incomplete and is reported (R295, R298). -/
def State.endIncomplete (s : State) (st k cause : Nat) : State :=
  let s := s.setSlot st k ⟨3, 0, cause, 0⟩
  let s := s.writeDesc st k 0 3 cause 0
  let off := Reg.ING_STATUS st
  let s := (s.fset off Bit.ING_STATUS_INCOMPLETE 1).fset off Bit.ING_STATUS_CAUSE cause
  s.raise (srcIncomplete (s.streamFn st)) 0 (st + 2 ^ 12 * cause + 2 ^ 15 * k) 3

/-- The open slot is abandoned, by an open or as the stream is disabled (R295, R300). -/
def State.abandonOpen (s : State) (st : Nat) : State :=
  match s.openSlot st with
  | none => s
  | some k =>
    let c := (s.stream st).cause
    let s := s.fset (Reg.ING_OPEN st) Bit.ING_OPEN_OPEN 0
    s.endIncomplete st k (if c = 0 then 5 else c)

/-! Write-combining lines (R297). -/

/-- The bytes of a 64-byte word at the offsets of a mask are written to GDDR6 (R100, R101). -/
def State.maskedStore (s : State) (phys : Nat) (mask : List Nat) (word : List Byte) : State :=
  if mask.length = 64 then s.storeWord phys word
  else s.mergeWord phys fun s => mask.foldl (fun (s : State) k => s.putBytes (phys + k) [word.getD k 0]) s

/-- Word of `PL29` that holds line i of stream st: the area of the stream begins at 1 KiB × st. -/
def lineWord (st i : Nat) : Nat := 16 * st + i

/-- A line starts to drain with the stream's rights (R94, R145, R297): it asks for service in class BE when it holds a yellow byte,
otherwise in class GC. A refusal drops it and marks its slot. -/
def State.startDrain (s : State) (st : Nat) (l : WcLine) : State :=
  let x := s.stream st
  let gone := { x with lines := x.lines.erase l }
  if l.drain.isSome then s
  else
    match s.translate (s.streamFn st) l.addr .write with
    | .localMem phys =>
      let t := s.touchMem.setStream st { x with
        lines := x.lines.map fun (y : WcLine) => if y = l then { y with drain := some (phys, s.now) } else y }
      { t with mcQueue := t.mcQueue ++ [⟨mcOf phys, 256 + st, wordOf phys, l.yellow, s.now⟩] }
    | .hostWin .. => s.setStream st gone
    | .refused p => ((s.setStream st gone).refusal p (s.streamFn st) true 3).markSlot st l.slot 2

/-- A line that drains leaves `PL29` for GDDR6; poison met in it marks its slot (R114, R297). -/
def State.drainLine (s : State) (st : Nat) (l : WcLine) (phys : Nat) (e : Ecc) : State :=
  let x := s.stream st
  let s := s.setStream st { x with lines := x.lines.erase l }
  match s.plateTake 29 (lineWord st l.index) .ingestDrain e with
  | (s, none) => s.markSlot st l.slot 3
  | (s, some word) => s.maskedStore phys l.mask word

/-- A line drains now, since a write needs its place. -/
def State.forceDrain (s : State) (st : Nat) (l : WcLine) : State :=
  let s := s.startDrain st l
  match (s.stream st).lines.find? fun (y : WcLine) => y.index = l.index with
  | some y =>
    match y.drain with
    | some (phys, _) =>
      { s with mcQueue := s.mcQueue.filter fun r => r.source ≠ 256 + st || r.word ≠ wordOf phys }.drainLine st y phys .clean
    | none => s
  | none => s

/-- The least recently written line. -/
def oldestLine : List WcLine → Option WcLine
  | [] => none
  | l :: ls => match oldestLine ls with
    | some m => if m.at_ < l.at_ then some m else some l
    | none => some l

/-- The line of an address. -/
def Stream.lineAt (x : Stream) (base : Nat) : Option WcLine := x.lines.find? fun (l : WcLine) => l.addr = base

/-- A place for the line of an address: one that drains, or that holds another slot's bytes, drains first; a seventeenth line drains
the least recently written one. -/
def State.makeRoom (s : State) (st k base : Nat) : State :=
  match (s.stream st).lineAt base with
  | some l => if l.drain.isSome || decide (l.slot ≠ k) then s.forceDrain st l else s
  | none =>
    if (s.stream st).lines.length < 16 then s
    else match oldestLine (s.stream st).lines with
      | some l => s.forceDrain st l
      | none => s

/-- Accepted bytes of one 64-byte word, by offset, go into its line (R116, R297); a full line starts to drain. -/
def State.wcPut (s : State) (st k : Nat) (yellow : Bool) (base : Nat) (bytes : List (Nat × Byte)) : State :=
  let s := s.makeRoom st k base
  let x := s.stream st
  let free := ((List.range 16).find? fun i => x.lines.all fun (l : WcLine) => decide (l.index ≠ i)).getD 0
  let old := (x.lineAt base).getD ⟨free, base, [], false, 0, k, none⟩
  let new : WcLine := { old with
    mask := bytes.foldl (fun m b => setAdd b.1 m) old.mask, yellow := old.yellow || yellow, at_ := s.now }
  let s := s.setStream st { x with lines := x.lines.filter (fun (l : WcLine) => decide (l.addr ≠ base)) ++ [new] }
  let s := s.platePatch 29 (lineWord st new.index) .ingestWrite
    ((List.finRange 64).filterMap fun i => (bytes.find? fun b => b.1 = i.val).map fun b => (i, b.2))
  if new.mask.length = 64 then s.startDrain st new else s

/-- A line whose drain its controller has served is written; `e` is what SECDED finds as the line is read. -/
def execWcLineDrain (st : SlotId) (e : Ecc) (s : State) : Result :=
  .next (
    match (s.stream st).lines.findSome? fun (l : WcLine) => match l.drain with
        | some (phys, _) => if s.unserved (256 + st) phys then none else some (l, phys)
        | none => none with
    | some (l, phys) => if s.memOn then s.drainLine st l phys e else s.touchMem
    | none => s)

/-- Lines that have not been written for 2 µs start to drain. -/
def execWcIdleTimeout (st : SlotId) (s : State) : Result :=
  .next ((s.stream st).lines.foldl (fun (s : State) (l : WcLine) => if l.at_ + 2000 ≤ s.now then s.startDrain st l else s) s)

/-! Meters (R301, R302). -/

/-- The colour of a packet of B bytes: 0 green, 1 yellow, 2 red; with the buckets after it. -/
def colour (tc tp b : Nat) : Nat × Nat × Nat :=
  if tp < b then (2, tc, tp) else if tc < b then (1, tc, tp - b) else (0, tc - b, tp - b)

/-- A saturating count of bytes ÷ 64 in a register; the bytes left over. -/
def State.countBytes (s : State) (off left n : Nat) : State × Nat :=
  (s.wr off (min (s.rd off + (left + n) / 64) (2 ^ 32 - 1)), (left + n) % 64)

/-- A red packet is dropped (R302). -/
def State.redPacket (s : State) (st k n : Nat) : State :=
  let x := s.stream st
  let (s, left) := s.countBytes (Reg.ING_RED st) x.redBytes n
  let s := s.setStream st { x with redBytes := left, redSeen := true }
  let s := s.markSlot st k 1
  if x.redSeen then s else s.raise (srcRed (s.streamFn st)) 0 (st + 2 ^ 15 * k) 3

/-- Every meter is refilled for the Sidereal multiples of 1,000 ns that island 3 has reached; throttled beats try again (R301, R302). -/
def State.meterRefill (s : State) : State :=
  let n := s.ticksDue 0 3
  if n = 0 then s
  else { s.markTick 0 3 with
    streams := s.streams.map fun (e : Nat × Stream) =>
      if s.fbit (Reg.ING_CFG e.1) Bit.ING_CFG_EN then
        (e.1, { e.2 with
          tc := min (e.2.tc + n * s.fget (Reg.ING_CIR e.1) Bit.ING_CIR_CIR) (s.fget (Reg.ING_CBS e.1) Bit.ING_CBS_CBS)
          tp := min (e.2.tp + n * s.fget (Reg.ING_PIR e.1) Bit.ING_PIR_PIR) (s.fget (Reg.ING_PBS e.1) Bit.ING_PBS_PBS) })
      else e
    regs := s.regs.map fun (e : Nat × Word) =>
      if 0x860000 ≤ e.1 && decide (e.1 < 0x864000) && decide (e.1 % 0x100 = 4) && decide (e.2.toNat % 8 = 3) then
        (e.1, e.2 - 2) else e }

/-- A multiple of 1,000 ns has come. -/
def execMeterRefill (s : State) : Result := .next s.meterRefill

/-- A write whose first byte lies in the window of stream st (R296, R301, R302): none when a throttled beat must wait. A refill that
is due comes first. -/
def State.ingestPacket (s : State) (st a : Nat) (bytes : List Byte) (beat : Bool) : Option State :=
  let s := s.meterRefill
  match s.openSlot st with
  | none => some s
  | some k =>
    let ranges := s.rangesOf st k
    let all := bytes.mapIdx fun i b => (a + i, b)
    let inside := all.filter fun x => inRanges ranges x.1
    let n := inside.length
    let x := s.stream st
    let c := colour x.tc x.tp n
    let holdBack := beat && s.fbit (Reg.ING_CFG st) Bit.ING_CFG_RED_ACT && s.fbit (Reg.ING_CFG st) Bit.ING_CFG_FEED
    if c.1 = 2 && holdBack then none
    else
      let s := if inside.length < all.length then s.markSlot st k 6 else s
      let s := s.setStream st { s.stream st with tc := c.2.1, tp := c.2.2 }
      if c.1 = 2 then some (s.redPacket st k n)
      else
        let x := s.stream st
        let (s, left) := if c.1 = 1 then s.countBytes (Reg.ING_YELLOW st) x.yellowBytes n else (s, x.yellowBytes)
        let s := s.setStream st { x with accepted := x.accepted + n, yellowBytes := left }
        some ((uniq (inside.map fun y => y.1 / 64 * 64)).foldl (fun (s : State) base =>
          s.wcPut st k (c.1 = 1) base
            (inside.filterMap fun y => if y.1 / 64 * 64 = base then some (y.1 % 64, y.2) else none)) s)

/-! The aperture (R296, R299, R317). -/

/-- The enabled stream whose ingest window holds an address. -/
def State.windowOf (s : State) (a : Nat) : Option Nat :=
  (s.streams.find? fun e =>
    s.fbit (Reg.ING_CFG e.1) Bit.ING_CFG_EN &&
      (match s.openSlot e.1 with | some k => inRanges (s.rangesOf e.1 k) a | none => false)).map (·.1)

/-- A slot's ranges are protected (R299): it is held, it is its stream's newest complete slot, or it completes. -/
def State.slotProtected (s : State) (st k : Nat) : Bool :=
  s.holds.any (fun x => decide (x.1 = 256 * st + k)) || decide (s.newestSlot st = some k) ||
    (s.stream st).completions.any (·.slot = k)

/-- The lowest-numbered stream with a protected range that holds an address. -/
def State.protectedBy (s : State) (a : Nat) : Option Nat :=
  (s.slotRanges.find? fun e => inRanges e.2 a && s.slotProtected (e.1 / 256) (e.1 % 256)).map (·.1 / 256)

/-- What the ingest write path makes of a write (R296): taken as an ingest write or dropped as protected; `other` otherwise;
none when a throttled beat must wait. -/
def State.ingestPath (s : State) (a : Nat) (bytes : List Byte) (beat : Bool) (other : State → State) : Option State :=
  match s.windowOf a with
  | some st => s.ingestPacket st a bytes beat
  | none =>
    match s.protectedBy a with
    | some st => some (s.fset (Reg.ING_STATUS st) Bit.ING_STATUS_PROT_DROP 1)
    | none => some (other s)

/-- Base of a function's aperture in use (R317). -/
def State.apertureBase (s : State) (f : Nat) : Nat :=
  let size := 2 ^ (s.fn f).bar2
  (s.rd (Reg.PCI_APT_BASE_LO f) + 2 ^ 32 * (s.rd (Reg.PCI_APT_BASE_HI f) % 32)) / size * size

/-- The function answers requests to its BARs (R318): a VF only while it is enabled. -/
def State.fnLive (s : State) (f : Nat) : Bool :=
  !s.ideBlocked f none && (f = 0 || ((s.fn 0).vfEnable && decide (f ≤ (s.fn 0).numVfs)))
/-- A host access at an offset reaches a function's BAR2, which Safe Station does not implement (R315). -/
def State.apertureOpen (s : State) (f off : Nat) : Bool :=
  s.linkUp && !s.safe && s.fnLive f && (s.fn f).memEnable && decide ((s.fn f).dstate = 0) && decide (off < 2 ^ (s.fn f).bar2)

/-- A host access waits while the memory controllers that it needs are without power, and begins the exit (R351); what comes behind a
waiting one waits too, so that arrival order holds (R40, R298). -/
def State.holdHost (s : State) (h : HeldHost) (needs : Bool) (go : State → State) : State :=
  if s.held ≠ [] || (needs && !s.memOn) then { s.touchMem with held := s.held ++ [h] } else go s

/-- The page of a frame-store address is local and function f may access it. -/
def State.isLocal (s : State) (f a : Nat) (k : Right) : Bool :=
  match s.translate f a k with | .localMem _ => true | _ => false

/-- A posted write at a frame-store address takes effect (R296, R317). -/
def State.hostPut (s : State) (f a : Nat) (bytes : List Byte) : State :=
  (s.ingestPath a bytes false fun s =>
    match s.translate f a .write with
    | .localMem phys => (s.gcTake bytes.length).store phys bytes
    | .hostWin .. => s.refusal (a / 2 ^ 20) f true 1
    | .refused p => s.refusal p f true 1).getD s

/-- A posted host write through BAR2 (R296, R317). A poisoned one is dropped (R323). -/
def State.apertureWrite (s : State) (f off : Nat) (bytes : List Byte) (poisoned : Bool) : State :=
  if !s.apertureOpen f off then s
  else if poisoned then s.aerLog f 1
  else
    let a := s.apertureBase f + off
    s.holdHost (.write f a bytes) ((s.windowOf a).isSome || s.isLocal f a .write) fun s => s.hostPut f a bytes

/-- A posted write of function f at offset `off` of its BAR2. -/
def execApertureWrite (f : FnId) (off : Nat) (bytes : List Byte) (poisoned : Bool) (s : State) : Result :=
  .next (s.apertureWrite f off bytes poisoned)

/-- Bytes of GDDR6 read word by word, and whether one of the words was uncorrectable; `fresh` says that the first is. `k` bounds the
words. -/
def State.readSpan (s : State) (phys n : Nat) (fresh : Bool) : Nat → State × List Byte × Bool
  | 0 => (s, [], false)
  | k + 1 =>
    if n = 0 then (s, [], false)
    else
      let len := min n (64 - phys % 64)
      let (t, b) := s.wordRead phys len (if fresh then .uncorrectable else .clean)
      let (u, rest, bad) := t.readSpan (phys + len) (n - len) false k
      (u, b.getD (s.loadBytes phys len) ++ rest, b.isNone || bad)

/-- A host read at a frame-store address (R317): poison sets the poisoned-TLP bit, a refusal answers zeros. -/
def State.hostGet (s : State) (f a n : Nat) (fresh : Bool) : State :=
  let zeros := List.replicate n (0 : Byte)
  match s.translate f a .read with
  | .localMem phys =>
    let (s, bytes, bad) := (s.gcTake n).readSpan phys n fresh (n / 64 + 2)
    s.send (.completion f bytes bad)
  | .hostWin .. => (s.refusal (a / 2 ^ 20) f false 1).send (.completion f zeros false)
  | .refused p => (s.refusal p f false 1).send (.completion f zeros false)

/-- A host read through BAR2 (R317). -/
def State.apertureRead (s : State) (f off n : Nat) (fresh : Bool) : State :=
  if !s.apertureOpen f off then s
  else
    let a := s.apertureBase f + off
    s.holdHost (.read f a n fresh) (s.isLocal f a .read) fun s => s.hostGet f a n fresh

/-- A host read of `n` bytes; `fresh` says that an uncorrectable error appears with it. -/
def execApertureRead (f : FnId) (off n : Nat) (fresh : Bool) (s : State) : Result :=
  .next (s.apertureRead f off n fresh)

/-! Opening and completing slots (R295, R298). -/

/-- A descriptor as it is read: the bytes, or none when the read is refused, poisoned or fails. -/
def State.readSlotDesc (s : State) (st k : Nat) (r : ReadResult) : State × Option (List Byte) :=
  match s.translate (s.streamFn st) (s.slotDesc st k) .read with
  | .localMem phys => s.touchMem.wordRead phys 64 (if r = .uncorrectable then .uncorrectable else .clean)
  | .hostWin f x =>
    if !s.linkUp then (s, none)
    else
      let t := s.send (.readRequest f x 64)
      match s.hostAnswer f x r with
      | .data b => (t, some b)
      | .poisoned => (t.aerLog f 1, none)
      | .timeout => (t.aerLog f 2, none)
      | _ => (t, none)
  | .refused p => (s.refusal p (s.streamFn st) false 3, none)

/-- The ranges that a descriptor names: address and length. -/
def descRanges (b : List Byte) : List (Nat × Nat) :=
  (List.range 3).map fun i => (ofBytes ((b.drop (8 * i)).take 8), ofBytes ((b.drop (24 + 4 * i)).take 4))

/-- A `RANGE` refusal (R295). -/
def State.badRanges (s : State) (st : Nat) (rs : List (Nat × Nat)) : Bool :=
  let live := rs.filter fun r => decide (r.2 ≠ 0)
  let meet (a b : Nat × Nat) := decide (a.1 < b.1 + b.2) && decide (b.1 < a.1 + a.2)
  rs.any (fun r => decide (r.1 % 64 ≠ 0)) ||
    live.any (fun r => decide (2 ^ 37 < r.1 + r.2) || (decide (r.1 < 2 ^ 36) && decide (2 ^ 36 < r.1 + r.2))) ||
    s.streams.any (fun e => decide (e.1 ≠ st) && s.fbit (Reg.ING_CFG e.1) Bit.ING_CFG_EN &&
      (match s.openSlot e.1 with
       | some k => (s.rangesOf e.1 k).any fun x => decide (x.2 ≠ 0) && live.any (meet x)
       | none => false))

/-- An open or done is refused (R295). -/
def State.refuseOpen (s : State) (st code : Nat) : State :=
  (s.fset (Reg.ING_STATUS st) Bit.ING_STATUS_REFUSE_CODE code).fset (Reg.ING_STATUS st) Bit.ING_STATUS_OPEN_REFUSED 1

/-- An open is examined (R295). -/
def State.openExamine (s : State) (st k : Nat) (r : ReadResult) : State :=
  if !s.fbit (Reg.ING_CFG st) Bit.ING_CFG_EN then s.refuseOpen st 1
  else if s.slotCount st ≤ k then s.refuseOpen st 2
  else if s.holds.any (fun x => decide (x.1 = 256 * st + k)) then s.refuseOpen st 3
  else if s.newestSlot st = some k then s.refuseOpen st 4
  else
    match s.readSlotDesc st k r with
    | (s, none) => s.refuseOpen st 5
    | (s, some b) =>
      let rs := descRanges b
      if s.badRanges st rs then s.refuseOpen st 6
      else
        let s := s.abandonOpen st
        let s := s.setSlot st k ⟨1, 0, 0, 0⟩
        let s := s.deviceWrite (s.streamFn st) (s.slotDesc st k + 40) (toBytes 8 0 ++ toBytes 1 1) 3
        let s := { s with slotRanges := tabPut (256 * st + k) rs s.slotRanges }
        let s := s.setStream st { s.stream st with cause := 0, accepted := 0, want := sumOf (rs.map (·.2)), redSeen := false }
        (s.fset (Reg.ING_OPEN st) Bit.ING_OPEN_SLOT k).fset (Reg.ING_OPEN st) Bit.ING_OPEN_OPEN 1

/-- A write of `ING_OPEN` (R295): an open of the slot whose completion is in progress waits for it. -/
def State.ingOpen (s : State) (st k : Nat) (r : ReadResult) : State :=
  if (s.stream st).completions.any (·.slot = k) then
    s.setStream st { s.stream st with waitOpen := (s.stream st).waitOpen ++ [(k, r)] }
  else s.openExamine st k r

/-- The descriptor of a slot lies in GDDR6. -/
def State.descLocal (s : State) (st k : Nat) : Bool := s.isLocal (s.streamFn st) (s.slotDesc st k) .read

/-- A write of `ING_OPEN` behind the held accesses (R40). -/
def State.slotOpen (s : State) (st k : Nat) (r : ReadResult) : State :=
  s.holdHost (.openSlot st k r) (s.descLocal st k) fun s => s.ingOpen st k r

/-- A write of `ING_OPEN` by function w; `r` is what a read of the descriptor over PCI Express returns. -/
def execIngOpen (w : FnId) (st : SlotId) (k : Fin 256) (r : ReadResult) (s : State) : Result :=
  .next (if s.streamReach w st then s.access (Reg.ING_OPEN st) fun s => s.slotOpen st k r else s)

/-- `ING_DONE` takes effect (R298): the window closes, the lines are to drain, the completion is in progress. -/
def State.ingDone (s : State) (st : Nat) : State :=
  match s.openSlot st with
  | none => s.refuseOpen st 7
  | some k =>
    let x := s.stream st
    let c : Completing := ⟨k, x.cause, x.accepted, x.want⟩
    let s := (s.setStream st { x with completions := x.completions ++ [c] }).fset (Reg.ING_OPEN st) Bit.ING_OPEN_OPEN 0
    x.lines.foldl (fun (s : State) (l : WcLine) => s.startDrain st l) s

/-- A write of `ING_DONE` behind the held accesses (R40). -/
def State.slotDone (s : State) (st : Nat) : State := s.holdHost (.done st) false fun s => s.ingDone st

/-- A write of `ING_DONE` by function w. -/
def execIngDone (w : FnId) (st : SlotId) (s : State) : Result :=
  .next (if s.streamReach w st then s.access (Reg.ING_DONE st) fun s => s.slotDone st else s)

/-- What waited for the memory controllers takes effect, in arrival order (R40, R351). -/
def State.replayHeld (s : State) : State :=
  s.held.foldl (fun (s : State) (h : HeldHost) => match h with
    | .write f a bytes => s.hostPut f a bytes
    | .read f a n fresh => s.hostGet f a n fresh
    | .openSlot st k r => s.ingOpen st k r
    | .done st => s.ingDone st) { s with held := [] }

/-- A slot is complete (R298, steps 2 to 5). -/
def State.slotComplete (s : State) (st k : Nat) : State :=
  let stamp := s.replica 3
  let x := s.stream st
  let n := (x.fence + 1) % 2 ^ 64
  let s := s.setSlot st k ⟨2, stamp, 0, n⟩
  let s := s.writeDesc st k stamp 2 0 n
  let s := s.setStream st { x with fence := n }
  let addr := s.rd (Reg.ING_FENCE_LO st) / 8 * 8 + 2 ^ 32 * (s.rd (Reg.ING_FENCE_HI st) % 32)
  let s := if s.fbit (Reg.ING_CFG st) Bit.ING_CFG_FENCE_EN then s.deviceWrite (s.streamFn st) addr (toBytes 8 n) 3 else s
  let off := Reg.ING_STATUS st
  let s := (s.fset off Bit.ING_STATUS_NEWEST k).fset off Bit.ING_STATUS_HAS_NEWEST 1
  s.raise st 0 (n % 2 ^ 32) 3

/-- Every accepted byte of the oldest completion is performed (R298): the slot is stamped `COMPLETE` or ends incomplete. -/
def execIngestCompletion (st : SlotId) (s : State) : Result :=
  .next (
    let x := s.stream st
    match x.completions with
    | [] => s
    | c :: rest =>
      if x.lines.any (·.slot = c.slot) then s
      else if !s.memOn && s.descLocal st c.slot then s.touchMem
      else
        let s := s.setStream st { x with
          completions := rest, waitOpen := x.waitOpen.filter fun (w : Nat × ReadResult) => decide (w.1 ≠ c.slot) }
        let short := s.fbit (Reg.ING_CFG st) Bit.ING_CFG_LEN_CHECK && decide (c.accepted ≠ c.want)
        let s := if c.cause ≠ 0 then s.endIncomplete st c.slot c.cause
          else if short then s.endIncomplete st c.slot 4
          else s.slotComplete st c.slot
        (x.waitOpen.filter fun (w : Nat × ReadResult) => w.1 = c.slot).foldl
          (fun (s : State) (w : Nat × ReadResult) => s.openExamine st w.1 w.2) s)

/-! Configuration (R303). -/

/-- Ingest owns `PL29` (R303). -/
def State.ingestOwns (s : State) : Bool :=
  s.fget (Reg.PST_OWN 29) Bit.PST_OWN_OWNER = 6 && !s.fbit (Reg.PST_OWN 29) Bit.PST_OWN_TRANSIT

/-- The rates of a stream are within bounds, and with them the second condition of R218 holds. -/
def State.ratesHold (s : State) (st : Nat) : Bool :=
  decide (s.fget (Reg.ING_CIR st) Bit.ING_CIR_CIR ≤ s.fget (Reg.ING_PIR st) Bit.ING_PIR_PIR) &&
    decide (4096 ≤ s.fget (Reg.ING_CBS st) Bit.ING_CBS_CBS) && decide (4096 ≤ s.fget (Reg.ING_PBS st) Bit.ING_PBS_PBS)
/-- The second condition of R218, with the held host-window peaks as the demand. -/
def State.cirFits (s : State) : Bool :=
  decide (ceilDiv (65536 * s.fget Reg.EPH_DEMAND_HOST Bit.EPH_DEMAND_HOST_DEMAND) 57344 + s.cirPcie + 2000 ≤ 242000)

/-- A write of `ING_CFG` by function w (R300, R303). -/
def State.ingCfgWrite (s : State) (w st v : Nat) : State :=
  let s := s.meterRefill
  let off := Reg.ING_CFG st
  let was := s.fbit off Bit.ING_CFG_EN
  let s := if bitOf v 18 then s.fset off Bit.ING_CFG_CFG_REFUSED 0 else s
  let s := if was then s else
    let s := if w = 0 then s.fset off Bit.ING_CFG_FEED (getBits v 1 1) else s
    s.fset off Bit.ING_CFG_SLOTS (getBits v 5 8)
  let s := s.fset off Bit.ING_CFG_RED_ACT (if s.fbit off Bit.ING_CFG_FEED then getBits v 2 1 else 0)
  let s := (s.fset off Bit.ING_CFG_LEN_CHECK (getBits v 3 1)).fset off Bit.ING_CFG_FENCE_EN (getBits v 4 1)
  if bitOf v 0 then
    if was then s
    else
      let on := s.fset off Bit.ING_CFG_EN 1
      if on.ratesHold st && (s.fbit off Bit.ING_CFG_FEED || on.cirFits) && s.ingestOwns then
        on.setStream st { on.stream st with
          tc := on.fget (Reg.ING_CBS st) Bit.ING_CBS_CBS
          tp := on.fget (Reg.ING_PBS st) Bit.ING_PBS_PBS
          fence := 0 }
      else s.fset off Bit.ING_CFG_CFG_REFUSED 1
  else if was then (s.fset off Bit.ING_CFG_EN 0).abandonOpen st
  else s

/-- A write of `ING_CFG`. -/
def execIngCfgWrite (w : FnId) (st : SlotId) (v : Word) (s : State) : Result :=
  .next (if s.streamReach w st then s.access (Reg.ING_CFG st) fun s => s.ingCfgWrite w st v.toNat else s)

/-- A PF write of `ING_CIR`, `ING_PIR`, `ING_CBS` or `ING_PBS`, by `which` (R303). -/
def State.ingRateWrite (s : State) (st which v : Nat) : State :=
  let s := s.meterRefill
  let new := s.wr (Reg.ING_CIR st + 4 * which) (v % (if which < 2 then 2 ^ 18 else 2 ^ 25))
  let on := s.fbit (Reg.ING_CFG st) Bit.ING_CFG_EN
  let raises := decide (which = 0) && decide (s.cirPcie < new.cirPcie)
  if on && (!new.ratesHold st || (raises && !new.cirFits)) then s.fset (Reg.ING_CFG st) Bit.ING_CFG_CFG_REFUSED 1
  else
    let x := new.stream st
    new.setStream st { x with
      tc := min x.tc (new.fget (Reg.ING_CBS st) Bit.ING_CBS_CBS)
      tp := min x.tp (new.fget (Reg.ING_PBS st) Bit.ING_PBS_PBS) }

/-- A PF write of one of a meter's rates. -/
def execIngRateWrite (st : SlotId) (which : Fin 4) (v : Word) (s : State) : Result :=
  .next (s.access (Reg.ING_CIR st) fun s => s.ingRateWrite st which v.toNat)

end Sys2Proof.Machine
end

