-- ==== Sys2Proof/Machine/Dma.lean ====
section
/-! DEFINITION. The DMA channels and their mover (R304 to R313), head writeback (R251, R312) and `DMAKICK` (R82). -/

namespace Sys2Proof.Machine

/-- A channel's state. -/
def State.chan (s : State) (c : Nat) : Chan := (tabGet s.chans c).getD Chan.reset
/-- The state with a channel's state set. -/
def State.setChan (s : State) (c : Nat) (x : Chan) : State := { s with chans := tabPut c x s.chans }
/-- `STATE` of a channel: 0 `IDLE`, 1 `RUNNING`, 2 `WAITING`, 3 `THROTTLED`, 4 `HALTED`, 5 `WB_WAIT`. -/
def State.chanState (s : State) (c : Nat) : Nat := s.fget (Reg.DMA_STATUS c) Bit.DMA_STATUS_STATE
/-- The state with `STATE` of a channel set. -/
def State.setChanState (s : State) (c v : Nat) : State := s.fset (Reg.DMA_STATUS c) Bit.DMA_STATUS_STATE v
/-- `SRC` of a channel: 0 software, 1 ingest, 2 writeback, 3 journal, 4 Photometer. -/
def State.chanSrc (s : State) (c : Nat) : Nat := s.fget (Reg.DMA_CTL c) Bit.DMA_CTL_SRC
/-- A function reaches a channel's registers. -/
def State.chanReach (s : State) (w c : Nat) : Bool := w = 0 || s.chanFn c = w
/-- A 37-bit address in a register pair. -/
def State.pair (s : State) (off : Nat) : Nat := s.rd off + 2 ^ 32 * (s.rd (off + 4) % 32)
/-- A 64-bit value stored in a register pair. -/
def State.setPair (s : State) (off v : Nat) : State := (s.wr off (v % 2 ^ 32)).wr (off + 4) (v / 2 ^ 32)
/-- The current descriptor's address. -/
def State.descAddr (s : State) (c : Nat) : Nat := s.pair (Reg.DMA_DESC_LO c) / 64 * 64
/-- `DMA_REMAIN` follows the work. -/
def State.setRemain (s : State) (c : Nat) : State :=
  s.setPair (Reg.DMA_REMAIN_LO c) ((s.chan c).total - (s.chan c).issued)

/-- The bytes of a channel's error registers (R309, R310). -/
def State.latchError (s : State) (c code addr : Nat) (write : Bool) : State :=
  let s := s.setPair (Reg.DMA_ERR_ADDR_LO c) (addr % 2 ^ 37)
  let off := Reg.DMA_STATUS c
  (s.fset off Bit.DMA_STATUS_ERR_WRITE (b2n write)).fset off Bit.DMA_STATUS_ERR_CODE code

/-- A bus error, `DESC` or `STAGING` halts the channel (R309). Codes: 1 `REFUSED`, 2 `POISON`, 3 `HOST_CPL`,
4 `HOST_TIMEOUT`, 5 `WRITE_ACK`, 6 `DESC`, 7 `STAGING`, 8 `LINK`. -/
def State.haltChan (s : State) (c code addr : Nat) (write : Bool) : State :=
  let s := (s.latchError c code addr write).setChan c { s.chan c with stopping := false }
  (s.setChanState c 4).raise (srcDmaError c) 0 (code + 16 * b2n write) 3

/-- The staging plate (R304). -/
def State.stagingPlate (s : State) : Nat := s.fget Reg.DMA_GLOBAL Bit.DMA_GLOBAL_PLATE
/-- DMA owns the staging plate (R304, R309). -/
def State.stagingOwned (s : State) : Bool := s.reaches s.stagingPlate 5
/-- The priority level of a channel. -/
def State.level (s : State) (c : Nat) : Nat := s.fget (Reg.DMA_CTL c) Bit.DMA_CTL_PRIO
/-- The lane through which a channel reaches its staging buffer (R116, R304). -/
def State.dmaUnit (s : State) (c : Nat) : PlateUnit := .dmaLevel (Fin.ofNat 4 (s.level c))
/-- Word w of a channel's staging buffer, at 16 KiB × c of the plate (R304). -/
def stagingWord (c w : Nat) : Nat := 256 * c + w
/-- Word w of a channel's writeback buffer, at 1 MiB + 96 KiB × c of the plate (R304). -/
def wbWord (c w : Nat) : Nat := 16384 + 1536 * c + w % 1536
/-- Words of the staging buffer in use. -/
def Chan.words (x : Chan) : List Nat := x.staged.map (·.word) ++ x.reads.map (·.word) ++ x.acks.map (·.word)
/-- The lowest word of the staging buffer not in use. -/
def Chan.freeWord (x : Chan) : Option Nat := (List.range 256).find? fun w => !(x.words.contains w)

/-- A beat joins the staging buffer in word w. -/
def State.stageIn (s : State) (c pos dst w : Nat) (bytes : List Byte) : State :=
  (s.platePut s.stagingPlate (stagingWord c w) (s.dmaUnit c) bytes).setChan c
    { s.chan c with staged := (s.chan c).staged ++ [⟨pos, dst, bytes.length, w, 0, [], 0⟩] }

/-- The writes that a channel has issued are performed. -/
def State.flushAcks (s : State) (c : Nat) : State :=
  let x := s.chan c
  let s := x.acks.foldl (fun (s : State) (b : Beat) => s.store b.phys b.bytes) s
  s.setChan c { x with acks := [] }

/-- The writeback of a head's frame is over (R251). -/
def State.wbEnd (s : State) (c : Nat) : State :=
  match (s.chan c).wbHead with
  | some (h, _) => { s with wbBusy := s.wbBusy.erase h }
  | none => s

/-- The channel goes to `IDLE` with nothing in hand; what it has issued is performed. -/
def State.idleChan (s : State) (c : Nat) : State :=
  (((s.flushAcks c).wbEnd c).setChan c Chan.reset).setChanState c 0

/-! Descriptors (R305, R307). -/

/-- The fields of a descriptor. -/
def parseDesc (b : List Byte) : DmaDesc :=
  let n (at_ w : Nat) := ofBytes ((b.drop at_).take w)
  { op := n 0 4 % 4, event := bitOf (n 0 4) 2, last := bitOf (n 0 4) 3, fenceWr := bitOf (n 0 4) 4
    ingDone := bitOf (n 0 4) 5, lines := if n 0 4 % 4 = 0 then 1 else n 4 4, src := n 8 8, dst := n 16 8
    length := n 24 8, srcPitch := n 32 4, dstPitch := n 36 4, next := n 40 8, fenceAddr := n 48 8
    fenceValue := n 56 8, down := false }

/-- Bytes from the first to past the last of a work's source or destination. -/
def DmaDesc.span (d : DmaDesc) (pitch : Nat) : Nat := if d.op = 0 then d.length else (d.lines - 1) * pitch + d.length

/-- The spans of a copy meet (R307). -/
def DmaDesc.meets (d : DmaDesc) : Bool :=
  decide (d.op < 2) && decide (d.src < d.dst + d.span d.dstPitch) && decide (d.dst < d.src + d.span d.srcPitch)

/-- A writeback surface that leaves the frame store (R251, R305): plane 0 at `DST`, plane 1, where there is one, at `SRC`. -/
def wbOutside (m : View) (h : Nat) (d : DmaDesc) : Bool :=
  let px := activeW m h
  let line := if sampling m h = 0 then 4 * px else if outBits m h = 10 then 2 * px else px
  let past (a lines pitch : Nat) := decide (2 ^ 37 < a + (lines - 1) * pitch + line)
  past d.dst (activeH m h) d.dstPitch ||
    (sampling m h ≠ 0 && past d.src (if sampling m h = 1 then activeH m h else activeH m h / 2) d.srcPitch)

/-- The descriptor is a `DESC` error for a channel of source `src` (R305). -/
def descBad (src ctrl : Nat) (d : DmaDesc) : Bool :=
  decide (64 ≤ ctrl) || (decide (d.op = 3) != decide (src = 2)) || (d.ingDone && decide (src ≠ 1)) ||
  (!d.last && (decide (d.next % 64 ≠ 0) || decide (2 ^ 37 < d.next + 64))) ||
  decide (d.fenceAddr % 8 ≠ 0) || (d.fenceWr && decide (2 ^ 37 < d.fenceAddr + 8)) ||
  (decide (src = 4) && decide (d.length % 64 ≠ 0)) ||
  (decide (d.op ≠ 3) &&
   (decide (d.length = 0) || decide (d.lines = 0) || decide (2 ^ 32 < d.length * d.lines) ||
    (decide (d.op = 1) && decide (d.srcPitch < d.length)) || (decide (d.op ≠ 0) && decide (d.dstPitch < d.length)) ||
    (decide (d.op < 2) && decide (src ≠ 4) && decide (2 ^ 37 < d.src + d.span d.srcPitch)) ||
    decide (2 ^ 37 < d.dst + d.span d.dstPitch) ||
    (decide (d.op = 1) && d.meets && decide (d.srcPitch ≠ d.dstPitch))))

/-- The channel asks for its current descriptor (R305): a refusal or a link that is down halts it. -/
def State.askDesc (s : State) (c : Nat) : State :=
  let a := s.descAddr c
  let f := s.chanFn c
  let ask (s : State) (d : StoreDest) : State :=
    s.setChan c { s.chan c with descRead := some ⟨a, d, s.now, s.now + s.hostTimeout⟩ }
  match s.translate f a .read with
  | .refused p => (s.refusal p f false 3).haltChan c 1 a false
  | .localMem phys => ask (s.askBe (192 + c) phys) (.localMem phys)
  | .hostWin fn x => if s.linkUp then ask (s.send (.readRequest fn x 64)) (.hostWin fn x) else s.haltChan c 8 a false

/-- The channel starts on the chain at an address (R304, R311). -/
def State.startChan (s : State) (c addr : Nat) : State :=
  let s := (s.setPair (Reg.DMA_DESC_LO c) addr).setChan c { Chan.reset with acks := (s.chan c).acks }
  let src := s.chanSrc c
  if src = 2 then s.setChanState c 5
  else if src = 3 then s.setChanState c 2
  else (s.setChanState c 1).askDesc c

/-- The channel goes on behind its descriptor: to `NEXT`, or to `IDLE` after `LAST` (R306, R312). -/
def State.nextDesc (s : State) (c : Nat) (d : DmaDesc) : State :=
  let s := s.wbEnd c
  if d.last then s.idleChan c
  else
    let s := (s.setChan c { Chan.reset with acks := (s.chan c).acks }).setPair (Reg.DMA_DESC_LO c) d.next
    if s.chanSrc c = 2 then s.setChanState c 5 else (s.setChanState c 1).askDesc c

/-- The beat at position `pos` of the work, at most 64 bytes within one 64-byte word of source and destination: source,
destination, offset of its first byte in its line, length (R305, R307). -/
def DmaDesc.beat (d : DmaDesc) (pos : Nat) : Nat × Nat × Nat × Nat :=
  let line := pos / d.length
  let col := pos % d.length
  let room (a : Nat) := 64 - a % 64
  if d.down then
    let past := d.length - col
    let row := d.lines - 1 - line
    let below (a : Nat) := (a - 1) % 64 + 1
    let len := min past (min (below (d.src + row * d.srcPitch + past)) (below (d.dst + row * d.dstPitch + past)))
    (d.src + row * d.srcPitch + past - len, d.dst + row * d.dstPitch + past - len, past - len, len)
  else
    let src := d.src + line * d.srcPitch + col
    let dst := d.dst + line * d.dstPitch + col
    (src, dst, col, min (d.length - col) (if d.op = 2 then room dst else min (room src) (room dst)))

/-! Staging (R304, R306). -/

/-- A read error waits until the staged beats before it are written (R309). -/
def State.readError (s : State) (c code addr : Nat) : State :=
  let x := s.chan c
  if x.staged = [] then (s.setChan c { x with reads := [], readErr := none }).haltChan c code addr false
  else s.setChan c { x with reads := [], readErr := some (code, addr) }

/-- The next part of the writeback buffer moves to the staging buffer as one beat, to word w (R251, R304, R312). -/
def State.wbStage (s : State) (c w : Nat) (d : DmaDesc) : State :=
  let x := s.chan c
  match x.wbQueue with
  | [] => s
  | p :: rest =>
    let dst := if p.plane = 0 then d.dst + p.line * d.dstPitch + p.off else d.src + p.line * d.srcPitch + p.off
    let len := min p.len (min (64 - dst % 64) (64 - p.start % 64))
    let rest := if len < p.len then { p with off := p.off + len, start := p.start + len, len := p.len - len } :: rest else rest
    match s.plateTake s.stagingPlate (wbWord c (p.start / 64)) .writeback .clean with
    | (s, none) => s.setChan c { x with readErr := some (2, dst) }
    | (s, some word) =>
      (s.setChan c { x with wbQueue := rest, fetched := x.fetched + len }).stageIn c x.fetched dst w
        ((word.drop (p.start % 64)).take len)

/-- One more read of the source is issued, or one more beat of a fill or of a writeback is staged, for word w of the buffer. -/
def State.ahead1 (s : State) (c w : Nat) (d : DmaDesc) : State :=
  let x := s.chan c
  let f := s.chanFn c
  if d.op = 3 then s.wbStage c w d
  else
    let (src, dst, col, len) := d.beat x.fetched
    if d.op = 2 then
      let bytes := (List.range len).map fun i => BitVec.ofNat 8 (getBits d.src (8 * ((col + i) % 8)) 8)
      (s.setChan c { x with fetched := x.fetched + len }).stageIn c x.fetched dst w bytes
    else
      let ask (s : State) (p : StoreDest) : State :=
        s.setChan c { x with
          fetched := x.fetched + len, reads := x.reads ++ [⟨x.fetched, dst, src, len, w, p, s.now, s.now + s.hostTimeout⟩] }
      match s.translate f src .read with
      | .refused p => (s.refusal p f false 3).setChan c { x with readErr := some (1, src) }
      | .localMem phys => ask (s.askBe (192 + c) phys) (.localMem phys)
      | .hostWin fn a =>
        if s.linkUp then ask (s.send (.readRequest fn a len)) (.hostWin fn a)
        else s.setChan c { x with readErr := some (8, src) }

/-- The channel works ahead while its 16 KiB staging buffer has room for a beat; `n` bounds the beats. A read error with
nothing staged or in flight before it halts the channel. -/
def State.workAhead (s : State) (c : Nat) (n : Nat) : State :=
  let x := s.chan c
  match n, x.readErr with
  | _, some (code, addr) => if x.staged = [] && x.reads = [] then s.readError c code addr else s
  | 0, none => s
  | n + 1, none =>
    match x.desc, x.freeWord with
    | some d, some w =>
      if x.fetched < x.total && !x.stopping && s.chanSrc c ≠ 4 && (d.op ≠ 3 || x.wbQueue ≠ []) then
        (s.ahead1 c w d).workAhead c n
      else s
    | _, _ => s

/-- The descriptor is in hand (R305): checked, its order chosen, its work begun. -/
def State.takeDesc (s : State) (c : Nat) (b : List Byte) : State :=
  let src := s.chanSrc c
  let d := parseDesc b
  let x := s.chan c
  let outside := match x.wbHead with
    | some (h, _) => src = 2 && wbOutside (s.headView h) h d
    | none => false
  if descBad src (ofBytes (b.take 4)) d || outside then s.haltChan c 6 (s.descAddr c) false
  else if x.skip then s.nextDesc c d
  else
    let d : DmaDesc := { d with down := decide (d.op < 2) && decide (src ≠ 4) && d.meets && decide (d.src < d.dst) }
    let total := if src = 2 then x.total else if src = 4 then d.length else d.length * d.lines
    let s := s.setChan c { x with desc := some d, total := total, fetched := 0, issued := 0 }
    let s := s.setRemain c
    if src = 4 then s.setChanState c 2 else s.workAhead c 256

/-- A descriptor read fails: the response of the DMA column of R322, and poison (R309). -/
def readCode : ReadResult → Nat
  | .unsupported => 3
  | .timeout | .crossingLost => 4
  | _ => 2

/-- A descriptor read returns (R305). -/
def State.descData (s : State) (c : Nat) (r : ReadResult) : State :=
    let x := s.chan c
    let take (s : State) (b : List Byte) : State :=
      let s := s.setChan c { s.chan c with descRead := none }
      if s.stagingOwned then s.takeDesc c b else s.haltChan c 7 (s.descAddr c) false
    match x.descRead.map Flight.src with
    | some (.localMem phys) =>
      if !s.memOn then s.touchMem
      else if s.unserved (192 + c) phys then s
      else
        match s.localRead phys 64 (r = .uncorrectable) with
        | (s, some b) => take s b
        | (s, none) => (s.setChan c { s.chan c with descRead := none }).haltChan c 2 (s.descAddr c) false
    | some (.hostWin fn a) =>
      let r := s.hostAnswer fn a r
      match r with
      | .data b => take s b
      | _ =>
        let s := if r = .poisoned then s.aerLog fn 1 else if r = .timeout && s.linkUp then s.aerLog fn 2 else s
        (s.setChan c { x with descRead := none }).haltChan c (readCode r) (s.descAddr c) false
    | _ => s

/-- A descriptor read returns. -/
def execDmaDescriptorRead (c : ChanId) (r : ReadResult) (s : State) : Result := .next (s.descData c r)

/-- The oldest source read of a channel returns into its staging buffer (R306, R309). -/
def State.sourceData (s : State) (c : Nat) (r : ReadResult) : State :=
  let x := s.chan c
  match x.reads with
  | [] => s
  | d :: rest =>
    let keep (s : State) (b : List Byte) : State :=
      if !s.stagingOwned then (s.setChan c { x with fetched := d.pos }).readError c 7 d.addr
      else ((s.setChan c { x with reads := rest }).stageIn c d.pos d.dst d.word (b.take d.len)).workAhead c 256
    let fail (s : State) (code : Nat) : State :=
      (s.setChan c { x with fetched := d.pos }).readError c code d.addr
    match d.src with
    | .localMem phys =>
      if !s.memOn then s.touchMem
      else if s.unserved (192 + c) phys then s
      else
        match s.localRead phys d.len (r = .uncorrectable) with
        | (s, some b) => keep s b
        | (s, none) => fail s 2
    | .hostWin fn a =>
      let r := s.hostAnswer fn a r
      match r with
      | .data b => keep s b
      | _ =>
        let s := if r = .poisoned then s.aerLog fn 1 else if r = .timeout && s.linkUp then s.aerLog fn 2 else s
        fail s (readCode r)
    | .register _ => s

/-- A source read returns. -/
def execDmaSourceData (c : ChanId) (r : ReadResult) (s : State) : Result := .next (s.sourceData c r)

/-! Completion (R306, R310, R312). -/

/-- A completion with error (R310). -/
def State.doneErr (s : State) (c code addr : Nat) (d : DmaDesc) : State :=
  let s := (s.flushAcks c).latchError c code addr true
  let s := s.fset (Reg.DMA_STATUS c) Bit.DMA_STATUS_DONE_ERR 1
  let s := s.raise (srcDmaError c) 0 (code + 16 + 32) 3
  if s.chanSrc c < 2 then s.idleChan c else s.nextDesc c d

/-- The fence write of a descriptor: none, or the code of its error. -/
def State.fenceWrite (s : State) (c : Nat) (d : DmaDesc) : State × Option Nat :=
  if !d.fenceWr then (s, none)
  else
    let f := s.chanFn c
    match s.translate f d.fenceAddr .write with
    | .localMem phys => (s.store phys (toBytes 8 d.fenceValue), none)
    | .hostWin fn a =>
      if s.linkUp then (s.send (.write fn a (toBytes 8 d.fenceValue)), none) else (s, some 8)
    | .refused p => (s.refusal p f true 3, some 1)

/-- Every write of the descriptor is performed: steps 2 to 4 of R306, then the next descriptor. -/
def State.finishDesc (s : State) (c : Nat) (d : DmaDesc) : State :=
  match s.fenceWrite c d with
  | (s, some code) => s.doneErr c code d.fenceAddr d
  | (s, none) =>
    let s := if d.ingDone then s.ingDone (s.fget (Reg.DMA_CTL c) Bit.DMA_CTL_STREAM) else s
    let s := (s.fset (Reg.DMA_STATUS c) Bit.DMA_STATUS_DONE 1).fsat (Reg.DMA_STATUS c) Bit.DMA_STATUS_DONE_COUNT
    let s := if d.event then s.raise (srcDmaDone c) 0 (s.fget (Reg.DMA_STATUS c) Bit.DMA_STATUS_DONE_COUNT) 3 else s
    s.nextDesc c d

/-- A descriptor writes the byte at an address. -/
def DmaDesc.writes (d : DmaDesc) (a : Nat) : Bool :=
  decide (d.dst ≤ a) && (if d.op = 0 then decide (a - d.dst < d.length)
    else decide ((a - d.dst) / d.dstPitch < d.lines) && decide ((a - d.dst) % d.dstPitch < d.length))

/-- Bytes of an ingest channel's descriptor still stand in write-combining lines: they are not yet performed (R71, R297,
R306). -/
def State.undrained (s : State) (c : Nat) (d : DmaDesc) : Bool :=
  s.chanSrc c = 1 && s.streams.any fun e => e.2.lines.any fun l => l.mask.any fun k => d.writes (l.addr + k)

/-- The descriptor completes once its last beat is issued and every write performed. -/
def State.checkDone (s : State) (c : Nat) : State :=
  let x := s.chan c
  match x.desc with
  | some d =>
    if x.issued = x.total && decide (0 < x.total) && x.acks = [] && s.chanState c ≠ 4 && !s.undrained c d then s.finishDesc c d
    else s
  | none => s

/-! The mover (R308). -/

/-- A channel requests: a beat is ready and it is neither throttled nor halted. -/
def State.requests (s : State) (c : Nat) : Bool := s.chanState c = 1 && (s.chan c).staged ≠ []

/-- The channel whose beat comes next and the beats of its burst before it: the burst goes on for up to 16 beats unless a more
urgent channel requests, otherwise the next channel of the most urgent level in turn begins one. -/
def State.moverPick (s : State) : Option (Nat × Nat) :=
  let rs := (List.range 64).filter s.requests
  let urgent := rs.foldl (fun m c => min m (s.level c)) 4
  let fresh :=
    let at_ := rs.filter fun c => s.level c = urgent
    let last := (tabGet s.moverTurn urgent).getD 63
    match at_.find? (fun c => decide (last < c)) with
    | some c => some (c, 0)
    | none => at_.head?.map (·, 0)
  match s.moverBurst with
  | some (c, n) => if n < 16 && s.requests c && decide (s.level c ≤ urgent) then some (c, n) else fresh
  | none => fresh

/-- A beat has been issued with its bytes: `DMA_REMAIN` falls by them, and the channel works ahead. A write to GDDR6 at `flight` waits
for its controller in class BE. -/
def State.beatIssued (s : State) (c : Nat) (b : Beat) (bytes : List Byte) (flight : Option Nat) : State :=
  let x := s.chan c
  let acks := match flight with
    | some phys => x.acks ++ [{ b with phys := phys, bytes := bytes, at_ := s.now }]
    | none => x.acks
  let s := match flight with | some phys => s.askBe (192 + c) phys | none => s
  let s := s.setChan c { x with staged := x.staged.drop 1, acks := acks, issued := x.issued + b.len }
  let s := (s.setRemain c).workAhead c 256
  let s := if s.chanSrc c = 4 && (s.chan c).staged = [] && s.chanState c = 1 then s.setChanState c 2 else s
  s.checkDone c

/-- A beat goes to memory with the rights of the channel's function (R94, R309). -/
def State.beatOut (s : State) (c : Nat) (b : Beat) (bytes : List Byte) : State :=
  let f := s.chanFn c
  match s.translate f b.dst .write with
  | .refused p => (s.refusal p f true 3).haltChan c 1 b.dst true
  | .hostWin fn a =>
    if s.linkUp then (s.send (.write fn a bytes)).beatIssued c b bytes none else s.haltChan c 8 b.dst true
  | .localMem phys => s.beatIssued c b bytes (some phys)

/-- The beat at the front of a channel's staging buffer is read from its word and written (R296, R302, R309); `e` is what SECDED finds
in that word. Poison halts the channel; a retry fetches the beat again where it has a source. -/
def State.writeBeat (s : State) (c : Nat) (e : Ecc) : State :=
  let x := s.chan c
  match x.staged with
  | [] => s
  | b :: _ =>
    if !s.stagingOwned then s.haltChan c 7 b.dst true
    else
      match s.plateTake s.stagingPlate (stagingWord c b.word) (s.dmaUnit c) e with
      | (s, none) =>
        let again := if s.chanSrc c < 2 then { x with staged := [], reads := [], fetched := b.pos, readErr := none } else x
        (s.setChan c again).haltChan c 2 b.dst false
      | (s, some word) =>
        let bytes := word.take b.len
        if s.chanSrc c = 1 && ((s.windowOf b.dst).isSome || (s.protectedBy b.dst).isSome) then
          if !s.memOn then s.touchMem
          else
            match s.ingestPath b.dst bytes true id with
            | some s => s.beatIssued c b bytes none
            | none => s.setChanState c 3
        else s.beatOut c b bytes

/-- A `STOP` that waited for the burst takes effect as it ends (R308, R311). -/
def State.endStop (s : State) (c : Nat) : State := if (s.chan c).stopping && s.chanState c ≠ 4 then s.idleChan c else s

/-- The mover writes one beat (R304, R308, R357). -/
def State.moverBeat (s : State) (e : Ecc) : State :=
  if s.now < s.moverAt then s
  else
    match s.moverPick with
    | none => s
    | some (c, n) =>
      let s := match s.moverBurst with
        | some (c', _) => if n = 0 then s.endStop c' else s
        | none => s
      let s := { s with moverBurst := some (c, n + 1), moverAt := s.now + (if s.throttled then 8 else 1),
                        moverTurn := tabPut (s.level c) c s.moverTurn }
      let s := s.writeBeat c e
      if n + 1 = 16 || !s.requests c then { s.endStop c with moverBurst := none } else s

/-- The mover serves the most urgent requesting channel with one beat; `e` is what SECDED finds in its staging word. -/
def execDmaMoverBeat (e : Ecc) (s : State) : Result := .next (s.moverBeat e)

/-- The oldest write in flight of a channel is acknowledged, once its controller has served it (R306): it is performed, or it failed
(R309, R310). A failed one and those behind it are to be written again; a second failure behind the first changes nothing. For an
ingest channel with no other write in flight the drain of its bytes is acknowledged. -/
def State.writeAck (s : State) (c : Nat) (ok : Bool) : State :=
  let x := s.chan c
  match x.acks with
  | [] => if ok && s.chanSrc c = 1 then s.checkDone c else s
  | b :: rest =>
    if !s.memOn then s.touchMem
    else if s.unserved (192 + c) b.phys then s
    else if ok then ((s.store b.phys b.bytes).setChan c { x with acks := rest }).checkDone c
    else
      match x.desc with
      | none => s.setChan c { x with acks := rest }
      | some d =>
        if x.issued = x.total && s.chanState c ≠ 4 then (s.setChan c { x with acks := rest }).doneErr c 5 b.dst d
        else if x.issued ≤ b.pos then s.setChan c { x with acks := rest }
        else
          let s := (s.setChan c { x with acks := rest, staged := (b :: rest) ++ x.staged, issued := b.pos }).setRemain c
          if s.chanState c = 4 then s else s.haltChan c 5 b.dst true

/-- A write acknowledgement. -/
def execDmaWriteAck (c : ChanId) (ok : Bool) (s : State) : Result := .next (s.writeAck c ok)

/-! Head writeback (R251, R312). -/

/-- The bytes that a line gives to the surface: plane, line of the plane, bytes (R251). `c` holds the codes of the line, its
chroma those of its line pair with 4:2:0. -/
def wbLine (m : View) (h y : Nat) (c : List (List Nat)) : List (Nat × Nat × List Byte) :=
  let n := outBits m h
  let get (k x : Nat) := (c.getD k []).getD x 0
  let sample (v : Nat) : List Byte := if n = 10 then toBytes 2 (v * 64) else toBytes 1 (widen8 n v)
  if sampling m h = 0 then
    [(0, y, (List.range (activeW m h)).flatMap fun x =>
      toBytes 4 (codeWord n (get 0 x) (get 1 x) (get 2 x)))]
  else
    let luma := (0, y, (List.range (activeW m h)).flatMap fun x => sample (get 0 x))
    let chroma := (List.range (activeW m h / 2)).flatMap fun x => sample (get 1 x) ++ sample (get 2 x)
    if sampling m h = 1 then [luma, (1, y, chroma)]
    else if y % 2 = 1 then [luma, (1, y / 2, chroma)]
    else [luma]

/-- Bytes of a writeback surface. -/
def wbBytes (m : View) (h : Nat) : Nat :=
  let px := activeW m h * activeH m h
  match sampling m h with
  | 0 => 4 * px
  | 1 => 2 * px
  | _ => px * 3 / 2 * (if outBits m h = 10 then 2 else 1)

/-- A line of a head's frame is composed on every part. -/
def State.lineWhole (s : State) (m : View) (h y : Nat) : Bool :=
  (List.range (partsOf m h)).all fun k => (tabGet (s.frameRun h).rows (2 * y + k)).isSome

/-- The frame is abandoned: its writeback buffer of 96 KiB overflows (R312). The channel moves to `NEXT`, once it has its descriptor,
and a halted one once software resumes it. -/
def State.wbOverflow (s : State) (c h : Nat) : State :=
  let s := (s.fsat (hdOff h Hd.WB_SKIP) ⟨0, 16⟩).raise (srcHead h) 5 0 (islandHead h)
  let s := (s.fset (Reg.DMA_STATUS c) Bit.DMA_STATUS_DONE_ERR 1).fset (Reg.DMA_STATUS c) Bit.DMA_STATUS_ERR_CODE 9
  let s := s.wbEnd c
  let x := { s.chan c with wbHead := none, wbQueue := [], skip := true }
  match x.desc, s.chanState c with
  | some d, 1 => ((s.setChan c x).flushAcks c).nextDesc c d
  | _, _ => s.setChan c x

/-- The bytes of a line enter the writeback buffer at byte `at_` of its ring (R251, R304); `n` bounds the words. -/
def State.wbPour (s : State) (c at_ : Nat) (bytes : List Byte) : Nat → State
  | 0 => s
  | n + 1 =>
    if bytes = [] then s
    else
      let col := at_ % 64
      let part := (bytes.take (64 - col)).mapIdx fun i b => (Fin.ofNat 64 (col + i), b)
      (s.platePatch s.stagingPlate (wbWord c (at_ / 64)) .writeback part).wbPour c (at_ + part.length) (bytes.drop part.length) n

/-- One piece of a line enters the writeback buffer. -/
def State.wbEnter (s : State) (c plane line : Nat) (bytes : List Byte) : State :=
  let x := s.chan c
  let t := s.wbPour c x.wbNext bytes (bytes.length / 64 + 2)
  t.setChan c { x with
    wbQueue := x.wbQueue ++ [⟨plane, line, 0, x.wbNext, bytes.length⟩], wbNext := (x.wbNext + bytes.length) % 98304 }

/-- A composed line joins the writeback buffer of the channel that has the frame in hand. -/
def State.wbCapture (s : State) (h y : Nat) : State :=
  let m := s.headView h
  let c := hdf m h Hd.WB_CHAN
  let x := s.chan c
  let f := (s.head h).frame
  let lines := wbLine m h y (s.sentCodes h y)
  if x.wbHead ≠ some (h, f) || !s.lineWhole m h y then s
  else if sampling m h = 2 && y % 2 = 1 && !s.lineWhole m h (y - 1) then s
  else if 98304 < sumOf (x.wbQueue.map (·.len)) + sumOf (lines.map (·.2.2.length)) then s.wbOverflow c h
  else (lines.foldl (fun (s : State) p => s.wbEnter c p.1 p.2.1 p.2.2) s).workAhead c 256

/-- A pipe composes an output line (R199); a chosen frame's line goes to its writeback channel (R251). -/
def execPipeComposeLine (p : PipeId) (h : HeadId) (y : Nat) (s : State) : Result :=
  .next ((s.composeLine p h y).wbCapture h y)

/-- The first active line of a chosen frame (R312): the channel takes its current descriptor, or the frame is skipped. -/
def execDmaWbFrameStart (h : HeadId) (s : State) : Result :=
  .next (
    let m := s.headView h
    let c := hdf m h Hd.WB_CHAN
    let f := (s.head h).frame
    if !(s.frameRun h).chosen || (s.chan c).wbHead = some (h.val, f) then s
    else
      let s := s.setFrameRun h { s.frameRun h with chosen := false }
      if s.chanState c ≠ 5 || s.chanSrc c ≠ 2 then
        { (s.fsat (hdOff h Hd.WB_SKIP) ⟨0, 16⟩).raise (srcHead h) 5 0 (islandHead h) with wbBusy := s.wbBusy.erase h }
      else
        let s := s.setChan c { Chan.reset with acks := (s.chan c).acks, wbHead := some (h, f), total := wbBytes m h }
        let s := (s.setChanState c 1).askDesc c
        (List.range (activeH m h)).foldl (fun (s : State) (y : Nat) => s.wbCapture h y) s)

/-! Control (R311, R82). -/

/-- A `RESUME` (R311): the failing descriptor is read again, or the work goes on at the failing beat. -/
def State.resumeChan (s : State) (c : Nat) : State :=
  let x := s.chan c
  let src := s.chanSrc c
  if src = 3 then s.setChanState c 2
  else
  match x.desc with
  | none => (s.setChanState c 1).askDesc c
  | some d =>
    if x.skip then s.nextDesc c d
    else
    let s := s.setChan c { x with readErr := none }
    let s := s.setChanState c (if src = 4 && x.staged = [] then 2 else 1)
    (s.workAhead c 256).checkDone c

/-- `STOP` (R311): at once, or after the burst in hand. -/
def State.stopChan (s : State) (c : Nat) : State :=
  match s.moverBurst with
  | some (b, _) => if b = c && s.requests c then s.setChan c { s.chan c with stopping := true } else s.idleChan c
  | none => s.idleChan c

/-- A write of `DMA_CTL` (R311): settings only while `IDLE`, then the first command bit that the value holds. -/
def State.dmaCtlWrite (s : State) (c v : Nat) : State :=
  let off := Reg.DMA_CTL c
  let st := s.chanState c
  let s := if st ≠ 0 then s
    else s.wr off (setBits (getBits v 4 24 * 16) 6 3 (if getBits v 6 3 < 5 then getBits v 6 3 else 0))
  if bitOf v 0 then
    if st = 0 then s.startChan c (s.descAddr c) else s.fset (Reg.DMA_STATUS c) Bit.DMA_STATUS_KICK_LOST 1
  else if bitOf v 1 then (if st = 0 || st = 4 then s else s.stopChan c)
  else if bitOf v 2 then (if st = 4 then s.resumeChan c else s)
  else if bitOf v 3 then (if st = 4 then s.idleChan c else s)
  else s

/-- A write of `DMA_CTL` by function w with one command bit and the stored settings. -/
def State.dmaCommand (s : State) (w c bit : Nat) : State :=
  if s.chanReach w c then s.access (Reg.DMA_CTL c) fun s => s.dmaCtlWrite c (s.rd (Reg.DMA_CTL c) / 16 * 16 + 2 ^ bit) else s

/-- A write of `START`. -/
def execDmaStart (w : FnId) (c : ChanId) (s : State) : Result := .next (s.dmaCommand w c 0)
/-- A write of `STOP`. -/
def execDmaStop (w : FnId) (c : ChanId) (s : State) : Result := .next (s.dmaCommand w c 1)
/-- A write of `RESUME`. -/
def execDmaResume (w : FnId) (c : ChanId) (s : State) : Result := .next (s.dmaCommand w c 2)
/-- A write of `ABORT`. -/
def execDmaAbort (w : FnId) (c : ChanId) (s : State) : Result := .next (s.dmaCommand w c 3)

/-- `DMAKICK` (R72, R82, R91): checks, then the outcome in the flags once every earlier store has been performed. -/
def execDmakick (q : SeqId) (s : State) : Result :=
  .next (s.issue q .dmakick fun i =>
    let x := s.seq q
    let f := s.seqFn q
    let a := (x.reg i.a).toNat
    let c := i.imm.toNat
    if s.chanFn c ≠ f then s.seqFault q 0x0A true
    else if a % 64 ≠ 0 then s.seqFault q 0x03 true
    else if 2 ^ 37 ≤ a then s.seqFault q 0x04 true
    else
      let go (s : State) : State :=
        if x.stores ≠ [] then s
        else
          let st := s.chanState c
          let s := s.retire q i { x with z := decide (st = 0), c := decide (st ≠ 0) && decide (st ≠ 4), v := decide (st = 4) }
          if st = 0 then s.startChan c a else s
      match s.translate f a .read with
      | .refused p => (s.refusal p f false 2).seqFault q 0x05 true
      | .localMem _ => go s
      | .hostWin .. => if s.linkUp then go s else s.hostDown q)

end Sys2Proof.Machine
end

