-- ==== Sys2Proof/Machine/Hash.lean ====
section
/-! DEFINITION. CRC-32C (R279), the SHA-2 hashes of the journal (R285, R286) and its ECDSA P-384 signatures (R286). The spec names
these functions; their definitions are those of FIPS 180-4 and FIPS 186-4 (log entries 21 and 75). -/

namespace Sys2Proof.Machine

/-- `n` steps of the reflected division by 0x1EDC_6F41 (reflected: 0x82F6_3B78). -/
def crcSteps : Nat → Word → Word
  | 0, c => c
  | n + 1, c => crcSteps n (if c.getLsbD 0 then (c >>> 1) ^^^ 0x82F63B78 else c >>> 1)

/-- The register of the CRC after one more byte. -/
def crcByte (c : Word) (b : Byte) : Word := crcSteps 8 (c ^^^ b.setWidth 32)

/-- CRC-32C of a byte sequence (R279). -/
def crc32c (bytes : List Byte) : Word := (bytes.foldl crcByte 0xFFFFFFFF) ^^^ 0xFFFFFFFF

/-- `n` bytes of a number, the most significant first. -/
def bigEndian (n v : Nat) : List Byte := (toBytes n v).reverse

/-! SHA-2. Its constants are fractions of roots of primes. -/

/-- r + the largest x below 2^n with (r + x)^k ≤ v. -/
def rootFrom (k v : Nat) : Nat → Nat → Nat
  | 0, r => r
  | n + 1, r => rootFrom k v n (if (r + 2 ^ n) ^ k ≤ v then r + 2 ^ n else r)

/-- The first 64 bits of the fraction of the k-th root of p. -/
def rootFraction (k p : Nat) : Nat := rootFrom k (p * 2 ^ (64 * k)) 70 0 % 2 ^ 64

/-- The first 80 primes. -/
def primes : List Nat :=
  (List.range 410).filter fun n => decide (2 ≤ n) && (List.range 21).all fun d => decide (d < 2) || decide (n ≤ d) || decide (n % d ≠ 0)

/-- What sets the two members of the family apart: the word's width, the rounds, the distances of the mixing functions. -/
structure ShaForm where
  width : Nat
  rounds : Nat
  /-- Rotations on the variables a and e; rotations and the shift on schedule words 15 and 2 before. -/
  onA : Nat × Nat × Nat
  onE : Nat × Nat × Nat
  on15 : Nat × Nat × Nat
  on2 : Nat × Nat × Nat
deriving DecidableEq, Repr

/-- SHA-256 works on 32-bit words. -/
def form32 : ShaForm := ⟨32, 64, (2, 13, 22), (6, 11, 25), (7, 18, 3), (17, 19, 10)⟩
/-- SHA-384 works on 64-bit words. -/
def form64 : ShaForm := ⟨64, 80, (28, 34, 39), (14, 18, 41), (1, 8, 7), (19, 61, 6)⟩

/-- A 64-bit constant cut to the word: its top bits. -/
def ShaForm.const (f : ShaForm) (v : Nat) : BitVec f.width := BitVec.ofNat f.width (v / 2 ^ (64 - f.width))
/-- Three rotations combined. -/
def turn {w : Nat} (r : Nat × Nat × Nat) (x : BitVec w) : BitVec w :=
  x.rotateRight r.1 ^^^ (x.rotateRight r.2.1 ^^^ x.rotateRight r.2.2)
/-- Two rotations and a shift combined. -/
def slide {w : Nat} (r : Nat × Nat × Nat) (x : BitVec w) : BitVec w :=
  x.rotateRight r.1 ^^^ (x.rotateRight r.2.1 ^^^ x >>> r.2.2)

/-- The next `n` words of a block's schedule, from the 16 words before them, oldest first. -/
def ShaForm.expand (f : ShaForm) : Nat → List (BitVec f.width) → List (BitVec f.width)
  | 0, _ => []
  | n + 1, win =>
    let w := win.getD 0 0 + slide f.on15 (win.getD 1 0) + win.getD 9 0 + slide f.on2 (win.getD 14 0)
    w :: f.expand n (win.drop 1 ++ [w])

/-- One round on the variables a to h with the sum of its constant and its schedule word. -/
def ShaForm.stir (f : ShaForm) (v : List (BitVec f.width)) (kw : BitVec f.width) : List (BitVec f.width) :=
  match v with
  | [a, b, c, d, e, x, y, z] =>
    let low := z + turn f.onE e + (y ^^^ (e &&& (x ^^^ y))) + kw
    [low + turn f.onA a + ((a &&& b) ||| (c &&& (a ||| b))), a, b, c, d + low, e, x, y]
  | _ => v

/-- One block joins the hash value. -/
def ShaForm.absorb (f : ShaForm) (v : List (BitVec f.width)) (block : List Byte) : List (BitVec f.width) :=
  let n := f.width / 8
  let first := (List.range 16).map fun k => BitVec.ofNat f.width (ofBytes ((block.drop (n * k)).take n).reverse)
  let all := first ++ f.expand (f.rounds - 16) first
  let kws := (primes.zip all).map fun e => f.const (rootFraction 3 e.1) + e.2
  List.zipWith (fun x y => x + y) v (kws.foldl f.stir v)

/-- Successive blocks of `size` bytes join the hash value; `k` counts them. -/
def ShaForm.absorbAll (f : ShaForm) (size : Nat) : Nat → List (BitVec f.width) → List Byte → List (BitVec f.width)
  | 0, v, _ => v
  | k + 1, v, m => f.absorbAll size k (f.absorb v (m.take size)) (m.drop size)

/-- The hash of a byte string that begins with the roots of the primes from the given place on. -/
def ShaForm.hash (f : ShaForm) (from_ : Nat) (m : List Byte) : List Byte :=
  let size := 2 * f.width
  let tail := f.width / 4
  let fill := (2 * size - (m.length + 1 + tail) % size) % size
  let padded := m ++ (0x80 :: List.replicate fill 0) ++ bigEndian tail (8 * m.length)
  let init := ((primes.drop from_).take 8).map fun p => f.const (rootFraction 2 p)
  (f.absorbAll size (padded.length / size) init padded).flatMap fun w => bigEndian (f.width / 8) w.toNat

/-- SHA-256 of a byte string, in output order (R285). -/
def sha256 (m : List Byte) : List Byte := form32.hash 0 m
/-- SHA-384 of a byte string, in output order (R286). -/
def sha384 (m : List Byte) : List Byte := (form64.hash 8 m).take 48

/-! ECDSA over P-384 (R286). -/

/-- The field's prime. -/
def fieldP : Nat := 2 ^ 384 - 2 ^ 128 - 2 ^ 96 + 2 ^ 32 - 1
/-- The order of the base point. -/
def orderN : Nat := 0xFFFFFFFFFFFFFFFFFFFFFFFFFFFFFFFFFFFFFFFFFFFFFFFFC7634D81F4372DDF581A0DB248B0A77AECEC196ACCC52973
/-- The base point. -/
def baseG : Nat × Nat :=
  (0xAA87CA22BE8B05378EB1C71EF320AD746E1D3B628BA79B9859F741E082542A385502F25DBF55296C3A545E3872760AB7,
   0x3617DE4A96262C6F5D9E98BF9292DC29F8F41DBD289A147CE9DA3113B5F0B8C00A60B1CE1D7E819D7A431D7C90EA0E5F)

/-- b^e modulo m, for e below 2^n. -/
def modPow (b m : Nat) : Nat → Nat → Nat
  | 0, _ => 1
  | n + 1, e =>
    let half := modPow b m n (e / 2)
    if e % 2 = 1 then half * half % m * b % m else half * half % m
/-- The inverse modulo a prime below 2^384. -/
def modInv (a m : Nat) : Nat := modPow a m 384 (m - 2)

/-- The sum of two points of the curve y² = x³ − 3x + b; `none` is the point at infinity. -/
def curveAdd : Option (Nat × Nat) → Option (Nat × Nat) → Option (Nat × Nat)
  | none, q => q
  | p, none => p
  | some (x, y), some (u, v) =>
    if x = u && decide ((y + v) % fieldP = 0) then none
    else
      let slope := (if x = u then (3 * x * x + fieldP - 3) * modInv (2 * y) fieldP
        else (v + fieldP - y) * modInv (u + fieldP - x) fieldP) % fieldP
      let w := (slope * slope + 2 * fieldP - x - u) % fieldP
      some (w, (slope * (x + fieldP - w) + fieldP - y) % fieldP)

/-- A multiple of a point, for a factor below 2^n. -/
def curveMul (p : Option (Nat × Nat)) : Nat → Nat → Option (Nat × Nat)
  | 0, _ => none
  | n + 1, k => curveAdd (if k % 2 = 1 then p else none) (curveMul (curveAdd p p) n (k / 2))

/-- A number from 1 to the order less 1. -/
def scalarOf (v : Nat) : Nat := v % (orderN - 1) + 1

/-- r and s of a signature of a digest with private key d and nonce k. -/
def ecdsa (d k digest : Nat) : Nat × Nat :=
  let r := ((curveMul (some baseG) 384 k).getD (0, 0)).1 % orderN
  (r, modInv k orderN * ((digest + r * d) % orderN) % orderN)

/-- The signature r, s that the device's attestation key gives to a byte string with its n-th nonce (R286). -/
def signatureOf (n : Nat) (body : List Byte) : List Byte :=
  let rs := ecdsa (scalarOf Config.attestationKey) (scalarOf (Config.signNonce n)) (ofBytes (sha384 body).reverse)
  bigEndian 48 rs.1 ++ bigEndian 48 rs.2

end Sys2Proof.Machine
end

