-- ==== Sys2Proof/Machine/Journal.lean ====
section
/-! DEFINITION. Signatures of output frames (R277 to R281) and the Oskoel journal (R282 to R292). -/

namespace Sys2Proof.Machine

/-! Signatures (R278 to R280). -/

/-- The bytes that one pixel contributes (R279). -/
def pixelBytes (m : View) (h x : Nat) (codes : List (List Nat)) : List Byte :=
  let c := if sampling m h = 0 then x else x / 2
  toBytes 2 ((codes.getD 0 []).getD x 0) ++ toBytes 2 ((codes.getD 1 []).getD c 0) ++ toBytes 2 ((codes.getD 2 []).getD c 0)

/-- The CRC of region r over the codes of each line; zero when the region is empty. -/
def regionCrc (m : View) (h r : Nat) (codes : Nat → List (List Nat)) : Nat :=
  let q := regionRect m h r
  let bytes := (span q.2.2.1 q.2.2.2).flatMap fun y => (span q.1 q.2.1).flatMap fun x => pixelBytes m h x (codes y)
  if bytes = [] then 0 else (crc32c bytes).toNat

/-- The value that region r is compared with on frame f (R280). -/
def expectedCrc (m : View) (h r f : Nat) : Nat := sgf m h r (Sg.EXP0 + if bitOf (cctl m h) 19 then f % 4 else 0)

/-- The mask of the regions that satisfy p. -/
def regionMask (p : Nat → Bool) : Nat := (List.range 16).foldl (fun n r => if p r then n + 2 ^ r else n) 0

/-! The chain (R285). -/

/-- Slots that an entry takes. -/
def slotsOf (e : List Byte) : Nat := e.length / 128
/-- Slots waiting in `PL30`. -/
def Journal.slots (j : Journal) : Nat := sumOf (j.buffer.map slotsOf)
/-- The capacity of the buffer (R289). -/
def journalRoom : Nat := 57344

/-- A record gets its `CHAIN`, and joins the buffer; a periodic checkpoint falls due after 1,024 records (R285, R287). -/
def Journal.chain (j : Journal) (body : List Byte) : Journal :=
  let rec_ := body ++ j.lastHash
  let n := j.sincePeriodic + 1
  { j with
    seq := j.seq + 1
    lastHash := sha256 rec_
    buffer := j.buffer ++ [rec_]
    sincePeriodic := if n = 1024 then 0 else n
    due := if n = 1024 then j.due ++ [0] else j.due }

/-- The first 96 bytes of a gap record (R289). -/
def Journal.gapBody (j : Journal) : List Byte :=
  [0x03, 0x01] ++ toBytes 6 0 ++ toBytes 8 j.gap ++ toBytes 8 j.gapFirst ++ toBytes 8 j.gapLast ++ List.replicate 64 0

/-- A frame that is not recorded (R289, R292). -/
def Journal.drop (j : Journal) (t : Nat) : Journal :=
  { j with dropped := j.dropped + 1, gap := j.gap + 1, gapFirst := if j.gap = 0 then t else j.gapFirst, gapLast := t }

/-- A frame record enters the chain, behind a gap record where frames were dropped; before the opening checkpoint is signed both
wait for it, with two slots kept for it. A full buffer drops the record of a frame completed at time t (R285, R287, R289). -/
def Journal.add (j : Journal) (body : List Byte) (t : Nat) : Journal :=
  let kept := if j.opened then 0 else j.unchained.length + 2
  let gap := if 0 < j.gap then [j.gapBody] else []
  if journalRoom < j.slots + kept + gap.length + 1 then j.drop t
  else
    let j := { j with gap := 0 }
    if j.opened then (gap ++ [body]).foldl Journal.chain j else { j with unchained := j.unchained ++ gap ++ [body] }

/-- The journal runs. -/
def State.jrnOn (s : State) : Bool := s.fbit Reg.JRN_CTL Bit.JRN_CTL_EN
/-- Slots of the ring (R288). -/
def State.ringCount (s : State) : Nat := 2 ^ (5 + s.fget Reg.JRN_CTL Bit.JRN_CTL_RING_SIZE)
/-- Slots written and not yet consumed. -/
def State.ringUsed (s : State) : Nat := (s.rd Reg.JRN_WR + 2 ^ 32 - s.rd Reg.JRN_RD) % 2 ^ 32

/-- `JRN_STATUS`, `JRN_DROPPED` follow the journal. -/
def State.jrnShow (s : State) : State :=
  let j := s.jrn
  let st :=
    if !s.jrnOn then 0
    else if j.sealing = 1 || j.sealing = 2 then 4
    else if j.sealing = 3 then 5
    else if 0 < j.gap then 3
    else if j.halted || !s.linkUp || decide (j.buffer ≠ []) && decide (s.ringCount ≤ s.ringUsed) then 2
    else 1
  let s := s.fset Reg.JRN_STATUS Bit.JRN_STATUS_STATE st
  let s := s.fset Reg.JRN_STATUS Bit.JRN_STATUS_BUFFERED j.slots
  s.wr Reg.JRN_DROPPED (min j.dropped (2 ^ 32 - 1))

/-! Checkpoints (R286, R287). -/

/-- Bytes 0 to 159 of a checkpoint signed now. -/
def State.checkpoint (s : State) (kind : Nat) : List Byte :=
  let j := s.jrn
  let zeros (n : Nat) : List Byte := List.replicate n 0
  [0x02, 0x01, BitVec.ofNat 8 kind, 0] ++ toBytes 4 (s.rd Reg.JRN_EPOCH) ++ toBytes 8 j.seq ++ toBytes 8 (s.replica 5) ++
    (if j.seq = 0 then zeros 32 else j.lastHash) ++ (if kind = 3 || j.prevCp = [] then zeros 32 else j.prevCp) ++
    toBytes 8 Config.serial.toNat ++ (List.range 4).flatMap (fun w => toBytes 4 (s.rd (Reg.JRN_HEAD_W w))) ++
    toBytes 8 j.dropped ++ zeros 40

/-- The checkpoint with its signature (R286). -/
def State.sign (s : State) (body : List Byte) : State × List Byte :=
  (s.draw, body ++ signatureOf s.fresh body)

/-- The signing engine takes the next checkpoint that is due. -/
def State.signNext (s : State) : State :=
  let j := s.jrn
  match j.signing, j.due with
  | none, k :: rest =>
    if j.sealing = 1 then s else { s with jrn := { j with signing := some (s.checkpoint k), due := rest } }.draw
  | _, _ => s

/-- The seal checkpoint begins to be signed (R290): recording stops, checkpoints still being signed are abandoned. -/
def State.startSeal (s : State) : State :=
  let s := { s with jrn := { s.jrn with
    due := s.jrn.due.filter fun k => decide (k = 3), sealing := 1
    signing := match s.jrn.signing with | some b => if b.getD 2 0 = 3 then some b else none | none => none } }
  s.jrnShow

/-- The kind of the checkpoint being signed is an opening one. -/
def Journal.opening (j : Journal) : Bool := match j.signing with | some b => decide (b.getD 2 0 = 3) | none => false

/-- The signing engine finishes a checkpoint: it waits for room, joins the buffer, and the next is begun; the records that
waited for an opening checkpoint enter the chain. -/
def State.checkpointSigned (s : State) : State :=
  match s.jrn.signing with
  | none => s
  | some body =>
    if journalRoom < s.jrn.slots + 2 then s
    else
      let (s, cp) := s.sign body
      let j := s.jrn
      let h := sha256 cp
      let j := { j with signing := none, buffer := j.buffer ++ [cp], prevCp := h }
      let j := if body.getD 2 0 = 3 then
          j.unchained.foldl Journal.chain
            { j with opened := true, lastHash := h, unchained := [] }
        else j
      (({ s with jrn := j }).signNext).jrnShow

/-- The signing engine finishes a checkpoint. -/
def execCheckpointSigned (s : State) : Result := .next (if s.stationDown then s else s.checkpointSigned)

/-! Board flash (R291, R369). -/

/-- A byte of board flash: 0xFF where nothing has been programmed. -/
def State.flashByte (s : State) (a : Nat) : Byte := (tabGet s.flash a).getD 0xFF
/-- One byte of board flash set; an erased byte is not listed. -/
def flashPut (m : List Host.Cell) (a : Nat) (b : Byte) : List Host.Cell := if b = 0xFF then tabDel a m else tabPut a b m
/-- Successive bytes programmed: a program turns ones into zeros. -/
def flashProgram (m : List Host.Cell) (a : Nat) : List Byte → List Host.Cell
  | [] => m
  | b :: bs => flashProgram (flashPut m a (b &&& (tabGet m a).getD 0xFF)) (a + 1) bs
/-- The bytes of a range erased. -/
def flashErase (m : List Host.Cell) (a n : Nat) : List Host.Cell :=
  m.filter fun c => !(decide (a ≤ c.1) && decide (c.1 < a + n))
/-- The canonical form of board flash: addresses strictly rising, and no erased byte listed. -/
abbrev flashWf (m : List Host.Cell) : Bool := tabSorted m && m.all fun e => decide (e.2 ≠ (0xFF : Byte))
/-- Address of page p of the seal ring. -/
def sealPage (p : Nat) : Nat := 0x200000 + 256 * (p % 4096)
/-- The page for the next seal. -/
def State.sealNext (s : State) : Nat := s.fget Reg.JRN_SEAL_STATUS Bit.JRN_SEAL_STATUS_NEXT

/-! The seal (R290 to R292). -/

/-- The seal is made, or skipped; recording resumes once the warning is gone (R292). -/
def State.sealEnd (s : State) : State :=
  let j := s.jrn
  let j : Journal := if j.warned then { j with sealing := 3 } else { j with sealing := 0, resumeAt := s.now }
  ({ s with jrn := { j with sealBytes := [] } }).signNext.jrnShow

/-- The seal is signed (R290, R291): its page program begins, or it finds no erased page. -/
def State.sealSigned (s : State) : State :=
  if s.jrn.sealing ≠ 1 || s.jrn.opening then s
  else
    let (s, cp) := s.draw.sign (s.checkpoint 1)
    let s := { s with jrn := { s.jrn with prevCp := sha256 cp } }
    if s.flashByte (sealPage s.sealNext) = (0xFF : Byte) then
      ({ s with jrn := { s.jrn with sealing := 2, sealBytes := cp } }).jrnShow
    else (s.fset Reg.JRN_SEAL_STATUS Bit.JRN_SEAL_STATUS_SKIPPED 1).sealEnd

/-- The seal checkpoint is signed. -/
def execSealSigned (s : State) : Result := .next s.sealSigned

/-- The flash reports the page programmed. -/
def State.sealProgrammed (s : State) : State :=
  if s.jrn.sealing ≠ 2 then s
  else
    let n := s.sealNext
    let s := { s with flash := flashProgram s.flash (sealPage n) s.jrn.sealBytes }
    let s := { s with sealAt := (n + 1) % 4096 }.fset Reg.JRN_SEAL_STATUS Bit.JRN_SEAL_STATUS_NEXT ((n + 1) % 4096)
    (s.fset Reg.JRN_SEAL_STATUS Bit.JRN_SEAL_STATUS_DONE 1).sealEnd

/-- The seal page is programmed. -/
def execSealProgrammed (s : State) : Result := .next s.sealProgrammed

/-- A seal that runs is completed (R292), as is the one made on entry to PS4 (R290). -/
def State.finishSeal (s : State) : State :=
  let s := if s.jrn.opening then s.checkpointSigned else s
  s.sealSigned.sealProgrammed

/-- The seal on entry to PS4 (R290). -/
def State.sealPs4 (s : State) : State :=
  if s.jrnOn && s.fbit Reg.JRN_CTL Bit.JRN_CTL_SEAL_EN && s.jrn.sealing = 0 then s.startSeal.finishSeal else s.finishSeal

/-- `PWR_WARN_N` asserts (R290): its event; in PS0 to PS3 recording stops and a seal begins. -/
def State.warnAssert (s : State) : State :=
  let again := s.jrn.warned
  let s := if again then s else s.raise 5526 1 0 0
  let s := { s with jrn := { s.jrn with warned := true } }
  if !again && s.jrnOn && s.fbit Reg.JRN_CTL Bit.JRN_CTL_SEAL_EN && decide (s.powerState < 4) && s.jrn.sealing = 0 then
    s.startSeal
  else s

/-- `PWR_WARN_N` asserts. -/
def execPwrWarnAssert (s : State) : Result := .next s.warnAssert

/-- `PWR_WARN_N` deasserts (R292): recording resumes at once, or after the seal. -/
def State.warnDeassert (s : State) : State :=
  if !s.jrn.warned then s
  else
    let s := s.raise 5526 2 0 0
    let j : Journal := { s.jrn with warned := false }
    let j := if j.sealing = 3 then { j with sealing := 0, resumeAt := s.now } else j
    ({ s with jrn := j }).signNext.jrnShow

/-- `PWR_WARN_N` deasserts. -/
def execPwrWarnDeassert (s : State) : Result := .next s.warnDeassert

/-- The Station firmware's erase of the next sector of the seal ring, whenever fewer than 16 pages after the newest seal are
erased, ends or fails (R291). -/
def execSectorEraseDone (ok : Bool) (s : State) : Result :=
  .next (
    match (List.range 16).find? fun k => s.flashByte (sealPage (s.sealNext + k)) ≠ (0xFF : Byte) with
    | none => s
    | some k =>
      if ok then { s with flash := flashErase s.flash (sealPage (s.sealNext + k) / 4096 * 4096) 4096 }
      else s.raise 5537 0 0 5)

/-! Records (R282 to R284). -/

/-- The 96 bytes of a frame record before its `CHAIN` (R283). -/
def recordBody (h f t regions flags : Nat) (crcs : List Nat) : List Byte :=
  [0x01, 0x01] ++ toBytes 2 regions ++ toBytes 2 h ++
    toBytes 1 ((List.range 16).filter (bitOf regions)).length ++ toBytes 1 0 ++ toBytes 8 f ++ toBytes 8 t ++
    toBytes 8 flags ++ crcs.flatMap (toBytes 4)

/-- A Photometer channel stages the CRCs of a frame (R304). -/
def State.photometerFrame (s : State) (c : Nat) (crcs : List Nat) : State :=
  let x := s.chan c
  match x.desc with
  | some d =>
    if x.total ≤ x.fetched || decide (255 ≤ x.words.length) || s.chanState c = 4 then s
    else
      let dst := d.dst + x.fetched
      let bytes := crcs.flatMap (toBytes 4)
      let cut := 64 - dst % 64
      let put (s : State) (pos : Nat) (b : List Byte) : State := s.stageIn c pos (d.dst + pos) ((s.chan c).freeWord.getD 0) b
      let s := put (s.setChan c { x with fetched := x.fetched + 64 }) x.fetched (bytes.take cut)
      let s := if cut < 64 then put s (x.fetched + cut) (bytes.drop cut) else s
      s.setChanState c 1
  | none => s

/-- Every line of a frame has been composed and its record has not been made. -/
def State.frameWhole (s : State) (h : Nat) : Bool :=
  let run := s.frameRun h
  let m := s.headView h
  s.headRunning h && !run.recorded && decide (activeH m h * partsOf m h ≤ run.rows.length)

/-- Another frame that the journal records completed before that of head h, or with it on a head of lower number: its record comes
first (R282). -/
def State.recordBefore (s : State) (h : Nat) : Bool :=
  let t := (s.frameRun h).doneAt
  (List.range 128).any fun x =>
    let y := s.frameRun x
    y.journal && s.frameWhole x && (decide (y.doneAt < t) || (decide (y.doneAt = t) && decide (x < h)))

/-- The last active line of a frame has been composed (R280 to R283): CRCs, comparison, the frame's record; `spoiled` marks
the regions whose CRC a poisoned word of the journal plate spoiled (R284). -/
def State.frameRecord (s : State) (h : Nat) (spoiled : Nat) : State :=
  let m := s.headView h
  let run := s.frameRun h
  let f := run.number
  if !s.frameWhole h || (run.journal && s.recordBefore h) then s
  else
    let on (r : Nat) : Bool := decide (sgf m h r Sg.SIG_EN = 1)
    let lines := (List.range (activeH m h)).map fun y => s.sentCodes h y
    let beneath := (List.range (activeH m h)).map fun y => s.beneathCodes h y
    let crc (r : Nat) : Nat := if on r then regionCrc m h r (fun y => lines.getD y []) else 0
    let under (r : Nat) : Nat := if bitOf run.warn r then regionCrc m h r (fun y => beneath.getD y []) else crc r
    let bad (r : Nat) : Bool := on r && decide (sgf m h r Sg.CMP_EN = 1) && decide (under r ≠ expectedCrc m h r f)
    let regions := regionMask on
    let mask := regionMask bad
    let s := s.setFrameRun h { run with recorded := true }
    let s := (List.range 16).foldl (fun (s : State) (r : Nat) =>
      let s := if on r then (s.wr (sgOff h r Sg.LAST_CRC) (crc r)).wr (sgOff h r Sg.LAST_FRAME) (f % 2 ^ 32) else s
      if bad r then s.fsat (sgOff h r Sg.MISMATCH_COUNT) ⟨0, 16⟩ else s) s
    let s := { s with mismatch := tabPut h mask s.mismatch }
    let s := if mask = 0 then s else s.raise (srcHead h) 4 mask (islandHead h)
    let crcs := (List.range 16).map fun r => if bitOf spoiled r then 0 else crc r
    let s := ((List.range 64).filter fun c => decide (s.chanSrc c = 4) && decide (s.fget (Reg.DMA_CTL c) Bit.DMA_CTL_HEAD = h)).foldl
      (fun (s : State) (c : Nat) => s.photometerFrame c crcs) s
    if !run.journal || !s.jrnOn then s
    else
      let t := run.doneAt
      if s.jrn.sealing ≠ 0 || run.opened < s.jrn.resumeAt then
        ({ s with jrn := s.jrn.drop t }.fset Reg.JRN_STATUS Bit.JRN_STATUS_GAP 1).draw.jrnShow
      else
        let flags := run.flags + 2 ^ 16 * (spoiled % 2 ^ 16) + 2 ^ 32 * mask + 2 ^ 48 * run.warn
        let before := s.jrn.dropped
        let s := { s with jrn := s.jrn.add (recordBody h f run.opened regions flags crcs) t }.draw
        let s := if before < s.jrn.dropped then s.fset Reg.JRN_STATUS Bit.JRN_STATUS_GAP 1 else s
        s.signNext.jrnShow

/-- A head's last active line is composed. -/
def execFrameRecordComplete (h : HeadId) (spoiled : BitVec 16) (s : State) : Result := .next (s.frameRecord h spoiled.toNat)

/-! Control (R287) and the host ring (R288, R289). -/

/-- A write of `JRN_CTL`. -/
def State.jrnCtlWrite (s : State) (v : Nat) : State :=
  let off := Reg.JRN_CTL
  let was := s.jrnOn
  let s := if was then s else
    (s.fset off Bit.JRN_CTL_CHAN (getBits v 1 6)).fset off Bit.JRN_CTL_RING_SIZE (min 12 (getBits v 7 4))
  let s := (s.fset off Bit.JRN_CTL_WB_EN (getBits v 11 1)).fset off Bit.JRN_CTL_SEAL_EN (getBits v 12 1)
  let s := s.fset off Bit.JRN_CTL_EN (getBits v 0 1)
  let s :=
    if bitOf v 0 && !was then
      let n := s.epochNo + 1
      let s := { s with epochNo := n, jrn := { Journal.reset with
        due := [3], buffer := s.jrn.buffer, halted := s.jrn.halted, warned := s.jrn.warned
        sealing := if s.jrn.warned then 3 else 0 } }
      s.wr Reg.JRN_EPOCH n
    else s
  let s := if bitOf v 13 && bitOf v 0 then { s with jrn := { s.jrn with due := s.jrn.due ++ [2] } } else s
  s.signNext.jrnShow

/-- A PF write of `JRN_CTL` that sets `EN`. -/
def execJrnEnable (v : Word) (s : State) : Result :=
  .next (s.access Reg.JRN_CTL fun s => s.jrnCtlWrite (setBits v.toNat 0 1 1))

/-- A PF write of `CP_NOW` with the stored fields. -/
def execCpNow (s : State) : Result :=
  .next (s.access Reg.JRN_CTL fun s => s.jrnCtlWrite (setBits (s.rd Reg.JRN_CTL) 13 1 1))

/-- A write of `JRN_RD` (R288, R289): slots are consumed; after a ring error the engine and its channel go on. -/
def State.jrnRdWrite (s : State) (v : Nat) : State :=
  let c := s.fget Reg.JRN_CTL Bit.JRN_CTL_CHAN
  let s := { s.wr Reg.JRN_RD v with jrn := { s.jrn with halted := false } }
  let s := if s.chanSrc c = 3 && s.chanState c = 4 then s.setChanState c 2 else s
  s.jrnShow

/-- A PF write of `JRN_RD`. -/
def execJrnRdWrite (v : Word) (s : State) : Result := .next (s.access Reg.JRN_RD fun s => s.jrnRdWrite v.toNat)

/-- One slot of the ring is written by the journal's channel: none, or the code of the bus error. -/
def State.ringSlot (s : State) (c addr : Nat) (bytes : List Byte) : State × Option Nat :=
  let f := s.chanFn c
  match s.translate f addr .write with
  | .localMem phys => (s.store phys bytes, none)
  | .hostWin fn a => if s.linkUp then (s.send (.write fn a bytes), none) else (s, some 8)
  | .refused p => (s.refusal p f true 5, some 1)

/-- A bus error on the ring (R289, R309). -/
def State.ringError (s : State) (c code addr : Nat) : State :=
  let s := (s.haltChan c code addr true).fset Reg.JRN_STATUS Bit.JRN_STATUS_RING_ERR 1
  { s with jrn := { s.jrn with halted := true } }.jrnShow

/-- An entry stands in the ring: `JRN_WR` advances, is written back by choice, and the journal event follows. -/
def State.ringAdvance (s : State) (c n : Nat) (announce : Bool) : State :=
  let s := s.wr Reg.JRN_WR (s.rd Reg.JRN_WR + n)
  let a := s.rd Reg.JRN_WB_ADDR_LO / 8 * 8 + 2 ^ 32 * (s.rd Reg.JRN_WB_ADDR_HI % 32)
  let s := if s.fbit Reg.JRN_CTL Bit.JRN_CTL_WB_EN then s.deviceWrite (s.chanFn c) a (toBytes 8 (s.rd Reg.JRN_WR)) 5 else s
  if announce then s.raise 5536 0 0 5 else s

/-- The journal's channel writes the oldest entry to the ring, or the pad entry before a checkpoint at the ring's end; `ok`
says how its writes are acknowledged. Nothing is written while the link is down or after a bus error (R288, R289). -/
def State.journalEntry (s : State) (ok : Bool) : State :=
  let c := s.fget Reg.JRN_CTL Bit.JRN_CTL_CHAN
  match s.jrn.buffer with
  | [] => s
  | e :: rest =>
    if s.chanSrc c ≠ 3 || s.chanState c ≠ 2 || s.jrn.halted || !s.linkUp then s
    else
      let total := s.ringCount
      let at_ := s.rd Reg.JRN_WR % total
      let pad := decide (slotsOf e = 2) && decide (at_ + 1 = total)
      let n := if pad then 1 else slotsOf e
      let base := (s.rd Reg.JRN_RING_BASE_LO + 2 ^ 32 * (s.rd Reg.JRN_RING_BASE_HI % 32)) / (128 * total) * (128 * total)
      let addr := base + 128 * at_
      let local_ : Bool := match s.translate (s.chanFn c) addr .write with | .localMem _ => true | _ => false
      if local_ && !s.memOn then s.touchMem
      else if total < s.ringUsed + n then (s.fset Reg.JRN_STATUS Bit.JRN_STATUS_RING_FULL 1).jrnShow
      else if !s.stagingOwned then s.ringError c 7 addr
      else if !ok then s.ringError c 5 addr
      else
        let bytes := if pad then 0x04 :: List.replicate 127 0 else e
        match s.ringSlot c addr (bytes.take 128) with
        | (s, some code) => s.ringError c code addr
        | (s, none) =>
          let second := if n = 2 then s.ringSlot c (addr + 128) (bytes.drop 128) else (s, none)
          match second with
          | (s, some code) => s.ringError c code (addr + 128)
          | (s, none) =>
            let s := if pad then s else { s with jrn := { s.jrn with buffer := rest } }
            (s.ringAdvance c n (!pad)).jrnShow

/-- The journal's channel writes an entry. -/
def execJournalEntry (ok : Bool) (s : State) : Result := .next (s.journalEntry ok)

end Sys2Proof.Machine
end

