-- ==== Sys2Proof/Machine/Plates.lean ====
section
/-! DEFINITION. The Plate Store: accesses and their collisions (R114 to R118), handover (R120 to R123), Blink (R126 to R129),
repair (R130 to R133) and substitution (R134, R135). -/

namespace Sys2Proof.Machine

/-! Accesses (R114, R117, R118, R132). -/

/-- Accesses of one quadrant cycle to a word of a plate. -/
def execPlateAccess (p : PlateId) (w : Fin 131072) (uses : List PlateUse) (ecc : Ecc) (s : State) : Result :=
  .next (s.plateAccess p w uses ecc)

/-- A write of 1 to `VALID` of an entry of the log clears the whole entry (R132). -/
def execPstCeRowClear (p : PlateId) (k : Fin 4) (s : State) : Result :=
  .next (s.access (Reg.PST_CE_ROW p k) fun s => s.wr (Reg.PST_CE_ROW p k) 0)

/-! Engines. -/

/-- The engine of quadrant q runs a test or a copy. -/
def State.engineBusy (s : State) (q : Nat) : Bool :=
  (tabGet s.blinks q).isSome ||
    (match s.subst with | some (_, site) => decide (islandQuadrant site - 6 = q) | none => false)
/-- The quadrant whose site serves a plate. -/
def State.quadrantOf (s : State) (p : Nat) : Nat := islandQuadrant (s.fget (Reg.PST_OWN p) Bit.PST_OWN_SITE) - 6
/-- The site that a test works on. -/
def State.testSite (s : State) (p : Nat) : Nat := if 32 ≤ p then p else s.fget (Reg.PST_OWN p) Bit.PST_OWN_SITE
/-- A test of plate p runs, destructive where asked. -/
def State.tested (s : State) (p : Nat) (destructive : Bool) : Bool :=
  s.blinks.any fun e => e.2.plate = p && (!destructive || !e.2.preserve)
/-- The tests of plate p end after the stripe in hand, abandoned (R122, R134). -/
def State.abandonTests (s : State) (pick : Nat → BlinkRun → Bool) : State :=
  { s with blinks := s.blinks.map fun (e : Nat × BlinkRun) =>
      if pick e.1 e.2 then (e.1, { e.2 with ending := 2 }) else e }

/-! Handover (R120 to R123). -/

/-- The present owner holds live contents in the plate (R121), or an earlier admission that has no verdict may place an item
in it. -/
def State.plateLive (s : State) (p : Nat) : Bool :=
  let own := s.plateOwner p
  if own = 0 then false
  else if own ≤ 4 then
    (s.busyItems ++ s.retained.flatMap (·.2.items)).any (fun i => i.plate = p) ||
      s.commits.any fun c => c.arrived && c.verdict.isNone &&
        (let groups := groupsOf c.mask
         let m := newView c.snap s.newest groups
         !s.fbit (Reg.PST_OWN p) Bit.PST_OWN_FAILED && (groupHeads m groups).any fun h => hdf m h Hd.HEAD_EN = 1 &&
           decide (s.headFn h = s.fget (Reg.PST_OWN p) Bit.PST_OWN_FN) &&
           (pipesOf m h).any fun q => decide (q / 9 + 1 = own))
  else if own = 5 then
    decide (s.fget Reg.DMA_GLOBAL Bit.DMA_GLOBAL_PLATE = p) && (List.range 64).any fun c => decide (s.chanState c ≠ 0)
  else if own = 6 then
    decide (p = 29) && s.streams.any fun e => s.fbit (Reg.ING_CFG e.1) Bit.ING_CFG_EN && decide (e.2.lines ≠ [])
  else if own = 8 then s.tested p true || (match s.subst with | some (q, _) => decide (q = p) | none => false)
  else true

/-- A handover request is examined (R120). -/
def State.ownReq (s : State) (p v : Nat) : State :=
  let new := v % 16
  let off := Reg.PST_OWN_STATUS p
  let code :=
    if 10 ≤ new || new = 7 || new = 9 then 1
    else if s.fbit (Reg.PST_OWN p) Bit.PST_OWN_FIXED then 2
    else if s.plateTransit p then 4
    else if s.inSubst p then 8
    else if s.plateLive p then 3
    else 0
  if code ≠ 0 then
    ((s.fset off Bit.PST_OWN_STATUS_REFUSE_CODE code).fset off Bit.PST_OWN_STATUS_REFUSED 1).raise (srcPlate p) 3 0
      (islandQuadrant p)
  else
    let s := s.fset (Reg.PST_OWN p) Bit.PST_OWN_TRANSIT 1
    let s := { s with handovers := s.handovers ++ [(p, new, getBits v 4 5, bitOf v 9)] }
    s.abandonTests fun _ b => decide (b.plate = p)

/-- A write of `PST_OWN_REQ`. -/
def execPstOwnReq (p : PlateId) (v : Word) (s : State) : Result :=
  .next (s.access (Reg.PST_OWN_REQ p) fun s => s.ownReq p v.toNat)

/-- Bytes of a plate or a part of it set to one word after another; poison goes (R114, R122, R127). -/
def State.plateFill (s : State) (p first words : Nat) (f : Nat → Byte) : State :=
  let lo := plateWord p first
  let hi := plateWord p (first + words)
  { s with
    plateMem := (List.range words).foldl (fun m w => memWrite m (plateWord p (first + w)) (List.replicate 64 (f (first + w))))
      s.plateMem
    platePoison := s.platePoison.filter fun a => !(decide (lo ≤ a) && decide (a < hi)) }

/-- Earlier accesses, a stripe in hand and any scrub have ended: the new owner takes the plate (R122). -/
def State.handoverDone (s : State) (p : Nat) : State :=
  match s.handovers.find? fun x => decide (x.1 = p) with
  | none => s
  | some (_, new, f, scrub) =>
    if s.tested p false then s
    else
      let s := if scrub then s.plateFill p 0 131072 fun _ => 0 else s
      let s := { s with handovers := s.handovers.filter fun x => decide (x.1 ≠ p) }
      let off := Reg.PST_OWN p
      let s := (s.fset off Bit.PST_OWN_OWNER new).fset off Bit.PST_OWN_FN f
      let s := (s.fset off Bit.PST_OWN_TRANSIT 0).fset (Reg.PST_OWN_STATUS p) Bit.PST_OWN_STATUS_DONE 1
      s.raise (srcPlate p) 3 0 (islandQuadrant p)

/-- A handover completes. -/
def execHandoverComplete (p : PlateId) (s : State) : Result := .next (s.handoverDone p)

/-! Substitution (R134, R135). -/

/-- `SPARES_FREE` and `SYS_SPARE_STATUS.PLATES_FREE` count the unused spare sites. -/
def State.countPlates (s : State) : State :=
  let n := ([32, 33].filter fun k => s.fget (Reg.PST_SITE k) Bit.PST_SITE_STATE = 1).length
  (s.fset Reg.PST_SUBST_STATUS Bit.PST_SUBST_STATUS_SPARES_FREE n).fset Reg.SYS_SPARE_STATUS
    Bit.SYS_SPARE_STATUS_PLATES_FREE n

/-- The lowest-numbered unused spare site. -/
def State.freeSite (s : State) : Option Nat := [32, 33].find? fun k => s.fget (Reg.PST_SITE k) Bit.PST_SITE_STATE = 1

/-- `STATE` of an engine. -/
def State.setBlink (s : State) (q v : Nat) : State := s.fset (Reg.PST_BLINK_STATUS q) Bit.PST_BLINK_STATUS_STATE v

/-- Substitution of plate p to site k begins: the engine of the spare's quadrant stops its test, then copies. A preserving test of the
plate on another engine runs on (DESIGN CHOICE, log entry 136). -/
def State.beginSubst (s : State) (p k : Nat) : State :=
  let q := islandQuadrant k - 6
  let s := { s with subst := some (p, k) }.abandonTests fun q' _ => decide (q' = q)
  let s := s.fset (Reg.PST_OWN p) Bit.PST_OWN_SUBST 1
  let s := (s.fset (Reg.PST_SITE k) Bit.PST_SITE_STATE 2).fset (Reg.PST_SITE k) Bit.PST_SITE_PLATE p
  let s := (s.fset Reg.PST_SUBST_STATUS Bit.PST_SUBST_STATUS_PLATE p).fset Reg.PST_SUBST_STATUS Bit.PST_SUBST_STATUS_BUSY 1
  let s := if (tabGet s.blinks q).isSome then s else s.setBlink q 7
  s.countPlates

/-- Plate p needs substitution (R133, R135): to a free spare site, or it becomes failed. One that is being moved, that waits, or that has
failed needs nothing more. -/
def State.needSubst (s : State) (p : Nat) : State :=
  if s.inSubst p || s.substWait.contains p || s.fbit (Reg.PST_OWN p) Bit.PST_OWN_FAILED then s
  else if s.subst.isSome then { s with substWait := s.substWait ++ [p] }
  else
    match s.freeSite with
    | some k => s.beginSubst p k
    | none => (s.fset (Reg.PST_OWN p) Bit.PST_OWN_FAILED 1).raise (srcPlate p) 4 0 (islandQuadrant p)

/-- A write of `PST_SUBST_REQ` (R134). -/
def State.substReq (s : State) (p : Nat) : State :=
  let off := Reg.PST_SUBST_STATUS
  let refuse (s : State) (c : Nat) : State :=
    (s.fset off Bit.PST_SUBST_STATUS_REFUSE_CODE c).fset off Bit.PST_SUBST_STATUS_REFUSED 1
  if s.subst.isSome then refuse s 8
  else
    match s.freeSite with
    | some k => if s.fbit (Reg.PST_OWN p) Bit.PST_OWN_FAILED then refuse s 9 else s.beginSubst p k
    | none => refuse s 9

/-- A write of `PST_SUBST_REQ`. -/
def execPstSubstReq (p : PlateId) (s : State) : Result :=
  .next (s.access Reg.PST_SUBST_REQ fun s => s.substReq p)

/-- A test ends in a state, with the Blink-done event; a substitution that waits for the engine begins to copy. -/
def State.endTest (s : State) (q st : Nat) : State :=
  let s := { s with blinks := tabDel q s.blinks }
  let copying := match s.subst with | some (_, k) => decide (islandQuadrant k - 6 = q) | none => false
  let s := (s.setBlink q st).raise 5533 0 q (6 + q)
  if copying then s.setBlink q 7 else s

/-- Tests of plate p that ended in a fault without repair and waited for its substitution report it (R133). -/
def State.endWaiting (s : State) (p : Nat) : State :=
  (s.blinks.filter fun e => decide (e.2.plate = p) && decide (e.2.phase = 3)).foldl (fun s e => s.endTest e.1 4) s

/-- The 8 MiB are copied: `SITE` changes in one cycle, the old site becomes failed, the event is raised (R134). -/
def State.substDone (s : State) : State :=
  match s.subst with
  | none => s
  | some (p, k) =>
    let q := islandQuadrant k - 6
    if (tabGet s.blinks q).isSome then s
    else
      let old := s.fget (Reg.PST_OWN p) Bit.PST_OWN_SITE
      let s := { s with subst := none, flashLog := s.flashLog ++ [(2, p + 64 * k)] }
      let s := (s.fset (Reg.PST_OWN p) Bit.PST_OWN_SITE k).fset (Reg.PST_OWN p) Bit.PST_OWN_SUBST 0
      let s := (s.fset (Reg.PST_SITE old) Bit.PST_SITE_STATE 3).fset (Reg.PST_SITE k) Bit.PST_SITE_STATE 0
      let s := (s.fset Reg.PST_SUBST_STATUS Bit.PST_SUBST_STATUS_BUSY 0).fset Reg.PST_SUBST_STATUS
        Bit.PST_SUBST_STATUS_DONE 1
      let s := ((s.setBlink q 0).countPlates).raise 5534 0 p (islandQuadrant k)
      -- the first waiting plate begins; without a spare each becomes failed in turn (R135)
      s.substWait.foldl (fun s w => if s.subst.isSome then s.needSubst w else (s.needSubst w).endWaiting w)
        { s with substWait := [] }

/-- A substitution's copy ends. -/
def execSubstCopyDone (s : State) : Result := .next s.substDone

/-! Blink (R126 to R129, R131, R133). -/

/-- A byte of the final data of an algorithm in word w of a plate: zeros, or the checkerboard's complement (R126). -/
def finalByte (alg w : Nat) : Byte :=
  if alg = 2 then (if (w / 512 % 256 + w / 16 % 32 + w % 16) % 2 = 0 then 0xAA else 0x55) else 0

/-- A write of `PST_BLINK_CTL` (R127, R129). Where several refusals hold the first of codes 9, 7, 5, 8, 6 is given, and a `SPARE` test
that is not allowed is a `BAD_REQUEST` (DESIGN CHOICE, log entry 137). -/
def State.blinkCtlWrite (s : State) (q v : Nat) : State :=
  let off := Reg.PST_BLINK_CTL q
  let st := Reg.PST_BLINK_STATUS q
  let s := s.wr off (getBits v 2 24 * 4)
  let s := if bitOf v 1 then
      { s with blinks := s.blinks.map fun (e : Nat × BlinkRun) =>
          if e.1 = q && e.2.ending = 0 then (e.1, { e.2 with ending := 1 }) else e }
    else s
  if !bitOf v 0 then s
  else
    let spare := bitOf v 11
    let p := if spare then 32 + q / 2 else getBits v 6 5
    let first := getBits v 12 7
    let last := getBits v 19 7
    let bad := getBits v 2 2 = 3 || last < first ||
      (if spare then q % 2 = 1 || decide (s.fget (Reg.PST_SITE p) Bit.PST_SITE_STATE ≠ 1) else decide (s.quadrantOf p ≠ q))
    let code :=
      if bad then 9
      else if s.engineBusy q then 7
      else if !spare && s.plateTransit p then 5
      else if !spare && s.inSubst p then 8
      else if !spare && !bitOf v 4 && decide (s.plateOwner p ≠ 8) then 6
      else 0
    if code ≠ 0 then (s.fset st Bit.PST_BLINK_STATUS_REFUSE_CODE code).fset st Bit.PST_BLINK_STATUS_REFUSED 1
    else
      let pres := bitOf v 4
      let run : BlinkRun := ⟨p, getBits v 2 2, pres, bitOf v 5, first, last, if pres then 0 else 1, false, 0, false⟩
      let s := { s with blinks := tabPut q run s.blinks }
      let s := (s.fset st Bit.PST_BLINK_STATUS_FAULTS 0).fset st Bit.PST_BLINK_STATUS_ROWS_FIXED 0
      (s.fset st Bit.PST_BLINK_STATUS_STRIPE first).setBlink q 1

/-- A write of `PST_BLINK_CTL` with `GO`. -/
def execBlinkGo (q : QuadrantId) (v : Word) (s : State) : Result :=
  .next (s.access (Reg.PST_BLINK_CTL q) fun s => s.blinkCtlWrite q (setBits v.toNat 0 1 1))

/-- A write of `STOP` with the stored fields. -/
def execBlinkStop (q : QuadrantId) (s : State) : Result :=
  .next (s.access (Reg.PST_BLINK_CTL q) fun s => s.blinkCtlWrite q (s.rd (Reg.PST_BLINK_CTL q) + 2))

/-- A stripe has been copied to the shadow store; under a throttle no new stripe begins (R128, R357). -/
def execBlinkCopyInDone (q : QuadrantId) (s : State) : Result :=
  .next (
    match tabGet s.blinks q with
    | some b =>
      if !b.preserve || b.phase ≠ 0 || (b.paused && s.throttled) then s
      else { s with blinks := tabPut q { b with phase := 1, paused := false } s.blinks }
    | none => s)

/-- The stripe in hand is finished: the next begins, or the test ends. -/
def State.stripeDone (s : State) (q : Nat) (b : BlinkRun) : State :=
  let faults := s.fget (Reg.PST_BLINK_STATUS q) Bit.PST_BLINK_STATUS_FAULTS
  if b.ending = 1 then s.endTest q 5
  else if b.ending = 2 then s.endTest q 6
  else if b.stripe = b.last then s.endTest q (if faults = 0 then 2 else if b.unrepaired then 4 else 3)
  else
    let s := s.fset (Reg.PST_BLINK_STATUS q) Bit.PST_BLINK_STATUS_STRIPE (b.stripe + 1)
    { s with blinks := tabPut q { b with
        stripe := b.stripe + 1, phase := if b.preserve then 0 else 1, paused := s.throttled && b.preserve } s.blinks }

/-- Spare rows that bank k of a site uses. -/
def rowsOff (site k : Nat) : Nat := if k < 8 then Reg.PST_REPAIR_ROW_LO site else Reg.PST_REPAIR_ROW_HI site

/-- A row gets its bank's next unused spare row; none when all four are used (R131, R133). -/
def State.fuseRow (s : State) (site bank row : Nat) : Option State :=
  let f : Fld := ⟨4 * (bank % 8), 4⟩
  let used := s.fget (rowsOff site bank) f
  if 4 ≤ used then none
  else some { s.fset (rowsOff site bank) f (used + 1) with flashLog := s.flashLog ++ [(1, site + 64 * bank + 1024 * row)] }

/-- As `fuseRow`, counted in the status of the engine of quadrant q. -/
def State.repairRow (s : State) (q site bank row : Nat) : Option State :=
  (s.fuseRow site bank row).map fun (s : State) => s.fsat (Reg.PST_BLINK_STATUS q) Bit.PST_BLINK_STATUS_ROWS_FIXED

/-- Every row at fault is repaired; the second component says whether all were. -/
def State.repairRows (s : State) (q site : Nat) : List (Nat × Nat) → State × Bool
  | [] => (s, true)
  | (bank, row) :: rest =>
    match s.repairRow q site bank row with
    | some s => s.repairRows q site rest
    | none => (s, false)

/-- The march of one stripe ends (R126, R128, R131, R133): `faults` words at fault in the rows given as bank and row; `column` is the
bank and column that the faulty words of both rows share. A destructive test with faults ends `UNREPAIRED` (R131 repairs preserving
stripes only), and so does an unrepairable fault of a spare site, which stays an unused spare (DESIGN CHOICE, log entry 138). -/
def State.marchDone (s : State) (q faults : Nat) (rows : List (Fin 16 × Fin 256)) (column : Option (Fin 16 × Fin 32)) : State :=
  match tabGet s.blinks q with
  | none => s
  | some b =>
    if b.phase ≠ 1 then s
    else
      let st := Reg.PST_BLINK_STATUS q
      let s := s.fset st Bit.PST_BLINK_STATUS_FAULTS (min 255 (s.fget st Bit.PST_BLINK_STATUS_FAULTS + faults))
      if !b.preserve then
        let s := s.plateFill b.plate (b.stripe * 1024) 1024 (finalByte b.alg)
        s.stripeDone q { b with unrepaired := b.unrepaired || decide (0 < faults) }
      else
        let done (s : State) (b : BlinkRun) : State := { s with blinks := tabPut q { b with phase := 2 } s.blinks }
        if faults = 0 then done s b
        else if !b.repair then done s { b with unrepaired := true }
        else
          let (s, all) := if column.isSome then (s, false)
            else s.repairRows q (s.testSite b.plate) (rows.map fun r => (r.1.val, r.2.val))
          if all then done s b
          else
            let s := match column with
              | some (bank, col) => { s with flashLog := s.flashLog ++ [(7, s.testSite b.plate + 64 * bank.val + 1024 * col.val)] }
              | none => s
            let s' := if 32 ≤ b.plate then s else s.needSubst b.plate
            -- reported once the substitution has begun (R133); the copying engine itself must be free
            let wait := match s.subst with
              | some (_, k) => decide (b.plate < 32) && decide (islandQuadrant k - 6 ≠ q)
              | none => false
            if wait then { s' with blinks := tabPut q { b with phase := 3 } s'.blinks } else s'.endTest q 4

/-- The march of one stripe ends. -/
def execBlinkMarchDone (q : QuadrantId) (faults : Nat) (rows : List (Fin 16 × Fin 256)) (column : Option (Fin 16 × Fin 32))
    (s : State) : Result :=
  .next (s.marchDone q faults rows column)

/-- A stripe is written back from the shadow (R128). -/
def execBlinkCopyBackDone (q : QuadrantId) (s : State) : Result :=
  .next (
    match tabGet s.blinks q with
    | some b => if b.phase = 2 then s.stripeDone q b else s
    | none => s)

end Sys2Proof.Machine
end

