-- ==== Sys2Proof/Machine/Power.lean ====
section
/-! DEFINITION. Power states (R348 to R351), LTR (R324), the thermal actions (R355 to R359), lifetime (R360) and the spare
pipes (R362 to R364). -/

namespace Sys2Proof.Machine

/-! Power states. -/

/-- Exit latency of a power state, µs (R348). -/
def exitLatency (n : Nat) : Nat := [0, 2, 15, 150, 5000, 100000].getD n 0

/-- VF k is enabled (R318). -/
def State.vfOn (s : State) (k : Nat) : Bool := (s.fn 0).vfEnable && decide (1 ≤ k) && decide (k ≤ (s.fn 0).numVfs)

/-- The smallest tolerance over the PF and every enabled VF, µs (R349). -/
def State.tolerance (s : State) : Nat :=
  ((List.range 31).map (· + 1)).foldl (fun (m : Nat) k => if s.vfOn k then min m (s.fget (Reg.PWR_LAT k) Bit.PWR_LAT_LAT) else m)
    (s.fget (Reg.PWR_LAT 0) Bit.PWR_LAT_LAT)

/-- A range of frame-store space lies in host-window pages as a whole. -/
def State.inHostWindow (addr len : Nat) : Bool := decide (65536 * 2 ^ 20 ≤ addr) && decide (0 < len)

/-- A DMA channel leaves GDDR6 alone (R348). -/
def State.chanQuiet (s : State) (c : Nat) : Bool :=
  let st := s.chanState c
  let src := s.chanSrc c
  let ring := (s.rd Reg.JRN_RING_BASE_LO + 2 ^ 32 * (s.rd Reg.JRN_RING_BASE_HI % 32)) / (128 * s.ringCount) * (128 * s.ringCount)
  st = 0 ||
  (st = 5 && ((List.range 128).all fun h => hdf s.active h Hd.WB_CHAN ≠ c || hdf s.active h Hd.WB_EN = 0)) ||
  (st = 2 && src = 3 && State.inHostWindow ring (128 * s.ringCount)) ||
  (st = 2 && src = 4 && (match (s.chan c).desc with | some d => State.inHostWindow d.dst d.length | none => false))

/-- No commit is pending. -/
def State.noCommit (s : State) : Bool := s.commits.isEmpty && s.admitted.isEmpty

/-- Entry conditions of PS2 (R348). A commit is pending from its admission on (R351). -/
def State.ps2Ok (s : State) : Bool :=
  ((List.range 128).all fun h => !s.headRunning h || (s.frameRun h).reading) && s.admitted.isEmpty &&
    (s.streams.all fun e => (s.openSlot e.1).isNone) && (List.range 64).all s.chanQuiet

/-- Entry conditions of PS3. A pending commit, for which Ephemeris needs power, keeps it out like a pending state. -/
def State.ps3Ok (s : State) : Bool :=
  ((List.range 128).all fun h => hdf s.active h Hd.HEAD_EN = 0 && !s.headRunning h) && s.noCommit &&
    (s.streams.all fun e => !s.fbit (Reg.ING_CFG e.1) Bit.ING_CFG_EN) && (List.range 64).all fun c => s.chanState c = 0

/-- Entry conditions of PS4. -/
def State.ps4Ok (s : State) : Bool :=
  s.ps3Ok && decide ((s.fn 0).dstate = 3 ∨ (s.fn 0).dstate = 4) && ((List.range 32).all fun n => s.seqState n ≤ 1) &&
    (List.range 128).all fun m => s.seqState (32 + m) = 0

/-- Entry conditions of a power state. -/
def State.entryOk (s : State) (n : Nat) : Bool :=
  match n with
  | 0 => true
  | 1 => true
  | 2 => s.ps2Ok
  | 3 => s.ps3Ok
  | 4 => s.ps4Ok
  | _ => s.ps4Ok && s.perst && decide ((s.fn 0).dstate = 4)

/-- The deepest state whose entry conditions hold: `PWR_STATUS.CEILING`. -/
def State.ceiling (s : State) : Nat := maxOf ((List.range 6).filter s.entryOk)

/-- The target state (R349). -/
def State.targetState (s : State) : Nat :=
  maxOf ((List.range 6).filter fun n =>
    s.entryOk n && decide (exitLatency n ≤ s.tolerance) && decide (n ≤ s.fget Reg.PWR_CTL Bit.PWR_CTL_MAX_STATE))

/-- The islands with power in a state (R348). -/
def islandInState (n i : Nat) : Bool :=
  if i = 0 then true
  else if 4 ≤ n then false
  else if n = 3 then !(decide (i = 4) || decide (10 ≤ i))
  else if n = 2 then !(decide (10 ≤ i) && decide (i < 26))
  else true

/-- `SYS_ISLAND_ON`n as a state leaves it. -/
def islandWord (n k : Nat) : Nat :=
  sumOf ((List.range (if k = 2 then 6 else 32)).map fun b => if islandInState n (32 * k + b) then 2 ^ b else 0)

/-- The state with its islands powered as in a power state. -/
def State.setIslands (s : State) (n : Nat) : State :=
  ((s.wr 0x200 (islandWord n 0)).wr 0x204 (islandWord n 1)).wr 0x208 (islandWord n 2)

/-- The contents of every plate but `PL30` are lost (R348). -/
def State.losePlates (s : State) : State :=
  { s with plateMem := s.plateMem.filter (fun (e : Host.Cell) => decide (e.1 / 2 ^ 23 = 30)),
           platePoison := s.platePoison.filter (fun a => decide (a / 2 ^ 23 = 30)), plateEpoch := s.plateEpoch + 1,
           march := { s.march with others := false } }

/-- Tests and a substitution of plates end as the device enters PS4 (R389): each test `ABANDONED` after its stripe in hand, the spare
site unused again, the plate at its site. -/
def State.abandonPlates (s : State) : State :=
  let s := match s.subst with
    | some (p, k) =>
      let s := { s with subst := none, substWait := [] }.fset (Reg.PST_OWN p) Bit.PST_OWN_SUBST 0
      let s := (s.fset (Reg.PST_SITE k) Bit.PST_SITE_STATE 1).fset Reg.PST_SUBST_STATUS Bit.PST_SUBST_STATUS_BUSY 0
      (s.setBlink (islandQuadrant k - 6) 0).countPlates
    | none => s
  s.blinks.foldl (fun s e => s.endTest e.1 6) s

/-- The device enters a deeper state. On entry to PS4 a journal in hand is sealed, tests of plates end, the plates lose their contents
and the Clock Drives stop (R290, R348, R389); that seal is the one of PS5 too. -/
def State.enterState (s : State) (n : Nat) : State :=
  let s := if 4 ≤ n && decide (s.powerState < 4) then s.sealPs4.abandonPlates.losePlates.drivesSleep else s
  let s := (s.setIslands n).fset Reg.PWR_STATUS Bit.PWR_STATUS_STATE n
  { s with pwrTarget := none, reloaded := [] }.wakeTargets.ltrCheck

/-- An exit begins. -/
def State.beginExit (s : State) (n : Nat) : State := { s with waking := true, exitTo := n, pwrTarget := none }

/-- The power controller looks at its target again (R349). -/
def State.powerEval (s : State) : State :=
  let t := s.targetState
  let s :=
    if s.inReset || s.posting.isSome then s
    else if s.waking then (if t < s.exitTo then { s with exitTo := t } else s)
    else if t < s.powerState then s.beginExit t
    else if t = s.powerState then { s with pwrTarget := none }
    else match s.pwrTarget with
      | some (u, _) => if u = t then s else { s with pwrTarget := some (t, s.now) }
      | none => { s with pwrTarget := some (t, s.now) }
  s.ltrCheck

/-- The power controller evaluates its target. -/
def execPwrTargetEval (s : State) : Result := .next s.powerEval

/-- A deeper target has stood for 1 ms: the device enters it. A wake that comes with it wins (R347). -/
def execPwrDeeperTimer (s : State) : Result :=
  .next (
    match s.pwrTarget with
    | some (t, since) =>
      if s.waking || s.inReset || decide (s.now < since + 1000000) then s
      else if t = s.targetState then s.enterState t
      else s.powerEval
    | none => s)

/-- A write of `PWR_LAT` applies; one that makes the present state too slow starts the exit at once (R349). -/
def State.pwrLatWrite (s : State) (f v : Nat) : State := (s.wr (Reg.PWR_LAT f) (v % 2 ^ 24)).powerEval
/-- A write of `PWR_LAT` of function f by function w. -/
def execPwrLatWrite (w f : FnId) (v : Word) (s : State) : Result :=
  .next (if w = 0 || w = f then s.access (Reg.PWR_LAT f) fun s => s.pwrLatWrite f v.toNat else s)

/-- Held events of an island are released, stamped by its reloaded replica (R15). -/
def State.releaseHeld (s : State) (pick : Nat → Bool) : State :=
  let mine := s.heldOccs.filter fun (o : Occ) => pick o.island
  { s with heldOccs := s.heldOccs.filter (fun (o : Occ) => !pick o.island),
           occs := s.occs ++ mine.map fun (o : Occ) => { o with time := s.replica o.island }, fresh := s.fresh + 1 }

/-- The replica of a returning island is reloaded. -/
def execReplicaReloadDone (i : IslandId) (s : State) : Result :=
  .next (
    if !s.waking || s.islandOn i || decide (i.val ∈ s.reloaded) then s
    else { s with reloaded := i.val :: s.reloaded }.releaseHeld fun k => k = i)

/-! Spare pipes (R362 to R364). -/

/-- The spare of a pipe's cluster (R16). -/
def spareOf (p : Nat) : Nat := p / 9 * 9 + 8

/-- The spare is used, or has failed. -/
def State.spareUsed_ (s : State) (k : Nat) : Bool :=
  (s.pipeSubst.any fun e => e.2 = k) || (s.swaps.any fun (x : Swap) => x.spare = k) || decide (2 ≤ s.pipeRole k)

/-- A swap to the cluster's spare starts. A fault swap ends a test of the spare (R382). -/
def State.startSwap (s : State) (p : Nat) (fault : Bool) : State :=
  let k := spareOf p
  let off := Reg.SYS_PIPE_SWAP_STATUS
  let s := { s with swaps := s.swaps ++ [({ pipe := p, spare := k, fault := fault, at_ := s.now, loaded := false, moved := [] } : Swap)], pipeCe := tabDel p s.pipeCe }
  let s := (s.fset off Bit.SYS_PIPE_SWAP_STATUS_PIPE p).fset off Bit.SYS_PIPE_SWAP_STATUS_SPARE k
  let s := (s.fset off Bit.SYS_PIPE_SWAP_STATUS_BUSY 1).fset off Bit.SYS_PIPE_SWAP_STATUS_FAULT (b2n fault)
  let s := s.fset Reg.SYS_SPARE_STATUS Bit.SYS_SPARE_STATUS_PIPES_FREE (s.fget Reg.SYS_SPARE_STATUS Bit.SYS_SPARE_STATUS_PIPES_FREE - 1)
  if s.testing = some k then { s with testing := none }.fset Reg.SYS_SELFTEST Bit.SYS_SELFTEST_BUSY 0 else s

/-- In PS2 and deeper a swap waits for an exit to PS0 (R351). -/
def State.swapSoon (s : State) (p : Nat) (fault : Bool) : State :=
  if 2 ≤ s.powerState then
    { s with thermal := { s.thermal with swapWait := s.thermal.swapWait ++ [(p, fault)] } }.beginExit 0
  else s.startSwap p fault

/-- A predictive swap may start: the spare is unused, no test of it runs, p is neither spare nor failed. -/
def State.maySwap (s : State) (p : Nat) : Bool :=
  decide (p < 36) && decide (p % 9 ≠ 8) && decide (s.pipeRole p = 0) && !s.spareUsed_ (spareOf p) && s.testing ≠ some (spareOf p) &&
    !(s.thermal.swapWait.any fun e => spareOf e.1 = spareOf p)

/-- A pixel pair of head h fails its check on pipe p at line y, column x. A corrected failure counts toward a predictive
swap; an uncorrectable one is replaced and flagged, and starts a fault swap, or fails the pipe when its spare is used. -/
def State.pipeCheckFail (s : State) (p h y x : Nat) (uncorrectable : Bool) : State :=
  if !uncorrectable then
    let n := (tabGet s.pipeCe p).getD 0 + 1
    let limit := s.fget Reg.SYS_PIPE_CTL Bit.SYS_PIPE_CTL_CE_THRESHOLD
    let s := { s with pipeCe := tabPut p n s.pipeCe }
    if limit ≠ 0 && decide (limit ≤ n) && s.maySwap p then s.swapSoon p false else s
  else
    let run := s.frameRun h
    let s := if s.headRunning h && s.pipeServes s.active h p then
        s.setFrameRun h { run with patches := (y, x / 2 * 2) :: run.patches, flags := run.flags ||| 1 }
      else s
    if p % 9 = 8 then { s with pipeRoles := tabPut p 2 s.pipeRoles }
    else if s.swaps.any fun (z : Swap) => z.pipe = p then
      { s with swaps := s.swaps.map fun (z : Swap) => if z.pipe = p && !z.fault then { z with fault := true, at_ := s.now } else z }.fset
        Reg.SYS_PIPE_SWAP_STATUS Bit.SYS_PIPE_SWAP_STATUS_FAULT 1
    else if s.thermal.swapWait.any fun e => e.1 = p then s
    else if s.spareUsed_ (spareOf p) || s.thermal.swapWait.any (fun e => spareOf e.1 = spareOf p) then
      { s with pipeRoles := tabPut p 2 s.pipeRoles }
    else s.swapSoon p true
/-- A check fails in a pipe. -/
def execPipeCheckFail (p : PipeId) (h : HeadId) (y x : Fin 16384) (uncorrectable : Bool) (s : State) : Result :=
  .next (s.pipeCheckFail p h y x uncorrectable)

/-- Why a swap request is refused (R123, R362). -/
def State.swapRefusal (s : State) (p : Nat) : Option Nat :=
  let k := spareOf p
  if decide (36 ≤ p) || decide (p % 9 = 8) || decide (s.pipeRole p ≠ 0) then some 9
  else if s.swaps.any (fun (x : Swap) => x.spare = k) || s.thermal.swapWait.any (fun e => spareOf e.1 = k) || s.testing = some k then some 8
  else if s.spareUsed_ k then some 9
  else none

/-- A write of `SYS_PIPE_SWAP_REQ`. -/
def State.swapReq (s : State) (p : Nat) : State :=
  match s.swapRefusal p with
  | some code => (s.fset Reg.SYS_PIPE_SWAP_STATUS Bit.SYS_PIPE_SWAP_STATUS_REFUSED 1).fset Reg.SYS_PIPE_SWAP_STATUS
      Bit.SYS_PIPE_SWAP_STATUS_REFUSE_CODE code
  | none => s.swapSoon p false
/-- A swap is requested by the PF or a Station core. -/
def execPipeSwapReq (p : Fin 64) (s : State) : Result :=
  .next (s.access Reg.SYS_PIPE_SWAP_REQ fun s => s.swapReq p)

/-- The spare is powered and loaded. -/
def execPipeSpareLoaded (p : PipeId) (s : State) : Result :=
  .next { s with swaps := s.swaps.map fun (x : Swap) => if x.pipe = p.val then { x with loaded := true } else x }.swapsEnd

/-! Thermal limits. -/

/-- Heads already shed. -/
def State.isShed (s : State) (h : Nat) : Bool := s.shedSteps.any (·.contains h)

/-- One shed step: every running, unshed head with the smallest `SHED_RANK` (R358). -/
def State.shedStep (s : State) : State :=
  let heads := (List.range 128).filter fun h => s.headRunning h && !s.isShed h
  match heads with
  | [] => s
  | h0 :: _ =>
    let low := heads.foldl (fun (m : Nat) h => min m (hdf s.active h Hd.SHED_RANK)) (hdf s.active h0 Hd.SHED_RANK)
    { s with shedSteps := (heads.filter fun h => hdf s.active h Hd.SHED_RANK = low) :: s.shedSteps }

/-- A shed step falls due; in PS2 and deeper it waits for an exit to PS0 (R351). -/
def State.shedSoon (s : State) : State :=
  if 2 ≤ s.powerState then { s with thermal := { s.thermal with shedWait := s.thermal.shedWait + 1 } }.beginExit 0
  else s.shedStep

/-- Restores at once the most recent shed step, or every one (R359). -/
def State.restore (s : State) (all : Bool) : State := { s with shedSteps := if all then [] else s.shedSteps.drop 1 }

/-- A write of `THM_SHED`. -/
def State.shedWrite (s : State) (v : Nat) : State :=
  if bitOf v 1 then s.restore true else if bitOf v 0 then s.restore false else s
/-- A write of `THM_SHED.RESTORE`. -/
def execRestore (s : State) : Result := .next (s.access Reg.THM_SHED fun s => s.shedWrite 1)
/-- A write of `THM_SHED.RESTORE_ALL`. -/
def execRestoreAll (s : State) : Result := .next (s.access Reg.THM_SHED fun s => s.shedWrite 2)

/-- The islands of a power state are ready again: the device is in the state it was going to, and what waited for PS0 goes
on (R348, R351). An exit from PS4 needs its short POST first; PS5 is left through a full POST only. -/
def State.exitDone (s : State) : State :=
  let p := s.powerState
  if !s.waking || s.inReset || decide (p = 5) || (decide (p = 4) && !s.islandOn 2) then s
  else
    let n := min s.exitTo p
    let s := (s.setIslands n).fset Reg.PWR_STATUS Bit.PWR_STATUS_STATE n
    let s := { s with waking := false, exitTo := 0, reloaded := [] }.releaseHeld (islandInState n)
    let s := if p = 4 && decide (n < 4) then s.drivesWake else s
    let s := if n = 0 then
        let s : State := (List.range s.thermal.shedWait).foldl (fun (s : State) _ => s.shedStep) s
        let s : State := s.thermal.swapWait.foldl (fun (s : State) e => s.startSwap e.1 e.2) s
        let s : State := match s.thermal.driveWait with | some d => s.spareBegin d | none => s
        { s with thermal := { s.thermal with shedWait := 0, swapWait := [], driveWait := none } }
      else s
    let s := if s.memOn then s.replayHeld else s
    s.wakeTargets.ltrCheck
/-- An exit is complete. -/
def execPwrExitDone (s : State) : Result := .next s.exitDone

/-- Reading of sensor k in 1/8 °C. -/
def tempOf (v : BitVec 192) (k : Nat) : Int := signed 12 (getBits v.toNat (12 * k) 12)
/-- The hottest sensor, the first of equals. -/
def hottest (v : BitVec 192) : Nat :=
  (List.range 16).foldl (fun (b : Nat) k => if tempOf v b < tempOf v k then k else b) 0
/-- The junction temperature in 1/8 °C, as the last sample left it. -/
def State.junction (s : State) : Int := signed 12 (s.fget Reg.THM_STATUS Bit.THM_STATUS_TJ)

/-- When a condition began to hold without a break. -/
def since (holds : Bool) (t : Option Nat) (now : Nat) : Option Nat := if holds then some (t.getD now) else none

/-- A condition has held for a time. -/
def stood (t : Option Nat) (now len : Nat) : Bool := match t with | some a => decide (a + len ≤ now) | none => false

/-- The thermal alarm (R355). -/
def State.alarm (s : State) (old new : Int) (sensor : Nat) : State :=
  let a : Int := 8 * (s.fget Reg.THM_CTL Bit.THM_CTL_ALARM_C : Nat)
  let s := if old < a ∧ a ≤ new then
      (s.fset Reg.THM_STATUS Bit.THM_STATUS_ALARM 1).raise 5527 1 sensor 0 else s
  if a - 24 < old ∧ new ≤ a - 24 then s.raise 5527 2 sensor 0 else s

/-- The throttle, shed steps and restores that follow from a junction temperature (R356, R358, R359). -/
def State.thermalAct (s : State) (t : Int) : State :=
  let x := s.thermal
  let now := s.now
  let cool := since (decide (t < 736)) x.cool92 now
  let hot := if 760 ≤ t then true else x.hot && !stood cool now 10000000
  let hot105 := since (decide (840 ≤ t)) x.hot105 now
  let cool100 := since (decide (t < 800)) x.cool100 now
  let shed := stood hot105 now 100000000
  let back := !shed && s.fbit Reg.THM_CTL Bit.THM_CTL_AUTO_RESTORE && stood cool100 now 1000000000 && !s.shedSteps.isEmpty
  let s := { s with thermal := { x with
    hot := hot, cool92 := cool, hot105 := if shed then some now else hot105
    cool100 := if back then some now else cool100 } }
  if shed then s.shedSoon else if back then s.restore false else s

/-- `IMON_ALERT_N` asserts: the throttle holds (R356). -/
def execImonAlertAssert (s : State) : Result :=
  .next (
    if s.fbit Reg.THM_STATUS Bit.THM_STATUS_IMON || s.inReset then s
    else (s.fset Reg.THM_STATUS Bit.THM_STATUS_IMON 1).raise 5528 1 0 0)
/-- `IMON_ALERT_N` deasserts: its throttle ends 1 ms later. -/
def execImonAlertDeassert (s : State) : Result :=
  .next (
    if !s.fbit Reg.THM_STATUS Bit.THM_STATUS_IMON then s
    else
      let s := (s.fset Reg.THM_STATUS Bit.THM_STATUS_IMON 0).raise 5528 2 0 0
      { s with thermal := { s.thermal with imonEnd := s.now + 1000000 } })

/-- The largest x below 2^(n + 1) + `lo` with x^80 ≤ v, found bit by bit. -/
def root80 (v : Nat) : Nat → Nat → Nat
  | 0, lo => if (lo + 1) ^ 80 ≤ v then lo + 1 else lo
  | n + 1, lo => root80 v n (if (lo + 2 ^ (n + 1)) ^ 80 ≤ v then lo + 2 ^ (n + 1) else lo)

/-- 2^((T − 95) ÷ 10) times 2³² for T in 1/8 °C, rounded down (R360). -/
def ageing (t : Int) : Nat :=
  let e := t - 760 + 2560
  if e < 0 then 0 else root80 (2 ^ e.toNat) 64 0

/-- A second of ageing; every hour the Station firmware saves the total to board flash. -/
def State.lifeTick (s : State) : State :=
  let x := s.thermal
  let life := x.life + ageing s.junction
  let hours := min (life / (3600 * 2 ^ 32)) (2 ^ 32 - 1)
  let save := decide ((x.seconds + 1) % 3600 = 0)
  { s with thermal := { x with life := life, seconds := x.seconds + 1, saved := if save then hours else x.saved } }.wr
    Reg.THM_LIFE hours
/-- A second has passed. -/
def execLifeTick (s : State) : Result := .next (if s.inReset then s else s.lifeTick)

end Sys2Proof.Machine
end

