-- ==== Sys2Proof/Machine/Resets.lean ====
section
/-! DEFINITION. Resets (R24, R53, R365 to R368, R396), the loss and return of the link (R23, R331), and what the thermal trip
does (R356). -/

namespace Sys2Proof.Machine

/-! Reset domains (R396). -/

/-- The domain of the register at an offset. -/
def domainOf (off : Nat) : Domain := match regAt off with | some (d, _) => d.domain | none => .core

/-- The function of a function-domain register. -/
def State.regFn (s : State) (off : Nat) : Nat :=
  if 0x1000000 ≤ off then (off - 0x1000000) / 0x200000
  else if 0x870000 ≤ off && off < 0x878000 then (off - 0x870000) / 0x400
  else if 0x860000 ≤ off && off < 0x864000 then s.chanFn ((off - 0x860000) / 0x100)
  else if 0x8A0100 ≤ off && off < 0x8A0180 then (off - 0x8A0100) / 4
  else if 0x31000 ≤ off && off < 0x31400 then (off - 0x31000) / 0x20
  else if 0x30100 ≤ off && off < 0x30180 then (off - 0x30100) / 4
  else if 0x20000 ≤ off && off < 0x24000 then
    let i := (off - 0x20000) / 4
    if i < 2048 then 0 else (i - 2048) / 64 + 1
  else 0

/-- Every listed register that a rule picks returns to its reset value. -/
def State.clearRegs (s : State) (pick : Nat → Bool) : State :=
  { s with regs := s.regs.filter fun (e : Nat × Word) => !pick e.1 }

/-- A command processor returns to reset; what it has issued proceeds (R53). -/
def State.resetCp (s : State) (n : Nat) : State := s.stopSeq n

/-- A DMA channel returns to reset; its staging is discarded (R313). -/
def State.resetChan (s : State) (c : Nat) : State := (s.flushAcks c).wbEnd c |>.setChan c Chan.reset

/-- The function domain of function f returns to reset (R53, R396). -/
def State.resetFnDomain (s : State) (f : Nat) : State :=
  let chans := (List.range 64).filter fun c => s.chanFn c = f
  let s : State := (s.resetCp f)
  let s : State := chans.foldl (fun (s : State) (c : Nat) => s.resetChan c) s
  let vectors : Nat → Bool := fun v => if f = 0 then decide (v < 2048) else decide (2048 + 64 * (f - 1) ≤ v ∧ v < 2048 + 64 * f)
  ({ s with modEnd := s.modEnd.filter (fun (e : Nat × Nat) => !vectors e.1), ringLost := s.ringLost.erase f }).clearRegs
    fun off => domainOf off = Domain.function && s.regFn off = f

/-! Configuration space (R315, R331). -/

/-- The configuration space of function f returns to reset; the errors logged in its AER capability are kept. -/
def State.resetConfig (s : State) (f : Nat) : State := s.setFn f { PciFn.reset f with aer := (s.fn f).aer }

/-- The functions. -/
def allFns : List Nat := List.range 32

/-- The MSI-X tables and PBAs. -/
def isMsix (off : Nat) : Bool :=
  (decide (0x50000 ≤ off) && decide (off < 0x60000)) ||
    (decide (0x1000000 ≤ off) && decide (0x50000 ≤ (off - 0x1000000) % 0x200000) && decide ((off - 0x1000000) % 0x200000 < 0x60000))

/-- Every function's configuration space, the IDE streams, and with them the Resizable BAR sizes return to reset. -/
def State.resetAllConfig (s : State) : State :=
  { allFns.foldl (fun (s : State) (f : Nat) => s.resetConfig f) s with ide := [], ltrSent := 0 }

/-- The link is down (R23): no host-window read is issued from now on, host-window layers leave their heads from the next
boundary until a new commit, a frame sequencer whose host read is outstanding waits for its timeout (R72), PTM has no valid context
(R275), the journal waits, link loss is raised. -/
def State.linkGone (s : State) : State :=
  let s := { s.fset Reg.PCI_LINK_STATUS Bit.PCI_LINK_STATUS_LINK_UP 0 with hostGone := List.range 128 }
  let s := s.fset Reg.SID_CTL Bit.SID_CTL_PTM_VALID 0
  let hostly (x : Seq) : Bool := match x.waiting with
    | .fetch _ (.hostWin _ _) _ => true
    | .load _ _ _ (.hostWin _ _) _ _ => true
    | _ => false
  let s : State := s.seqs.foldl (fun (s : State) (e : Nat × Seq) =>
    if decide (32 ≤ e.1) && hostly e.2 then s.setSeqState e.1 5 else s) s
  -- a head that scans out a retained frame with a host-window layer has to compose again (R389)
  let s := if s.activePlans.any fun e => !e.2.hostLayers.isEmpty then s.touchMem else s
  (s.raise 5523 0 0 1).jrnShow

/-- DL_Down without `PERST_N` (R331). -/
def State.linkLost (s : State) : State :=
  if !s.linkUp then s
  else
    let s := s.linkGone.fset Reg.PCI_LINK_STATUS Bit.PCI_LINK_STATUS_LINK_LOST 1
    (s.resetAllConfig.clearRegs isMsix).wakeTargets
/-- The link is lost. -/
def execPcieLinkDown (s : State) : Result := .next s.linkLost

/-- The PF answers configuration requests: it is ready and sends a DRS message (R315). -/
def State.becomeReady (s : State) : State :=
  let s := s.setFn 0 { s.fn 0 with ready := true }
  if s.linkUp then s.send .drs else s

/-- The link is up, at `width` and `rate` of `PCI_LINK_STATUS`: what waited for it goes on (R331, R347). -/
def State.linkBack (s : State) (width rate : Nat) : State :=
  if s.linkUp || s.inReset || s.perst then s
  else
    let off := Reg.PCI_LINK_STATUS
    let s := ((s.fset off Bit.PCI_LINK_STATUS_LINK_UP 1).fset off Bit.PCI_LINK_STATUS_WIDTH width).fset off
      Bit.PCI_LINK_STATUS_RATE rate
    let s := { s with linkBackAt := s.now }
    let s : State := s.pmeWait.foldl (fun (s : State) (f : Nat) => s.send (.pme f)) s
    let s := { s with pmeWait := [] }
    let s := if s.posting.isNone then s.becomeReady else s
    s.jrnShow.ltrCheck
/-- The link comes up. -/
def execPcieLinkUp (width : Fin 3) (rate : Fin 7) (s : State) : Result := .next (s.linkBack width rate)

/-! Resets of the whole device (R367). -/

/-- Every register and engine of the core and function domains returns to reset; cold registers, the Sidereal master, the
Finder and what board flash holds stay (R396). GDDR6 and plates no longer hold what they held (R372). -/
def State.coreReset (s : State) : State :=
  { State.reset with
    sid := s.sid
    fresh := s.fresh
    regs := s.regs.filter fun (e : Nat × Word) => decide (domainOf e.1 = Domain.cold)
    epoch := s.epoch + 1
    plateEpoch := s.plateEpoch + 1
    hostTx := s.hostTx
    finder := s.finder
    wakeN := s.wakeN
    alarmsSpent := s.alarmsSpent
    ptmOffset := s.ptmOffset
    flashLog := s.flashLog
    flash := s.flash
    epochNo := s.epochNo
    rollback := s.rollback
    sidFrac := s.sidFrac
    sidRate := s.sidRate
    sealAt := s.sealAt
    avs := s.avs
    thermal := { Thermal.reset with life := s.thermal.life, seconds := s.thermal.seconds, saved := s.thermal.saved }
    perst := s.perst
    railBad := s.railBad
    tripped := s.tripped
    resetHeld := s.resetHeld
    posting := none
    pending := s.pending }

/-- What is reset by `VDD_AON` rising: all but what board flash and the fuses hold; `PERST_N` stands asserted (R365). -/
def State.coldReset (s : State) : State :=
  { s.coreReset with
    sid := 0
    sidFrac := 0
    sidRate := 0
    avs := ⟨20, 0, false⟩
    regs := []
    finder := []
    wakeN := false
    alarmsSpent := []
    ptmOffset := 0
    thermal := { Thermal.reset with saved := s.thermal.saved }
    perst := true
    railBad := false
    tripped := false
    resetHeld := true }
/-- `VDD_AON` rises. -/
def execVddAonRise (s : State) : Result := .next s.coldReset

/-- A full POST begins. -/
def State.beginPost (s : State) : State := { s with posting := some s.now }

/-- A rail leaves its range: every other island is held in reset (R365, R409). The POST that follows without a release of `PERST_N`
goes by the straps as last sampled (DEDUCED, log entry 142). -/
def State.railFault (s : State) : State :=
  if s.tripped then { s with railBad := true }
  else ({ s.coreReset with railBad := true }.wr Reg.SYS_STRAP (s.rd Reg.SYS_STRAP)).fset Reg.SYS_POST Bit.SYS_POST_RAIL_FAULT 1
/-- A rail leaves its monitor range. -/
def execRailFault (s : State) : Result := .next s.railFault
/-- Every rail has stood in range for 1 ms after a fault: POST begins unless `PERST_N` is asserted (R365, R409). -/
def execRailRecover (s : State) : Result :=
  .next (
    if !s.railBad then s
    else
      let s := { s with railBad := false }
      if s.perst then { s with resetHeld := true } else if s.tripped then s else s.beginPost)

/-- Island 1's function-domain registers, the command processors and the DMA channels return to reset; the partition tables
and everything that shows a picture stay (R24, R53, R313, R396). -/
def State.hostReset (s : State) : State :=
  let wasUp := s.linkUp
  let s : State := allFns.foldl (fun (s : State) (n : Nat) => s.resetCp n) s
  let s : State := (List.range 64).foldl (fun (s : State) (c : Nat) => s.resetChan c) s
  let s := s.clearRegs fun off =>
    domainOf off = Domain.function && (decide (0x1000000 ≤ off) || isMsix off || (decide (0x860000 ≤ off) && decide (off < 0x878000)))
  let s := if wasUp then s.linkGone else s
  s.resetAllConfig.wakeTargets

/-- `PERST_N` asserts, or a hot reset begins (R24, R367). A seal in hand completes first (R292). With the PF in D3hot in PS4
the device is on its way to PS5 (R348). -/
def State.perstAssert (s : State) : State :=
  if s.perst then s
  else
    let s := { s with perst := true }
    if s.inReset then { s with resetHeld := true }
    else if 4 ≤ s.powerState && (s.fn 0).dstate = 3 then
      allFns.foldl (fun (s : State) (f : Nat) => s.setFn f { s.fn f with dstate := 4 }) s
    else if s.fbit Reg.SYS_RESET_CTL Bit.SYS_RESET_CTL_PERST_SCOPE && s.posting.isNone && !s.safe then s.finishSeal.hostReset
    else { s.finishSeal.coreReset with resetHeld := true }
/-- `PERST_N` asserts. -/
def execPerstAssert (s : State) : Result := .next s.perstAssert

/-- `PERST_N` is released (R367, R368): the straps are sampled and a full POST begins, or island 1 retrains the link. -/
def State.perstRelease (s : State) (strap : Nat) : State :=
  if !s.perst then s
  else
    let cold := decide (4 ≤ s.powerState) && !s.resetHeld
    let s := { s with perst := false, wakeN := false }
    let s := if cold then s.coreReset else s
    if s.resetHeld || cold then
      let s := { s with resetHeld := false }
      if s.inReset then s else (s.wr Reg.SYS_STRAP strap).beginPost
    else s
/-- `PERST_N` is released. -/
def execPerstRelease (strap : Fin 8) (s : State) : Result := .next (s.perstRelease strap)

/-- A thermal sample (R355 to R359): at 115 °C `THERMTRIP_N` asserts and the whole device is held in reset. -/
def State.thermalSample (s : State) (v : BitVec 192) : State :=
  let k := hottest v
  let old := s.junction
  let t := tempOf v k
  let s := if 920 ≤ t then { s.coreReset with tripped := true } else s
  let s : State := (List.range 16).foldl (fun (s : State) (i : Nat) => s.wr (Reg.THM_SENSOR i) (getBits v.toNat (12 * i) 12)) s
  let s := s.fset Reg.THM_STATUS Bit.THM_STATUS_TJ (getBits v.toNat (12 * k) 12)
  if s.tripped then s else (s.alarm old t k).thermalAct t
/-- The sensors are sampled: 16 readings of 12 bits, in 1/8 °C. -/
def execThermalSample (v : BitVec 192) (s : State) : Result := .next (if s.tripped then s else s.thermalSample v)

/-! Resets of one function (R53, R315, R318). -/

/-- A Function Level Reset of function f: its configuration space, its function domain and its command processor return to
reset; shadow and active state, frame sequencers and partition assignments stay. One of the PF clears VF Enable. -/
def State.fnReset (s : State) (f : Nat) : State :=
  let s := s.resetFnDomain f
  let s := s.setFn f { PciFn.reset f with aer := (s.fn f).aer, inFlr := true }
  { s with pmeWait := s.pmeWait.erase f }.wakeTargets

/-- VF Enable is cleared: every VF is reset as by a Function Level Reset. -/
def State.vfClear (s : State) : State :=
  if !(s.fn 0).vfEnable then s
  else
    let s : State := ((List.range 31).map (· + 1)).foldl (fun (s : State) (f : Nat) => s.fnReset f) s
    s.setFn 0 { s.fn 0 with vfEnable := false }
/-- VF Enable is cleared. -/
def execVfEnableClear (s : State) : Result := .next (if (s.fn 0).ready then s.vfClear else s)

/-- A Function Level Reset. -/
def State.flr (s : State) (f : Nat) : State := if f = 0 then s.vfClear.fnReset 0 else s.fnReset f
/-- A Function Level Reset of function f; in Safe Station it changes nothing of the failure (R380). -/
def execFunctionLevelReset (f : FnId) (s : State) : Result :=
  .next (if (s.fn f).ready && (f = 0 || s.vfOn f) then s.flr f else s)

/-- The function is ready again within 1 ms and says so by an FRS message. -/
def execFlrComplete (f : FnId) (s : State) : Result :=
  .next (
    if !(s.fn f).inFlr then s
    else
      let s := s.setFn f { s.fn f with inFlr := false, ready := true }
      if s.linkUp then s.send (.frs f) else s)

end Sys2Proof.Machine
end

