-- ==== Sys2Proof/Machine/Pcie.lean ====
section
/-! DEFINITION. The PCIe link and configuration space (R315, R316, R318, R322 to R331) and the partition tables (R319,
R320). -/

namespace Sys2Proof.Machine

/-! Partition tables (R319, R320). -/

/-- The active state and every pending state. -/
def State.states (s : State) : List View := s.active :: s.admitted.map fun (a : Admitted) => a.view

/-- A head is enabled in the active or a pending state, or is a member of a group in either. -/
def State.headBusy (s : State) (h : Nat) : Bool :=
  s.states.any fun m => hdf m h Hd.HEAD_EN = 1 || (groupOf m h).isSome

/-- Event sources of a head: its boundary, head and port events and those of its frame sequencer (R332). -/
def headSources (h : Nat) : List Nat :=
  [srcBoundary h, srcHead h, srcPort h, srcSeqFault (32 + h), srcCommitResult (32 + h), srcCommitMoved (32 + h)]

/-- The numbers in a contiguous range register. -/
def rangeOf (w : Nat) : List Nat := (List.range (getBits w 16 13)).map (· + getBits w 0 12)

/-- The range of a word shares a number with another VF's. -/
def rangeMeets (s : State) (reg : Nat → Nat) (f w : Nat) : Bool :=
  ((List.range 31).map (· + 1)).any fun k =>
    let b := getBits (s.rd (reg k)) 0 12
    let c := getBits (s.rd (reg k)) 16 13
    k ≠ f && decide (0 < c) && decide (0 < getBits w 16 13) && decide (getBits w 0 12 < b + c) &&
      decide (b < getBits w 0 12 + getBits w 16 13)

/-- The offset of a partition register and the function that a write of it addresses. -/
def partOff : PartReg → Nat
  | .head h => Reg.PCI_HEAD_FN h
  | .layers f => Reg.PCI_FN_LAYER f
  | .streams f => Reg.PCI_FN_STREAM f
  | .dmaLo f => Reg.PCI_FN_DMA_LO f
  | .dmaHi f => Reg.PCI_FN_DMA_HI f

/-- The function that a partition write addresses. -/
def partFn (r : PartReg) (v : Nat) : Nat :=
  match r with
  | .head _ => v % 32
  | .layers f => f
  | .streams f => f
  | .dmaLo f => f
  | .dmaHi f => f

/-- The channels that a mask register assigns. -/
def maskChans (hi : Bool) (w : Nat) : List Nat := ((List.range 32).filter (bitOf w)).map fun i => if hi then 32 + i else i

/-- Why a partition write is refused; the last component lists the event sources whose function may change. -/
def State.partCheck (s : State) (r : PartReg) (v : Nat) : Option Nat × List Nat :=
  let new := s.wr (partOff r) v
  match r with
  | .head h =>
    if s.headFn h ≠ v % 32 && s.headBusy h then (some 3, []) else (none, headSources h)
  | .layers f =>
    if rangeMeets s Reg.PCI_FN_LAYER f v then (some 1, [])
    else if 4096 < getBits v 0 12 + getBits v 16 13 then (some 2, [])
    else if (s.states.any fun m => (layersIn m).any fun sl => s.slotFn sl ≠ new.slotFn sl) then (some 4, [])
    else (none, [])
  | .streams f =>
    let moved := (rangeOf (s.rd (Reg.PCI_FN_STREAM f)) ++ rangeOf v).filter fun st => s.streamFn st ≠ new.streamFn st
    if rangeMeets s Reg.PCI_FN_STREAM f v then (some 1, [])
    else if 4096 < getBits v 0 12 + getBits v 16 13 then (some 2, [])
    else if moved.any (fun st => s.fbit (Reg.ING_CFG st) Bit.ING_CFG_EN) then (some 5, [])
    else (none, moved)
  | .dmaLo f => chans f false Reg.PCI_FN_DMA_LO new
  | .dmaHi f => chans f true Reg.PCI_FN_DMA_HI new
where
  /-- The check of a channel mask. -/
  chans (f : Nat) (hi : Bool) (reg : Nat → Nat) (new : State) : Option Nat × List Nat :=
    let moved := (maskChans hi (s.rd (reg f)) ++ maskChans hi v).filter fun c => s.chanFn c ≠ new.chanFn c
    if ((List.range 31).map (· + 1)).any (fun k => k ≠ f && Nat.land (s.rd (reg k)) v ≠ 0) then (some 1, [])
    else if moved.any (fun c => s.chanState c ≠ 0) then (some 6, [])
    else (none, moved.flatMap fun c => [srcDmaDone c, srcDmaError c])

/-- A refusal of a partition write. -/
def State.partRefuse (s : State) (code f : Nat) : State :=
  let off := Reg.PCI_PART_STATUS
  ((s.fset off Bit.PCI_PART_STATUS_REFUSE_CODE code).fset off Bit.PCI_PART_STATUS_REFUSED 1).fset off
    Bit.PCI_PART_STATUS_LAST_FN f

/-- Sources whose function has changed since `old` lose `EN` and their pending state (R333). -/
def State.moveSources (s old : State) (srcs : List Nat) : State :=
  srcs.foldl (fun (s : State) (k : Nat) => if old.sourceFn k ≠ s.sourceFn k then s.sourceMoved k else s) s

/-- The implemented bits of a value written to a partition register. -/
def partValue (r : PartReg) (v : Nat) : Nat :=
  match r with
  | .head _ => v % 32
  | .layers _ => getBits v 0 12 + 2 ^ 16 * getBits v 16 13
  | .streams _ => getBits v 0 12 + 2 ^ 16 * getBits v 16 13
  | .dmaLo _ => v
  | .dmaHi _ => v

/-- The partition registers of function 0, which are reserved. -/
def partOfPf (r : PartReg) : Bool :=
  match r with
  | .head _ => false
  | .layers f => f = 0
  | .streams f => f = 0
  | .dmaLo f => f = 0
  | .dmaHi f => f = 0

/-- A write of a partition register. -/
def State.partWrite (s : State) (r : PartReg) (v : Nat) : State :=
  if partOfPf r then s
  else
    match s.partCheck r (partValue r v) with
    | (some code, _) => s.partRefuse code (partFn r (partValue r v))
    | (none, srcs) => (s.wr (partOff r) (partValue r v)).moveSources s srcs
/-- A partition register is written by the PF. -/
def execPartitionWrite (r : PartReg) (v : Word) (s : State) : Result :=
  .next (s.access (partOff r) fun s => s.partWrite r v.toNat)

/-- Everything VF k holds goes to the PF (R320). -/
def State.reclaim (s : State) (k : Nat) : State :=
  if k = 0 then s
  else if s.vfOn k && (s.fn k).busMaster then s.partRefuse 7 k
  else
    let old := s
    let heads := (List.range 128).filter fun h => s.headFn h = k
    let groups := (List.range 32).filter fun g => s.groupFn g = k
    let plates := (List.range 32).filter fun p => s.fget (Reg.PST_OWN p) Bit.PST_OWN_FN = k
    let streams := (List.range 4096).filter fun st => s.streamFn st = k
    let chans := (List.range 64).filter fun c => s.chanFn c = k
    let s : State := heads.foldl (fun (s : State) (h : Nat) => s.wr (Reg.PCI_HEAD_FN h) 0) s
    let s := ((s.wr (Reg.PCI_FN_LAYER k) 0).wr (Reg.PCI_FN_STREAM k) 0)
    let s := (s.wr (Reg.PCI_FN_DMA_LO k) 0).wr (Reg.PCI_FN_DMA_HI k) 0
    let s : State := groups.foldl (fun (s : State) (g : Nat) => s.fset (Reg.EPH_GRP_FN g) Bit.EPH_GRP_FN_FN 0) s
    let s : State := plates.foldl (fun (s : State) (p : Nat) => s.fset (Reg.PST_OWN p) Bit.PST_OWN_FN 0) s
    let s : State := (List.range 256).foldl (fun (s : State) (t : Nat) =>
      [Bit.CLR_TABLE_FN_CSC_FN, Bit.CLR_TABLE_FN_DEGAMMA_FN, Bit.CLR_TABLE_FN_CLUT_FN].foldl (fun (s : State) (b : Fld) =>
        if s.fget (Reg.CLR_TABLE_FN t) b = k then s.fset (Reg.CLR_TABLE_FN t) b 0 else s) s) s
    s.moveSources old (heads.flatMap headSources ++ streams ++ chans.flatMap fun c => [srcDmaDone c, srcDmaError c])
/-- A write of `PCI_FN_CTL.RECLAIM`. -/
def execReclaim (k : FnId) (s : State) : Result := .next (s.access (Reg.PCI_FN_CTL k) fun s => s.reclaim k)

/-! The link (R326, R330). -/

/-- Lanes of a `WIDTH` code. -/
def lanesOf (w : Nat) : Nat := [16, 8, 4].getD w 16

/-- An L0p request for a width: a reduction is accepted only when the narrower link carries the host demand. -/
def execL0pRequest (width : Fin 3) (s : State) : Result :=
  .next (
    let off := Reg.PCI_LINK_STATUS
    let w := s.fget off Bit.PCI_LINK_STATUS_WIDTH
    if !s.linkUp || decide (3 ≤ s.powerState) then s
    else if decide (width.val ≤ w) || s.widthCarries (lanesOf width) then s.fset off Bit.PCI_LINK_STATUS_WIDTH width
    else s.fsat off Bit.PCI_LINK_STATUS_L0P_DECLINED)

/-- The link retrains at a width and rate below x16 at 128 GT/s and stays up. -/
def execPcieLinkDegrade (width : Fin 3) (rate : Fin 7) (s : State) : Result :=
  .next (
    let off := Reg.PCI_LINK_STATUS
    if !s.linkUp || (decide (width = 0) && decide (rate = 6)) then s
    else
      let s := (s.fset off Bit.PCI_LINK_STATUS_WIDTH width).fset off Bit.PCI_LINK_STATUS_RATE rate
      let s := s.fset off Bit.PCI_LINK_STATUS_DEGRADED 1
      s.raise 5524 0 (s.rd off % 64) 1)

/-! BARs (R316). -/

/-- A Resizable BAR size of 2^`size` bytes is written, for the PF or for all VFs; with Memory Space Enable 1 it waits until
that is cleared. A size outside the range of R316 is not supported and changes nothing. -/
def execResizableBarWrite (vf : Bool) (size : Fin 64) (s : State) : Result :=
  .next (
    let ok := if vf then decide (26 ≤ size.val) && decide (size.val ≤ 34) else decide (28 ≤ size.val) && decide (size.val ≤ 37)
    let who := if vf then (List.range 31).map (· + 1) else [0]
    if !ok || !(s.fn 0).ready || s.safe then s
    else who.foldl (fun (s : State) (f : Nat) =>
      let c := s.fn f
      s.setFn f (if c.memEnable then { c with bar2Next := some size } else { c with bar2 := size, bar2Next := none })) s)

/-! Configuration requests (R315, R316, R318, R322). -/

/-- The shortest time, ns, of a Completion Timeout Value: ranges A to D, 50 ms by default. -/
def timeoutOf (code : Nat) : Nat :=
  match code with
  | 1 => 50000
  | 2 => 1000000
  | 5 => 16000000
  | 6 => 65000000
  | 9 => 260000000
  | 10 => 1000000000
  | 13 => 4000000000
  | 14 => 17000000000
  | _ => 50000000

/-- Memory Space Enable of a function; clearing it lets a waiting BAR2 size take effect (R316). -/
def State.setMemEnable (s : State) (f : Nat) (on : Bool) : State :=
  let c := { s.fn f with memEnable := on }
  s.setFn f (if on then c else match c.bar2Next with | some z => { c with bar2 := z, bar2Next := none } | none => c)

/-- NumVFs is written: 7 at most while ARI Capable Hierarchy is 0 (R318); not while VF Enable is 1. -/
def State.setNumVfs (s : State) (n : Nat) : State :=
  let c := s.fn 0
  if c.vfEnable || s.safe then s else s.setFn 0 { c with numVfs := if !c.ari && decide (7 < n) then 7 else min n 31 }

/-- The SR-IOV control of the PF. VFs that are enabled are ready; clearing VF Enable resets every VF (R318). -/
def State.setSriov (s : State) (enable memory ari : Bool) : State :=
  if s.safe then s
  else
    let s := if enable then s else s.vfClear
    let s := s.setFn 0 { s.fn 0 with ari := ari, vfEnable := enable }
    let s : State := ((List.range 31).map (· + 1)).foldl (fun (s : State) (k : Nat) => s.setMemEnable k memory) s
    ((List.range 31).map (· + 1)).foldl (fun (s : State) (k : Nat) =>
      if s.vfOn k && !(s.fn k).inFlr then s.setFn k { s.fn k with ready := true } else s) s

/-- The effect of a configuration request on a function that is ready. -/
def State.configure (s : State) (f : Nat) (a : CfgAccess) : State :=
  let c := s.fn f
  match a with
  | .other => s
  | .command bm mem =>
    let s := s.setFn f { c with busMaster := bm }
    if f = 0 then s.setMemEnable 0 mem else s
  | .power d pme => (s.setFn f { c with dstate := d, pmeEnable := pme }).wakeTargets
  | .msix en mask => s.setFn f { c with msixEnable := en, msixMask := mask }
  | .timeout code => s.setFn f { c with timeout := timeoutOf code }
  | .readSize code => s.setFn f { c with maxRead := 128 * 2 ^ code.val }
  | .severity v => s.setFn f { c with severity := v }
  | .aspm l1 l11 l12 => if f = 0 then s.setFn 0 { c with aspm := (l1, l11, l12) } else s
  | .sriov e m a => if f = 0 then s.setSriov e m a else s
  | .numVfs n => if f = 0 then s.setNumVfs n.toNat else s

/-- A configuration request to function f: Request Retry Status until the function is ready, Unsupported Request for a VF
that is not enabled, else it is applied and completed. -/
def execConfigurationRequest (f : FnId) (a : CfgAccess) (s : State) : Result :=
  .next (
    if !s.linkUp || s.inReset then s
    else if f ≠ 0 && (s.fn 0).ready && !s.vfOn f then (s.aerLog 0 4).send (.unsupported f)
    else if !(s.fn f).ready then s.send (.retryStatus f)
    else (s.configure f a).send (.configDone f))

/-- An inbound request is completed with Unsupported Request and logged; a posted one carries no completion. -/
def execUnsupportedRequest (f : FnId) (why : BadRequest) (posted : Bool) (s : State) : Result :=
  .next (
    if !s.linkUp || s.inReset then s
    else
      let dead := f ≠ 0 && !s.vfOn f
      if decide (why = .disabledFunction) && !dead && (s.fn f).memEnable then s
      else if decide (why = .ideRequired) && !s.ideBlocked f none then s
      else
        let s := s.aerLog (if dead then 0 else f) 4
        if posted then s else s.send (.unsupported f))

/-! IDE and DOE (R328, R329). -/

/-- The streams, all four. -/
def State.ideStream (s : State) (k : Nat) : IdeStream := s.ide.getD k ⟨0, 1, 0, []⟩
/-- The state with a stream set. -/
def State.setIde (s : State) (k : Nat) (x : IdeStream) : State :=
  { s with ide := (List.range 4).map fun i => if i = k then x else s.ideStream i }

/-- An IDE check of a packet of function f fails on stream k: the stream is Insecure until keyed again. -/
def execIdeCheckFailed (k : Fin 4) (f : FnId) (s : State) : Result :=
  .next (
    let x := s.ideStream k
    if !s.linkUp || x.state ≠ 1 || decide (f.val < x.first) || decide (x.last < f.val) then s
    else (s.setIde k { x with state := 2 }).aerLog f 5)

/-- The Station cores answer a DOE request. -/
def State.doeAnswer (s : State) (r : DoeReq) : State :=
  let s := match r with
    | .keyStream k a b r => s.setIde k ⟨1, a, b, r⟩
    | .stopStream k => s.setIde k ⟨0, 1, 0, []⟩
    | _ => s
  let protocol := match r with | .discovery => 0 | .spdm => 1 | .secured => 2 | _ => 3
  (s.send (.doe protocol (Config.doeAnswer s.fresh))).draw
/-- A request stands in the PF's DOE mailbox; during a restart of the Station cores it waits (R381). -/
def execDoeRequest (r : DoeReq) (s : State) : Result :=
  .next (
    if !s.linkUp || !(s.fn 0).ready then s
    else if s.stationDown then { s with doeWait := s.doeWait ++ [r] }
    else s.doeAnswer r)

end Sys2Proof.Machine
end

