-- ==== Sys2Proof/Machine/Station.lean ====
section
/-! DEFINITION. Start-up (R368 to R376, R397), Safe Station (R377 to R380), the Station cores' restart (R381), pipe
self-tests (R382) and the lock (R398). -/

namespace Sys2Proof.Machine

/-! POST. -/

/-- The count of valid pages (R98). -/
def validCount (density clamshell ecc : Bool) : Nat :=
  (if ecc then 15360 else 16384) * (if density then 2 else 1) * (if clamshell then 2 else 1)

/-- One record of board flash or of the fuses reapplied: the kinds of `flashLog`, of which 7 is a column found at fault in
service, 8 a repaired column, 9 a pipe failed without a spare, 10 a failed drive, 11 a lane failed without a spare, 12 a failed pipe
that its spare replaces (R130, R133, R253, R361, R364, R372). -/
def State.applyRecord (s : State) (e : Nat × Nat) : State :=
  let v := e.2
  match e.1 with
  | 1 =>
    let f : Fld := ⟨4 * (v / 64 % 16 % 8), 4⟩
    let off := rowsOff (v % 64) (v / 64 % 16)
    s.fset off f (min 4 (s.fget off f + 1))
  | 2 =>
    let p := v % 64
    let old := s.fget (Reg.PST_OWN p) Bit.PST_OWN_SITE
    ((s.fset (Reg.PST_OWN p) Bit.PST_OWN_SITE (v / 64)).fset (Reg.PST_SITE old) Bit.PST_SITE_STATE 3).wr
      (Reg.PST_SITE (v / 64)) (4 * p)
  | 3 =>
    let g := v / 17
    let s : State := (List.range 16).foldl (fun (s : State) (i : Nat) =>
      s.fset (Reg.PRT_LANE (16 * g + i)) Bit.PRT_LANE_SPARE_FREE 0) s
    let q := 4 * g + v % 17 / 4
    let mode := s.fget (Reg.PRT_QUAD_MODE q) Bit.PRT_QUAD_MODE_MODE
    match (List.range 4).find? fun k => (List.range (portLanes mode k)).any fun i => physicalLane q (logicalLane mode k i) = v with
    | some k => s.fset (Reg.PRT_LANE (4 * q + k)) Bit.PRT_LANE_SUBSTITUTED 1
    | none => s
  | 4 => (s.fset Reg.CD_SPARE_STATUS Bit.CD_SPARE_STATUS_DRIVE v).fset (cdStatus v) Bit.CD_STATUS_SUBST 1
  | 5 => { s with pipeSubst := tabPut v (spareOf v) s.pipeSubst }
  | 6 =>
    let page := v % 2 ^ 17
    let to_ := v / 2 ^ 17 % 2 ^ 17
    let s := { s with retired := v / 2 ^ 34 :: s.retired }
    let s := s.fset (Reg.PMAP_ENTRY_LO page) Bit.PMAP_ENTRY_LO_REMAPPED 1
    let s := s.wr (Reg.PMAP_ENTRY_LO page) (setBits (s.rd (Reg.PMAP_ENTRY_LO page)) 20 12 (to_ % 4096))
    s.wr (Reg.PMAP_ENTRY_HI page) (to_ / 4096)
  | 7 | 8 =>
    let f : Fld := ⟨2 * (v / 64 % 16), 2⟩
    s.fset (Reg.PST_REPAIR_COL (v % 64)) f (min 2 (s.fget (Reg.PST_REPAIR_COL (v % 64)) f + 1))
  | 9 => { s with pipeRoles := tabPut v 2 s.pipeRoles }
  | 12 => { s with pipeRoles := tabPut v 3 s.pipeRoles }
  | 10 => s.setCdState v 6
  | 11 => s.setPort (v / 4) { s.port (v / 4) with failedLanes := setAdd (v % 4) (s.port (v / 4)).failedLanes }
  | _ => s

/-- The counts of unused spares after the records are reapplied (R361). -/
def State.countSpares (s : State) : State :=
  let off := Reg.SYS_SPARE_STATUS
  let pipes := ([8, 17, 26, 35].filter fun k => !s.spareUsed_ k).length
  let lanes := ((List.range 8).filter fun g => s.fbit (Reg.PRT_LANE (16 * g)) Bit.PRT_LANE_SPARE_FREE).length
  let s := (s.fset off Bit.SYS_SPARE_STATUS_PIPES_FREE pipes).fset off Bit.SYS_SPARE_STATUS_LANES_FREE lanes
  let s := s.fset off Bit.SYS_SPARE_STATUS_CD_FREE (b2n (s.fget Reg.CD_SPARE_STATUS Bit.CD_SPARE_STATUS_DRIVE = 15))
  let s := s.fset off Bit.SYS_SPARE_STATUS_FRAMES_FREE (1024 - s.retired.length)
  (s.fset Reg.SYS_RETIRE_STATUS Bit.SYS_RETIRE_STATUS_USED s.retired.length).countPlates

/-- The repairs in the fuses and then the records of board flash reapplied in their order (R130, R372). -/
def State.applyFlash (s : State) (keep : Nat → Bool) : State :=
  ((s.march.fused ++ s.flashLog.filter fun (e : Nat × Nat) => keep e.1).foldl (fun (s : State) (e : Nat × Nat) => s.applyRecord e) s).countSpares

/-- Ownership when POST completes (R119). -/
def State.givePlates (s : State) : State :=
  (List.range 32).foldl (fun (s : State) (p : Nat) =>
    let owner := if p = 28 then 5 else if p = 29 then 6 else if p = 30 then 9 else if p = 31 then 7 else 0
    (s.fset (Reg.PST_OWN p) Bit.PST_OWN_OWNER owner).fset (Reg.PST_OWN p) Bit.PST_OWN_FIXED (b2n (30 ≤ p))) s

/-- The region of board flash that holds a kind of record (R369). -/
def regionOf (kind : Nat) : FlashRegion :=
  if kind = 1 || kind = 7 || kind = 8 then .repair else if kind = 6 then .retirement else .substitution

/-- A failure as its record states it (R376): a cause other than 1 only at stages 3 and 7, a unit only at 6, 7 and 9, a detail only at
1, 3 and 7. -/
def tidyFail (f : PostFail) : PostFail :=
  let st := f.stage.val
  { f with
    cause := if st = 3 || st = 7 then f.cause else 1
    unit_ := if st = 6 || st = 7 || st = 9 then f.unit_ else 0
    detail := if st = 1 || st = 3 || st = 7 then f.detail else 0 }

/-- Stage 3 fails when neither image passes (R368, R371, R376): the cause is that of the image tried last. -/
def stage3 (counter : Nat) (bFirst : Bool) (a b : ImageCheck) : List PostFail :=
  let x := a.cause counter
  let y := b.cause counter
  if x ≠ 0 && y ≠ 0 then [⟨3, BitVec.ofNat 8 (if bFirst then x else y), 0, BitVec.ofNat 32 (x + 256 * y)⟩] else []

/-- The failed stage with the lowest number (R374). -/
def firstFail (l : List PostFail) : Option PostFail :=
  l.foldl (fun (m : Option PostFail) f => match m with
    | some g => if f.stage.val < g.stage.val then some f else m
    | none => some f) none

/-- The failure of a POST, if any (R368, R374): straps that force Safe Station after fuse load do so at stage 8, unless that stage
failed. -/
def postFailure (r : PostReport) (strap counter : Nat) : Option PostFail :=
  let told := r.failures.filter fun f => decide (f.stage.val ∈ [1, 2, 4, 5, 6, 7, 9])
  if 2 ≤ strap % 4 then some ((firstFail (told.filter fun f => decide (f.stage.val = 1))).getD ⟨8, 1, 0, 0⟩)
  else firstFail (told ++ stage3 counter (strap % 2 = 1) r.imageA r.imageB)

/-- The image that starts: the first that passes, in the order of the straps (R368, R371). The second component is its number. -/
def postImage (r : PostReport) (strap counter : Nat) : ImageCheck × Nat :=
  let takeB := if strap % 2 = 1 then decide (r.imageB.cause counter = 0) else decide (r.imageA.cause counter ≠ 0)
  if takeB then (r.imageB, 1) else (r.imageA, 0)

/-- Regions without a valid copy are taken as empty (R370). -/
def State.loseRecords (s : State) (lost : List FlashRegion) : State :=
  if lost = [] then s
  else
    let gone := decide (FlashRegion.counters ∈ lost)
    { s with
      flashLog := s.flashLog.filter fun (e : Nat × Nat) => decide (regionOf e.1 ∉ lost)
      epochNo := if gone then 0 else s.epochNo
      thermal := { s.thermal with saved := if gone then 0 else s.thermal.saved } }.fset
        Reg.SYS_POST Bit.SYS_POST_RECORD_LOST 1

/-- Safe Station is entered with the failure recorded (R376, R377). -/
def State.enterSafe (s : State) (e : PostFail) : State :=
  let f := tidyFail e
  let s := s.wr Reg.SYS_FAIL_REC0 (f.stage + f.cause.toNat * 16 + f.unit_.toNat * 4096 + 3 * 2 ^ 30)
  let s := (s.wr Reg.SYS_FAIL_REC1 f.detail.toNat).wr Reg.SYS_FAIL_TIME_LO (s.now % 2 ^ 32)
  (s.wr Reg.SYS_FAIL_TIME_HI (s.now / 2 ^ 32)).wr Reg.SYS_FW_VER (2 ^ 16 * max s.rollback (s.fget Reg.SYS_FW_VER Bit.SYS_FW_VER_ROLLBACK) + 2 ^ 24 * (s.rd Reg.SYS_FW_VER / 2 ^ 24))

/-- Spares taken, in the findings of a POST. -/
def sparesTaken (l : List (Fin 16 × Nat)) : Nat := (l.filter fun e => decide (1 ≤ e.1.val) && decide (e.1.val ≤ 5)).length

/-- A full POST ends at time `t0` after its start: the device is ready, or in Safe Station; the straps may force that
(R368, R372, R373, R376). -/
def State.postEnd (s : State) (t0 : Nat) (r : PostReport) : State :=
  let strap := s.rd Reg.SYS_STRAP
  let counter := max s.rollback (s.fget Reg.SYS_FW_VER Bit.SYS_FW_VER_ROLLBACK)
  let failure := postFailure r strap counter
  let s := match failure with
    | some f => if f.stage.val ≤ 2 || f.stage.val = 8 then s else s.loseRecords r.lost
    | none => s.loseRecords r.lost
  let s := { s with
    posting := none, flashLog := s.flashLog ++ r.found.map fun (e : Fin 16 × Nat) => (e.1.val, e.2)
    march := { s.march with fused := r.fused.map fun (e : Bool × Nat) => (if e.1 then 8 else 1, e.2) } }
  let s := s.fset Reg.SYS_POST Bit.SYS_POST_POST_MS (min 4095 ((s.now - t0) / 1000000))
  let s := s.fset Reg.SYS_POST Bit.SYS_POST_SPARES_TAKEN (min 255 (sparesTaken r.found))
  let s := { s with ports := s.ports.map fun (e : Nat × Port) =>
    (e.1, { e.2 with fallAt := e.2.fallAt.map fun _ => s.now, riseAt := e.2.riseAt.map fun _ => s.now }) }
  let passed := match failure with | some f => decide (f.stage.val = 7) || decide (f.stage.val = 9) | none => true
  let s := { s with march := { s.march with others := passed, pl30 := passed } }
  match failure with
  | some f => (s.enterSafe f).becomeReady
  | none =>
    let s := s.fset Reg.JRN_SEAL_STATUS Bit.JRN_SEAL_STATUS_NEXT s.sealAt
    let (img, k) := postImage r strap counter
    let (version, index) := match img with | .authentic v n => (v.toNat, n.toNat) | _ => (0, 0)
    let burnt := max counter index
    let s := s.fset Reg.SYS_POST Bit.SYS_POST_IMAGE k
    let s := { s with rollback := burnt, thermal := { s.thermal with life := 2 ^ 32 * (s.thermal.saved * 3600) } }.wr
      Reg.THM_LIFE s.thermal.saved
    let s := s.wr Reg.SYS_FW_VER (version + 2 ^ 16 * burnt + 2 ^ 24 * (s.rd Reg.SYS_FW_VER / 2 ^ 24))
    let s := s.wr Reg.SYS_MEM_CFG (b2n r.density + 2 * b2n r.clamshell + 4 * b2n r.ecc + 16 * r.rate.toNat +
      2 ^ 15 * validCount r.density r.clamshell r.ecc)
    let s : State := r.quads.foldl (fun (s : State) (e : Fin 32 × Fin 3) => s.fset (Reg.PRT_QUAD_MODE e.1) Bit.PRT_QUAD_MODE_MODE e.2) s
    let s : State := r.fmax.foldl (fun (s : State) (e : DriveId × BitVec 20) => s.wr (Reg.CD_FMAX e.1) e.2.toNat) s
    (s.givePlates.applyFlash fun _ => true).becomeReady
/-- A full POST ends. -/
def execPostEnd (r : PostReport) (s : State) : Result :=
  .next (
    match s.posting with
    | some t0 => if s.inReset || s.perst then s else s.postEnd t0 r
    | none => s)

/-- Registers that an exit from PS4 keeps: those of island 0, the journal's, the partition tables and aperture bases, and
what `PCI_LINK_STATUS` shows of the link (R397). -/
def keptInPs4 (off : Nat) : Bool :=
  islandOf off = 0 || (decide (0x810000 ≤ off) && decide (off < 0x820000)) ||
    (decide (0x41000 ≤ off) && decide (off < 0x43000)) || off = Reg.PCI_LINK_STATUS

/-- The short POST of an exit from PS4 (R375, R397): the powered-down islands return to reset but for what is kept; GDDR6,
the journal, island 0 and the functions' configuration go on. -/
def State.shortPost (s : State) (failure : Option PostFail) (found : List (Fin 16 × Nat)) : State :=
  let n : State := { s with
    regs := s.regs.filter fun (e : Nat × Word) => keptInPs4 e.1
    shadow := []
    active := []
    occs := []
    pendTime := []
    heldSince := []
    ringLost := []
    stationRecords := []
    stationLevels := []
    stationEntry := []
    modEnd := []
    seqs := []
    shadowTurn := 0
    benchQ := []
    heads := []
    commits := []
    admitted := []
    activePlans := []
    gcTokens := 65536
    pmapStamp := []
    mcBusy := []
    slots := []
    splits := []
    apertures := []
    benchGroups := []
    tags := []
    landed := []
    hostReads := []
    beGap := []
    shown := []
    selectedAt := []
    holds := []
    frames := []
    staticRun := []
    retained := []
    timedOut := []
    redirected := []
    ports := []
    steering := []
    switches := []
    shedSteps := []
    hostGone := []
    committedAt := []
    selectedFor := []
    mismatch := []
    wbBusy := []
    swaps := []
    streams := []
    slotRanges := []
    chans := []
    moverTurn := []
    moverBurst := none
    plateAnswers := []
    handovers := []
    blinks := []
    subst := none
    substWait := []
    crossings := []
    mcQueue := []
    mcTurn := []
    found := []
    rowOpen := []
    outRise := []
    held := []
    march := { s.march with others := true }
    pipeCe := []
    testing := none
    stationDown := false
    retired := []
    pipeSubst := []
    retireQueue := []
    retiring := none
    flashLog := s.flashLog ++ found.map fun (e : Fin 16 × Nat) => (e.1.val, e.2) }
  let n := (n.givePlates.applyFlash fun k => k ≠ 4 && k ≠ 10).setIslands 0
  let n := n.fset Reg.PWR_STATUS Bit.PWR_STATUS_STATE 4
  let n := if found = [] then n else { n with exitTo := 0 }
  match failure with
  | some f => ({ n.coreReset with fns := s.fns }).enterSafe f
  | none => n
/-- The short POST ends. -/
def execShortPost (failure : Option PostFail) (found : List (Fin 16 × Nat)) (s : State) : Result :=
  .next (if s.waking && s.powerState = 4 && !s.islandOn 2 && !s.inReset then s.shortPost failure found else s)

/-! The Safe Station monitor (R378, R379). -/

/-- Size of the board flash (R369). -/
def flashSize : Nat := 0x400000 + Config.flashExtra

/-- A write of `SYS_SS_CMD`: ignored with `LOST` while a command waits or runs. -/
def State.ssCmdWrite (s : State) (v : Nat) : State :=
  if s.fbit Reg.SYS_SS_STATUS Bit.SYS_SS_STATUS_BUSY then s.fset Reg.SYS_SS_STATUS Bit.SYS_SS_STATUS_LOST 1
  else { s with ssCmd := some (getBits v 0 8, getBits v 8 8, getBits v 16 11) }.fset Reg.SYS_SS_STATUS Bit.SYS_SS_STATUS_BUSY 1

/-- Words of `SYS_SS_DATA` from word k on. -/
def State.ssPut (s : State) (k : Nat) : List Byte → State
  | a :: b :: c :: d :: rest => (s.wr (Reg.SYS_SS_DATA k) (ofBytes [a, b, c, d])).ssPut (k + 1) rest
  | [] => s
  | l => s.wr (Reg.SYS_SS_DATA k) (ofBytes l)

/-- The first n bytes of `SYS_SS_DATA`. -/
def State.ssData (s : State) (n : Nat) : List Byte :=
  (((List.range 256).flatMap fun k => toBytes 4 (s.rd (Reg.SYS_SS_DATA k))).take n)

/-- What the monitor has to run: the command that waits, or one that the SMBus carries while none waits; with its opcode,
tag and length. -/
def State.ssTake (s : State) (bus : Option SmBus) : Option (State × Nat × Nat × Nat) :=
  match bus with
  | none => s.ssCmd.map fun c => (s, c)
  | some b =>
    if s.ssCmd.isSome || decide (1024 < b.data.length) then none
    else
      let t := ((s.wr Reg.SYS_SS_ARG0 b.arg0.toNat).wr Reg.SYS_SS_ARG1 b.arg1.toNat).ssPut 0 b.data
      some (t, b.opcode.toNat, b.tag.toNat, b.data.length)

/-- A command completes with a result and its output. -/
def State.ssDone (s : State) (bus : Option SmBus) (tag result : Nat) (out : List Byte) : State :=
  let lost := s.fget Reg.SYS_SS_STATUS Bit.SYS_SS_STATUS_LOST
  let status := 2 + 4 * lost + 16 * result + 256 * tag + 2 ^ 16 * out.length
  let s := ({ s with ssCmd := none }.ssPut 0 out).wr Reg.SYS_SS_STATUS status
  if bus.isSome then s.send (.smbus status out) else s

/-- The monitor runs a command of the given opcodes: `f` answers the state, the result and the output from the arguments
and the length. -/
def State.ssRun (s : State) (bus : Option SmBus) (op : Nat → Bool) (f : State → Nat → Nat → Nat → State × Nat × List Byte) : State :=
  if !s.safe || s.inReset then s
  else
    match s.ssTake bus with
    | none => s
    | some (s', o, tag, len) =>
      if !op o then s
      else
        let (t, result, out) := f s' (s'.rd Reg.SYS_SS_ARG0) (s'.rd Reg.SYS_SS_ARG1) len
        t.ssDone bus tag result out

/-- Bytes that the spec does not state, `n` of them. -/
def State.freeBytes (s : State) (n : Nat) : List Byte := (toBytes 1024 (Config.doeAnswer s.fresh).toNat).take n

/-- `IDENTIFY`: the identity registers, then versions whose layout is not stated. -/
def execSsIdentify (bus : Option SmBus) (s : State) : Result :=
  .next (s.ssRun bus (· = 1) fun s _ _ _ =>
    (s.draw, 0, ([0, 4, 8, 12].flatMap fun o => toBytes 4 (s.rd o)) ++ s.freeBytes ((Config.freeValue s.fresh).toNat % 1009)))

/-- `READ_FAIL`: the failure record, then the POST log. -/
def execSsReadFail (bus : Option SmBus) (s : State) : Result :=
  .next (s.ssRun bus (· = 2) fun s _ _ _ =>
    (s.draw, 0, ([0x100, 0x104, 0x108, 0x10C].flatMap fun o => toBytes 4 (s.rd o)) ++
      s.freeBytes ((Config.freeValue s.fresh).toNat % 1001)))

/-- `READ_FLASH`: up to 1,024 bytes. -/
def execSsReadFlash (bus : Option SmBus) (s : State) : Result :=
  .next (s.ssRun bus (· = 3) fun s a n _ =>
    if 1024 < n || decide (flashSize < a + n) then (s, 2, [])
    else (s, 0, (List.range n).map fun k => s.flashByte (a + k)))

/-- An offset in the seal ring (R369). -/
def inSealRing (a : Nat) : Bool := decide (0x200000 ≤ a) && decide (a < 0x300000)

/-- `ERASE_SECTOR`; `ok` is what the flash reports. -/
def execSsEraseSector (bus : Option SmBus) (ok : Bool) (s : State) : Result :=
  .next (s.ssRun bus (· = 4) fun s a _ _ =>
    if inSealRing a then (s, 3, [])
    else if a % 4096 ≠ 0 || decide (flashSize < a + 4096) then (s, 2, [])
    else if !ok then (s, 4, [])
    else ({ s with flash := flashErase s.flash a 4096 }, 0, []))

/-- `PROGRAM_FLASH`: up to 256 bytes within one page. -/
def execSsProgramFlash (bus : Option SmBus) (ok : Bool) (s : State) : Result :=
  .next (s.ssRun bus (· = 5) fun s a _ n =>
    if inSealRing a then (s, 3, [])
    else if decide (256 < a % 256 + n) || decide (flashSize < a + n) then (s, 2, [])
    else if !ok then (s, 4, [])
    else ({ s with flash := flashProgram s.flash a (s.ssData n) }, 0, []))

/-- `READ_SENSORS`: the sensor registers, then `THM_LIFE`. -/
def execSsReadSensors (bus : Option SmBus) (s : State) : Result :=
  .next (s.ssRun bus (· = 6) fun s _ _ _ =>
    (s, 0, ((List.range 16).flatMap fun k => toBytes 4 (s.rd (Reg.THM_SENSOR k))) ++ toBytes 4 (s.rd Reg.THM_LIFE)))

/-- Rows at fault repaired while a spare row of their bank is left. -/
def State.repairAll (s : State) (site : Nat) : List (Nat × Nat) → State × Nat
  | [] => (s, 0)
  | (bank, row) :: rest =>
    match s.fuseRow site bank row with
    | some t =>
      let (u, n) := t.repairAll site rest
      (u, n + 1)
    | none => s.repairAll site rest

/-- The plates that a site serves hold the final data of an algorithm (R127). -/
def State.marchFill (s : State) (site alg : Nat) : State :=
  ((List.range 32).filter fun p => decide (s.fget (Reg.PST_OWN p) Bit.PST_OWN_SITE = site)).foldl
    (fun (s : State) (p : Nat) => s.plateFill p 0 131072 (finalByte alg)) s

/-- `PLATE_MARCH` of a site, destructive (DESIGN CHOICE, log entry 79): its plate holds the algorithm's final data; faults
found and rows repaired are returned. -/
def execSsPlateMarch (bus : Option SmBus) (faults : Fin 65536) (rows : List (Fin 16 × Fin 256)) (s : State) : Result :=
  .next (s.ssRun bus (· = 7) fun s site alg _ =>
    if 33 < site || decide (2 < alg) then (s, 2, [])
    else
      let (s, n) := s.repairAll site (rows.map fun e => (e.1.val, e.2.val))
      (s.marchFill site alg, 0, toBytes 4 faults ++ toBytes 4 n))

/-- `MEM_REPORT` of a controller: training values and failing channels, whose layout is not stated. -/
def execSsMemReport (bus : Option SmBus) (s : State) : Result :=
  .next (s.ssRun bus (· = 8) fun s n _ _ =>
    if 15 < n then (s, 2, []) else (s.draw, 0, s.freeBytes ((Config.freeValue s.fresh).toNat % 1025)))

/-- Any other opcode. -/
def execSsBadOpcode (bus : Option SmBus) (s : State) : Result :=
  .next (s.ssRun bus (fun o => o = 0 || decide (8 < o)) fun s _ _ _ => (s, 1, []))

/-! The Station cores (R381). -/

/-- A Station core reads a poisoned word of `PL31`: in code or constants the boot ROM reloads and restarts the firmware; in
working data the firmware rebuilds the structure. -/
def execStationPoisonRead (w : Fin 131072) (code : Bool) (s : State) : Result :=
  .next (
    let a := plateWord 31 w
    if s.platePoison.contains a && s.islandOn 5 then
      let s := { s with platePoison := s.platePoison.erase a }
      if code then { s with stationDown := true }.fsat Reg.SYS_POST Bit.SYS_POST_STATION_RESTARTS else s
    else s)

/-- The firmware runs again: the DOE mailbox answers what waited. -/
def execStationRestartDone (s : State) : Result :=
  .next (
    if !s.stationDown then s
    else
      let waiting := s.doeWait
      waiting.foldl (fun (s : State) (r : DoeReq) => s.doeAnswer r) { s with stationDown := false, doeWait := [] })

/-- The first entry of a plate's log that has counted 4 errors and whose stripe can be tested now (R131). -/
def State.ceEntry (s : State) : Option (Nat × Nat) :=
  ((List.range 32).flatMap fun p => (List.range 4).map fun k => (p, k)).find? fun e =>
    s.ceValid e.1 e.2 && decide (4 ≤ s.ceCount e.1 e.2) && !s.engineBusy (s.quadrantOf e.1) && !s.plateTransit e.1 && !s.inSubst e.1

/-- The firmware's answer to a row of a plate that has had 4 correctable errors (R131): a preserving March SS with repair of its
stripe, and the entry cleared. -/
def State.ceAnswer (s : State) : State :=
  if s.stationDown || s.posting.isSome || s.inReset || s.safe || !s.islandOn 5 then s
  else
    match s.ceEntry with
    | none => s
    | some (p, k) =>
      let stripe := getBits (s.rd (Reg.PST_CE_ROW p k)) 4 8 / 2
      let v := 1 + 4 + 16 + 32 + 2 ^ 6 * p + 2 ^ 12 * stripe + 2 ^ 19 * stripe
      (s.blinkCtlWrite (s.quadrantOf p) v).wr (Reg.PST_CE_ROW p k) 0

/-- What the device does of itself while no command waits: the firmware answers, and one ns passes (log entry 1). -/
def State.idle (s : State) : State := s.ceAnswer.tick

/-! Pipe self-tests (R382). -/

/-- Why a pipe test is refused. -/
def State.testRefusal (s : State) (p : Nat) : Option Nat :=
  if 36 ≤ p || decide (2 ≤ s.pipeRole p) then some 9
  else if s.states.any (fun m => (List.range 128).any fun h => hdf m h Hd.HEAD_EN = 1 && s.pipeServes m h p) then some 3
  else if s.testing.isSome then some 7
  else if s.swaps.any (fun (x : Swap) => x.spare = spareOf p) then some 8
  else none

/-- A write of `SYS_SELFTEST`. -/
def State.selftestWrite (s : State) (v : Nat) : State :=
  let off := Reg.SYS_SELFTEST
  let p := v % 64
  let s := s.fset off Bit.SYS_SELFTEST_PIPE p
  if !bitOf v 6 then s
  else match s.testRefusal p with
    | some code => (s.fset off Bit.SYS_SELFTEST_REFUSED 1).fset off Bit.SYS_SELFTEST_REFUSE_CODE code
    | none => { s with testing := some p }.fset off Bit.SYS_SELFTEST_BUSY 1
/-- A write of `GO` for pipe p. -/
def execSelftestGo (p : Fin 64) (s : State) : Result :=
  .next (s.access Reg.SYS_SELFTEST fun s => s.selftestWrite (p + 64))

/-- The test of a pipe ends; a pipe that fails becomes failed, and an unused spare is lost. -/
def execSelftestDone (pass : Bool) (s : State) : Result :=
  .next (
    match s.testing with
    | none => s
    | some p =>
      let off := Reg.SYS_SELFTEST
      let s := ({ s with testing := none }.fset off Bit.SYS_SELFTEST_BUSY 0).fset off Bit.SYS_SELFTEST_DONE 1
      let s := s.fset off Bit.SYS_SELFTEST_PASS (b2n pass)
      if pass then s
      else
        let free := s.fget Reg.SYS_SPARE_STATUS Bit.SYS_SPARE_STATUS_PIPES_FREE
        let lost := p % 9 = 8 && !s.spareUsed_ p
        let s := { s with pipeRoles := tabPut p 2 s.pipeRoles }
        if lost then s.fset Reg.SYS_SPARE_STATUS Bit.SYS_SPARE_STATUS_PIPES_FREE (free - 1) else s)

/-! The lock (R398). -/

/-- A write of `SYS_LOCK` by the PF. -/
def execSysLockWrite (v : Word) (s : State) : Result :=
  .next (s.access Reg.SYS_LOCK fun s => if bitOf v.toNat 0 then s.fset Reg.SYS_LOCK Bit.SYS_LOCK_LOCK 1 else s)

end Sys2Proof.Machine
end

