-- ==== Sys2Proof/Machine/RegisterFile.lean ====
section
/-! DEFINITION. BAR0 as each function sees it (R391, R394, R395), reads and writes by field type (R6, R7, R392, R393), the
rows of plain register accesses. -/

namespace Sys2Proof.Machine

/-! Views. -/

/-- The register at `off` of the function page of VF k (R394). -/
def fnPage (k off : Nat) : Option Nat :=
  if off = 0 then some (Reg.PWR_LAT k)
  else if off = 4 then some (Reg.EVC_FN_IDLE k)
  else if 0x10 ≤ off ∧ off < 0x24 then some (Reg.EVC_FN_RING_BASE_LO k + (off - 0x10))
  else if 0x30 ≤ off ∧ off < 0x3C then some (Reg.EPH_FN_LOCAL k + (off - 0x30))
  else if 0x40 ≤ off ∧ off < 0x50 then some (Reg.PCI_FN_LAYER k + (off - 0x40))
  else if 0x50 ≤ off ∧ off < 0x60 then some (Reg.VF_FN_HEADS_W k ((off - 0x50) / 4))
  else none

/-- The register at offset `off` of the BAR0 of VF k (R394); none for reserved space and for an instance that the VF does not
own. -/
def State.vfView (s : State) (k off : Nat) : Option Nat :=
  let own (b : Bool) (key : Nat) : Option Nat := if b then some key else none
  if off < 8 then some off
  else if 0x1000 ≤ off ∧ off < 0x1060 then fnPage k (off - 0x1000)
  else if 0x2000 ≤ off ∧ off < 0x2400 then some (Reg.CP_CTL k + (off - 0x2000))
  else if 0x3000 ≤ off ∧ off < 0x3018 then some (Reg.VF_PMAP_SEL k + (off - 0x3000))
  else if 0x4000 ≤ off ∧ off < 0x4200 then own (s.groupFn ((off - 0x4000) / 16) = k) (Reg.EPH_GRP_FN 0 + (off - 0x4000))
  else if 0x4800 ≤ off ∧ off < 0x4A00 then own (s.groupFn ((off - 0x4800) / 16) = k) (0x3B9800 + (off - 0x4800))
  else if 0x8000 ≤ off ∧ off < 0xC000 then own (s.chanFn ((off - 0x8000) / 0x100) = k) (Reg.DMA_CTL 0 + (off - 0x8000))
  else if 0x10000 ≤ off ∧ off < 0x1C000 then own (s.sourceFn ((off - 0x10000) / 8) = k) (Reg.EVC_SRC_CFG 0 + (off - 0x10000))
  else if 0x1C000 ≤ off ∧ off < 0x1C100 then some (Reg.EVC_VEC_CFG (vecIndex k ((off - 0x1C000) / 4)))
  else if 0x20000 ≤ off ∧ off < 0x40000 then own (s.headFn ((off - 0x20000) / 0x400) = k) (Reg.FSQ_CTL 0 + (off - 0x20000))
  else if 0x40000 ≤ off ∧ off < 0x40400 then own (s.headFn ((off - 0x40000) / 8) = k) (Reg.OCC_HEAD_STAT 0 + (off - 0x40000))
  else if 0x50000 ≤ off ∧ off < 0x50400 then some (Reg.VF_MSIX_ADDR_LO k 0 + (off - 0x50000))
  else if 0x58000 ≤ off ∧ off < 0x58008 then some (Reg.VF_MSIX_ADDR_LO k 0 + (off - 0x50000))
  else if 0x60000 ≤ off ∧ off < 0x80000 then
    own (s.headFn ((off - 0x60000) / 0x400) = k && decide ((off - 0x60000) % 0x400 ≠ 0) &&
      decide ((off - 0x60000) % 0x400 ≠ 0x2C)) (0x380000 + (off - 0x60000))
  else if 0x80000 ≤ off ∧ off < 0xC0000 then own (s.streamFn ((off - 0x80000) / 0x40) = k) (Reg.ING_CFG 0 + (off - 0x80000))
  else if 0xC0000 ≤ off ∧ off < 0x100000 then
    let h := (off - 0xC0000) / 0x800
    let o := (off - 0xC0000) % 0x800
    own (s.headFn h = k) (0x300000 + 0x1000 * h + (if o < 0x400 then o else o + 0x400))
  else if 0x100000 ≤ off ∧ off < 0x200000 then own (s.slotFn ((off - 0x100000) / 256) = k) (0x200000 + (off - 0x100000))
  else none

/-- `SYS_SS_CMD` to `SYS_SS_DATA`, which exist in Safe Station alone (R377). -/
def ssOffset (off : Nat) : Bool :=
  (decide (0x300 ≤ off) && decide (off < 0x310)) || (decide (0x400 ≤ off) && decide (off < 0x800))

/-- The PF's partition words, which the PF itself does not have (R319). -/
def pfReserved (off : Nat) : Bool := decide (Reg.PCI_FN_LAYER 0 ≤ off) && decide (off < Reg.PCI_FN_CTL 0)

/-- The register that a word offset of a function's own view names, under its key in the state: its PF offset, or a place
beyond the PF's BAR0 for the registers that each VF has of its own (log entry 4). -/
def State.resolve (s : State) (f off : Nat) : Option Nat :=
  let off := off / 4 * 4
  let key := if f = 0 then (if off < 2 ^ 24 && !pfReserved off then some off else none) else s.vfView f off
  match key with
  | some k => if (if s.safe then safeOffset k else !ssOffset k) then some k else none
  | none => none

/-- A VF may read the register and not write it (R303, R394, `EPH_GRP_FN`). -/
def vfReadOnly (key : Nat) : Bool :=
  (decide (0x3B9000 ≤ key) && decide (key < 0x3B9200) && decide (key % 16 = 0)) ||
  (decide (0x3BA000 ≤ key) && decide (key < 0x3BA200)) || (decide (0x42000 ≤ key) && decide (key < 0x43000)) ||
  (decide (0x820000 ≤ key) && decide (key < 0x860000) && decide (4 ≤ key % 64) && decide (key % 64 < 20))

/-! Reads. -/

/-- A read of the low half of a pair takes its snapshot (R393, R395). -/
def State.snapshot (s : State) (f key : Nat) : State :=
  match regAt key with
  | some (d, ix) =>
    let i := ix.headD 0
    if d.base = Reg.SID_NOW_LO then s.sidSnap
    else if d.base = Reg.SID_PTM_OFS_LO then s.ptmSnap
    else if d.base = Reg.CD_NOW_FRAC 0 then s.cdNowSnap i
    else if d.base = Reg.FET_AP_CREDIT_LO then s.apSnap
    else if d.base = Reg.JRN_SEQ_LO then
      (s.wr Reg.JRN_SEQ_LO (s.jrn.seq % 2 ^ 32)).wr Reg.JRN_SEQ_HI (s.jrn.seq / 2 ^ 32)
    else if d.base = Reg.ING_FENCE_VAL_LO 0 then
      (s.wr key ((s.stream i).fence % 2 ^ 32)).wr (key + 4) ((s.stream i).fence / 2 ^ 32)
    else if d.base = Reg.VF_PMAP_LO 0 then
      let p := s.rd (Reg.VF_PMAP_SEL f)
      let mine := s.fget (Reg.PMAP_ENTRY_LO p) Bit.PMAP_ENTRY_LO_FN = f
      (s.wr key (if mine then s.pmapLo p else 0)).wr (key + 4) (if mine then s.rd (Reg.PMAP_ENTRY_HI p) else 0)
    else s
  | none => s

/-- The page whose entry a read of the register returns (R96). -/
def State.entryRead (s : State) (f key : Nat) : Option Nat :=
  if 0x100000 ≤ key ∧ key < 0x200000 then some ((key - 0x100000) / 8)
  else if f ≠ 0 && decide (key = Reg.VF_PMAP_LO f) then some (s.rd (Reg.VF_PMAP_SEL f))
  else none

/-- A status field of a catalogue, which the device writes (R35). -/
def isStatus : ShadowObj → Bool
  | .layer _ i => match catFind layerFields i with | some c => !c.program | none => false
  | .head _ i => match catFind headFields i with | some c => !c.program | none => false
  | .sig _ _ i => match catFind sigFields i with | some c => !c.program | none => false
  | _ => false

/-- The word of a shadow object as function f reads it: the shadow value, or the active one under `CP_VIEW.ACTIVE` (R6, R27);
a status field as the device keeps it, the owner of a slot as the partition gives it. -/
def State.readObj (s : State) (f key : Nat) (obj : ShadowObj) : Nat :=
  match obj with
  | .layer sl i => if i = Lyr.OWNER_FN then s.slotFn sl else if isStatus obj then s.rd key else view key
  | _ => if isStatus obj then s.rd key else view key
where
  view (key : Nat) : Nat := viewWord (if s.fbit (Reg.CP_VIEW f) Bit.CP_VIEW_ACTIVE then s.active else s.shadow) key

/-- What `VF_CLR_DATA` of VF k returns (R395): coefficient rows, and what the VF owns. -/
def State.vfColour (s : State) (k : Nat) : Nat :=
  let key := 0x400000 + s.rd (Reg.VF_CLR_ADDR k)
  match shadowObj key with
  | some (.hcoef r w) => s.readObj k key (.hcoef r w)
  | some (.vcoef r w) => s.readObj k key (.vcoef r w)
  | some obj => if s.shadowOwner obj = k then s.readObj k key obj else 0
  | none => 0

/-- A word of the pending-bit array (R321). -/
def State.pbaWord (s : State) (f w : Nat) : Nat :=
  sumOf ((List.range 32).map fun i => if s.vecPending f (32 * w + i) then 2 ^ i else 0)

/-- The pending-bit array that a key lies in: function and word. -/
def pbaAt (key : Nat) : Option (Nat × Nat) :=
  if 0x58000 ≤ key ∧ key < 0x58100 then some (0, (key - 0x58000) / 4)
  else if 0x1000000 ≤ key ∧ 0x58000 ≤ (key - 0x1000000) % 0x200000 ∧ (key - 0x1000000) % 0x200000 < 0x58008 then
    some ((key - 0x1000000) / 0x200000, ((key - 0x1000000) % 0x200000 - 0x58000) / 4)
  else none

/-- Fields whose value follows other state rather than being kept in the word. -/
def State.liveFields (s : State) (d : RegDesc) (ix : List Nat) (w : Nat) : Nat :=
  let i := ix.headD 0
  let j := ix.getD 1 0
  let put (f : Fld) (v : Nat) : Nat := setBits w f.lo f.width v
  if d.base = Reg.THM_STATUS then put Bit.THM_STATUS_THROTTLE (b2n s.throttled)
  else if d.base = Reg.PWR_STATUS then put Bit.PWR_STATUS_CEILING s.ceiling
  else if d.base = Reg.EVC_FN_IDLE 0 then put Bit.EVC_FN_IDLE_ASLEEP (b2n (s.fnAsleep i))
  else if d.base = Reg.EVC_SC_CTL 0 then put Bit.EVC_SC_CTL_ASLEEP (b2n s.coreAsleep)
  else if d.base = Reg.EVC_SRC_CFG 0 then (if 5539 ≤ i then 0 else put Bit.EVC_SRC_CFG_FN (s.sourceFn i))
  else if d.base = Reg.ING_CFG 0 then put Bit.ING_CFG_FN (s.streamFn i)
  else if d.base = Reg.PCI_APT_BASE_LO 0 then w / 2 ^ (s.fn i).bar2 * 2 ^ (s.fn i).bar2
  else if d.base = Reg.PCI_APT_BASE_HI 0 then 2 ^ 32 * w / 2 ^ (s.fn i).bar2 * 2 ^ (s.fn i).bar2 / 2 ^ 32
  else if d.base = Reg.PMAP_ENTRY_LO 0 then s.pmapLo i
  else if d.base = Reg.VF_FN_HEADS_W 0 0 then
    sumOf ((List.range 32).map fun b => if s.headFn (32 * j + b) = i then 2 ^ b else 0)
  else if d.base = Reg.VF_CLR_DATA 0 then s.vfColour i
  else if d.base = Reg.EPH_SVC_LOCAL then (if s.posting.isSome then 0 else s.svcLocal)
  else if d.base = Reg.EPH_SVC_HOST then
    (if s.posting.isSome then 0 else min 160000 ((242000 - 2000 - s.cirPcie) * 57344 / 65536))
  else w

/-- The word of the register at a key as function f reads it. -/
def State.wordAtKey (s : State) (f key : Nat) : Nat :=
  match pbaAt key with
  | some (g, w) => s.pbaWord g w
  | none =>
    match shadowObj key with
    | some obj => s.readObj f key obj
    | none =>
      match regAt key with
      | some (d, ix) => s.liveFields d ix (s.rd key)
      | none => 0

/-- A register, a shadow word or a pending-bit word stands at the key; any other offset is reserved (R7). -/
def keyDefined (key : Nat) : Bool := (pbaAt key).isSome || (shadowObj key).isSome || (regAt key).isSome

/-- One 32-bit read by function f at a word offset of its view: the state after it and the word, or none while it must wait
(R96). Reserved space and what the function does not own read zero (R7, R394), as does a powered-down island (R13). -/
def State.readWord (s : State) (f off : Nat) : State × Option Nat :=
  match s.resolve f off with
  | none => (s, some 0)
  | some key =>
    if !keyDefined key then (s, some 0)
    else if !s.islandOn (islandOf key) then (s.sleepAccess (islandOf key), some 0)
    else if (match s.entryRead f key with | some p => s.earlierPending p | none => false) then (s, none)
    else
      let s := s.snapshot f key
      (s, some (s.wordAtKey f key))

/-- Successive words (R392); none while one must wait. -/
def State.readWords (s : State) (f off : Nat) : Nat → State × Option (List Byte)
  | 0 => (s, some [])
  | n + 1 =>
    match s.readWord f off with
    | (s, none) => (s, none)
    | (s, some w) =>
      match s.readWords f (off + 4) n with
      | (s, some rest) => (s, some (toBytes 4 w ++ rest))
      | (s, none) => (s, none)

/-- A host read of `len` bytes of BAR0 is answered (R392); a read that must wait leaves the state as it is. -/
def State.hostRead (s : State) (f off len : Nat) : State :=
  if 64 < len then s.send (.unsupported f)
  else
    match s.readWords f (off / 4 * 4) (ceilDiv (off % 4 + len) 4) with
    | (t, some b) => t.send (.completion f ((b.drop (off % 4)).take len) false)
    | (_, none) => s

/-! Writes by field type (R6, R8). -/

/-- A field of a word after a plain write of `v`. -/
def writeField (locked : Bool) (v w : Nat) (f : Fld) : FieldType → Nat
  | .rw => setBits w f.lo f.width (getBits v f.lo f.width)
  | .w1c => if bitOf v f.lo then setBits w f.lo f.width 0 else w
  | .w1s => if bitOf v f.lo then setBits w f.lo f.width 1 else w
  | .lk => if locked then w else setBits w f.lo f.width (getBits v f.lo f.width)
  | .ro | .wo | .sh => w

/-- The written value without the clears and sets that lose against a hardware update of their bit in the write's island
cycle (R8); `raced` has a 1 for each such bit. -/
def dropRaced (raced v : Nat) (fields : List (Fld × FieldType)) : Nat :=
  fields.foldl (fun v x =>
    if (x.2 = .w1c || x.2 = .w1s) && bitOf raced x.1.lo then setBits v x.1.lo x.1.width 0 else v) v

/-- A word after a plain write. -/
def writeFields (locked : Bool) (v : Nat) (fields : List (Fld × FieldType)) (w : Nat) : Nat :=
  fields.foldl (fun w x => writeField locked v w x.1 x.2) w

/-- Counts that return to zero when the flag at a bit is cleared: bit and count, by register. -/
def countsOf (base : Nat) : List (Nat × Fld) :=
  (([(Reg.SYS_CROSS_STATUS, [(10, ⟨16, 16⟩)]), (Reg.CP_STATUS 0, [(13, ⟨16, 16⟩)]), (Reg.FSQ_STATUS 0, [(12, ⟨16, 16⟩)]),
     (Reg.SYS_PMAP_STATUS, [(23, ⟨24, 8⟩)]), (Reg.MC_ECC_STATUS 0, [(1, ⟨16, 8⟩)]),
     (Reg.PST_PLATE_ERR 0, [(0, ⟨16, 8⟩), (1, ⟨24, 8⟩)]), (Reg.PST_COLLIDE 0, [(28, ⟨0, 16⟩)]),
     (Reg.FET_HOST_STATUS, [(0, ⟨16, 8⟩), (1, ⟨24, 8⟩)]), (Reg.FET_PIPE_HOLD 0, [(0, ⟨8, 24⟩)]),
     (Reg.OCC_HEAD_UNPLANNED 0, [(0, ⟨16, 16⟩)]), (Reg.MC_SCHED_STATUS 0, [(0, ⟨16, 16⟩)]),
     (Reg.EPH_STATUS, [(0, ⟨16, 16⟩)]), (Reg.PRT_LINK_STATUS 0, [(13, ⟨16, 8⟩)]), (Reg.PRT_HPD 0, [(3, ⟨8, 8⟩)])] :
    List (Nat × List (Nat × Fld))).find? fun x => x.1 = base).elim [] (·.2)

/-- A plain write of the word of a register: by field type, then the counts of the flags it clears. -/
def State.plainWrite (s : State) (d : RegDesc) (key v : Nat) : State :=
  let w := writeFields (s.fbit Reg.SYS_LOCK Bit.SYS_LOCK_LOCK) v d.fields (s.rd key)
  s.wr key ((countsOf d.base).foldl (fun w c => if bitOf v c.1 then setBits w c.2.lo c.2.width 0 else w) w)

/-- A value with one field brought within bounds. -/
def clampField (f : Fld) (lo hi v : Nat) : Nat := setBits v f.lo f.width (max lo (min hi (getBits v f.lo f.width)))

/-- `SID_RATE` as stored: ±20,000 (R274). -/
def clampRate (v : Nat) : Nat := (max (-20000) (min 20000 (signed 32 v)) % (2 ^ 32 : Int)).toNat

/-- The value that a register stores for a written value, where its table says that another is stored. -/
def State.stored (s : State) (base i v : Nat) : Nat :=
  if base = Reg.CP_RING_SIZE 0 then clampField Bit.CP_RING_SIZE_SIZE 0 12 v
  else if base = Reg.FET_AP_SEL then clampField Bit.FET_AP_SEL_PIPE 0 35 v
  else if base = Reg.FET_CTL then
    clampField Bit.FET_CTL_HOST_LAT 1 40 (clampField Bit.FET_CTL_HOST_TIMEOUT 10 255 v)
  else if base = Reg.EPH_GC_RATE then clampField Bit.EPH_GC_RATE_RATE 0 65536 v
  else if base = Reg.CD_REF 0 then
    clampField Bit.CD_REF_NUM 1 (if s.refPulse i then 8 else 65535) (clampField Bit.CD_REF_DEN 1 65535 v)
  else if base = Reg.CD_SLOPE 0 then
    clampField Bit.CD_SLOPE_SLOPE 1 2000 (clampField Bit.CD_SLOPE_OFS_LIMIT 1 2000 v)
  else if base = Reg.CD_PROF_SEG 0 0 then clampField Bit.CD_PROF_SEG_SLOPE 1 2000 v
  else if base = Reg.CD_QUAL 0 then clampField Bit.CD_QUAL_QUAL_MS 10 10000 (clampField Bit.CD_QUAL_TOL 1 1023 v)
  else if base = Reg.CD_OUT_DIV 0 then clampField Bit.CD_OUT_DIV_DIV 5 4095 v
  else if base = Reg.SID_CTL then clampField Bit.SID_CTL_PTM_MODE 0 2 (clampField Bit.SID_CTL_PTM_MS 1 1023 v)
  else if base = Reg.SID_RATE then clampRate v
  else if base = Reg.EVC_CTL then
    clampField Bit.EVC_CTL_HOLD_MS 1 65535 (if getBits v 3 2 = 3 then setBits v 3 2 0 else v)
  else if base = Reg.EVC_FN_RING_CTL 0 then
    clampField Bit.EVC_FN_RING_CTL_SIZE 0 12
      (if s.fbit (Reg.EVC_FN_RING_CTL i) Bit.EVC_FN_RING_CTL_EN then
        setBits v 1 4 (s.fget (Reg.EVC_FN_RING_CTL i) Bit.EVC_FN_RING_CTL_SIZE) else v)
  else if base = Reg.PWR_CTL then clampField Bit.PWR_CTL_MAX_STATE 0 5 (clampField Bit.PWR_CTL_STATIC_FRAMES 1 255 v)
  else v

/-- Registers whose writes are ignored in the state that their table names. -/
def State.writeIgnored (s : State) (base i : Nat) : Bool :=
  if base = Reg.CP_RING_BASE_LO 0 || base = Reg.CP_RING_BASE_HI 0 || base = Reg.CP_RING_SIZE 0 then
    s.fbit (Reg.CP_CTL i) Bit.CP_CTL_ENABLE
  else if base = Reg.ING_SLOT_BASE_LO 0 || base = Reg.ING_SLOT_BASE_HI 0 || base = Reg.ING_FENCE_LO 0 ||
      base = Reg.ING_FENCE_HI 0 then s.fbit (Reg.ING_CFG i) Bit.ING_CFG_EN
  else if base = Reg.EVC_FN_RING_BASE_LO 0 || base = Reg.EVC_FN_RING_BASE_HI 0 then
    s.fbit (Reg.EVC_FN_RING_CTL i) Bit.EVC_FN_RING_CTL_EN
  else if base = Reg.DMA_DESC_LO 0 || base = Reg.DMA_DESC_HI 0 then decide (s.chanState i ≠ 0)
  else if base = Reg.DMA_GLOBAL then (List.range 64).any fun c => decide (s.chanState c ≠ 0)
  else if base = Reg.SID_RATE then decide (s.fget Reg.SID_CTL Bit.SID_CTL_PTM_MODE = 2)
  else (base = Reg.CD_DIV 0 || base = Reg.CD_FRAC 0 || base = Reg.CD_FMAX 0) && decide (i = 8)

/-- A new slope or rate holds from now on: the ramps and the bucket are settled first (R217, R263). -/
def State.beforeWrite (s : State) (base : Nat) : State :=
  if base = Reg.CD_SLOPE 0 || base = Reg.CD_PROF_SEG 0 0 then s.settle else if base = Reg.EPH_GC_RATE then s.gcRefill else s

/-- What a plain write brings about beside the stored word. -/
def State.afterWrite (s : State) (base i : Nat) : State :=
  if base = Reg.FET_CTL then s.ltrCheck
  else if base = Reg.CD_OUT_DIV 0 then s.outCheck i
  else if base = Reg.CD_REF 0 then s.refChanged i
  else if base = Reg.SID_CTL then s.ptmOff
  else if base = Reg.SID_ALARM_LO 0 || base = Reg.SID_ALARM_HI 0 then s.alarmSet i
  else if base = Reg.PWR_CTL then s.powerEval
  else s

/-- What a write of a register acts on: the function and the value, the instance, and what a descriptor read over PCI Express
would return. -/
structure Poke where
  fn : Nat
  i : Nat
  j : Nat
  v : Nat
  r : ReadResult

/-- Commands by register write (R39, R43, R48, R50, R92, R96, R103, R120, R129, R132, R134, R238 to R262, R271 to R276, R287,
R295, R300, R311, R319, R320, R321, R333, R343, R346, R349, R359, R363, R378, R382): what a write of the register does, none
for a register that a write only stores. -/
def State.commandWrite (s : State) (base : Nat) (p : Poke) : Option State :=
  if base < 0x80000 then
    if base = Reg.SYS_BENCH_CTL then some (s.benchEn p.v)
    else if base = Reg.SYS_BENCH_COMMIT then some (s.benchCommit p.v)
    else if base = Reg.SYS_RETIRE_REQ then some (s.retireReq p.v)
    else if base = Reg.SYS_PIPE_SWAP_REQ then some (s.swapReq (p.v % 64))
    else if base = Reg.SYS_SS_CMD then some (s.ssCmdWrite p.v)
    else if base = Reg.PCI_HEAD_FN 0 then (if h : p.i < 128 then some (s.partWrite (.head ⟨p.i, h⟩) p.v) else none)
    else if base = Reg.PCI_FN_LAYER 0 then (if h : p.i < 32 then some (s.partWrite (.layers ⟨p.i, h⟩) p.v) else none)
    else if base = Reg.PCI_FN_STREAM 0 then (if h : p.i < 32 then some (s.partWrite (.streams ⟨p.i, h⟩) p.v) else none)
    else if base = Reg.PCI_FN_DMA_LO 0 then (if h : p.i < 32 then some (s.partWrite (.dmaLo ⟨p.i, h⟩) p.v) else none)
    else if base = Reg.PCI_FN_DMA_HI 0 then (if h : p.i < 32 then some (s.partWrite (.dmaHi ⟨p.i, h⟩) p.v) else none)
    else if base = Reg.PCI_FN_CTL 0 then
      let s := s.fset (Reg.PCI_FN_CTL p.i) Bit.PCI_FN_CTL_IDE_REQUIRED (getBits p.v 1 1)
      some (if bitOf p.v 0 && decide (p.i ≠ 0) then s.reclaim p.i else s)
    else if base = Reg.MSIX_ADDR_LO 0 then some (s.msixWrite 0 p.i 0 p.v)
    else if base = Reg.MSIX_ADDR_HI 0 then some (s.msixWrite 0 p.i 1 p.v)
    else if base = Reg.MSIX_DATA 0 then some (s.msixWrite 0 p.i 2 p.v)
    else if base = Reg.MSIX_CTRL 0 then some (s.msixWrite 0 p.i 3 p.v)
    else if base = Reg.EVC_SRC_CFG 0 then some (s.srcCfgWrite p.fn p.i p.v)
    else if base = Reg.EVC_FN_IDLE 0 then some (s.fnIdleWrite p.fn p.i p.v)
    else none
  else if base < 0x400000 then
    if base = Reg.PMAP_ENTRY_LO 0 then some (s.pmapWrite p.i false p.v)
    else if base = Reg.PMAP_ENTRY_HI 0 then some (s.pmapWrite p.i true p.v)
    else if base = Reg.PST_OWN_REQ 0 then some (s.ownReq p.i p.v)
    else if base = Reg.PST_CE_ROW 0 0 then some (if bitOf p.v 24 then s.wr (Reg.PST_CE_ROW p.i p.j) 0 else s)
    else if base = Reg.PST_BLINK_CTL 0 then some (s.blinkCtlWrite p.i p.v)
    else if base = Reg.PST_SUBST_REQ then some (s.substReq (p.v % 32))
    else if base = Reg.PRT_QUAD_MODE 0 then some (s.quadWrite p.i p.v)
    else if base = Reg.PRT_LINK_CTL 0 then some (s.linkCtlWrite p.i p.v)
    else if base = Reg.PRT_AUX_CMD 0 then some (s.auxCmd p.i p.v)
    else if base = Reg.PRT_MAN_CTL 0 then some (s.manCtlWrite p.i p.v)
    else if base = Reg.PRT_LANE 0 then some (s.laneWrite p.i p.v)
    else none
  else if base < 0x820000 then
    if base = Reg.CD_CTL 0 then some (s.cdCtlWrite p.i p.v)
    else if base = Reg.CD_PROF_CTL 0 then some (s.profWrite p.i p.v)
    else if base = Reg.CD_SPARE_REQ then some (s.spareReq p.v)
    else if base = Reg.CD_OUT_CTL 0 then some (s.outCtlWrite p.i p.v)
    else if base = Reg.SID_SET_HI then some (s.sidSet p.v)
    else if base = Reg.SID_ALARM_CTL 0 then some (s.alarmCtl p.i p.v)
    else if base = Reg.JRN_CTL then some (s.jrnCtlWrite p.v)
    else if base = Reg.JRN_RD then some (s.jrnRdWrite p.v)
    else none
  else if base = Reg.ING_CFG 0 then some (s.ingCfgWrite p.fn p.i p.v)
  else if base = Reg.ING_CIR 0 then some (s.ingRateWrite p.i 0 p.v)
  else if base = Reg.ING_PIR 0 then some (s.ingRateWrite p.i 1 p.v)
  else if base = Reg.ING_CBS 0 then some (s.ingRateWrite p.i 2 p.v)
  else if base = Reg.ING_PBS 0 then some (s.ingRateWrite p.i 3 p.v)
  else if base = Reg.ING_OPEN 0 then some (s.slotOpen p.i (p.v % 256) p.r)
  else if base = Reg.ING_DONE 0 then some (if bitOf p.v 0 then s.slotDone p.i else s)
  else if base = Reg.DMA_CTL 0 then some (s.dmaCtlWrite p.i p.v)
  else if base = Reg.CP_CTL 0 then some (s.cpCtlWrite p.i p.v)
  else if base = Reg.CP_DOORBELL 0 then some (s.doorbell p.i p.v)
  else if base = Reg.FSQ_CTL 0 then some (s.fsqCtlWrite p.i p.v)
  else if base = Reg.FSQ_ENTRY_LO 0 then some (s.fsqEntryWrite p.i false p.v)
  else if base = Reg.FSQ_ENTRY_HI 0 then some (s.fsqEntryWrite p.i true p.v)
  else if base = Reg.AON_WATCH 0 then some (s.watchWrite p.i p.v)
  else if base = Reg.PWR_LAT 0 then some (s.pwrLatWrite p.i p.v)
  else if base = Reg.THM_SHED then some (s.shedWrite p.v)
  else if base = Reg.VF_MSIX_ADDR_LO 0 0 then some (s.msixWrite p.i p.j 0 p.v)
  else if base = Reg.VF_MSIX_ADDR_HI 0 0 then some (s.msixWrite p.i p.j 1 p.v)
  else if base = Reg.VF_MSIX_DATA 0 0 then some (s.msixWrite p.i p.j 2 p.v)
  else if base = Reg.VF_MSIX_CTRL 0 0 then some (s.msixWrite p.i p.j 3 p.v)
  else none

/-- A write of a register whose table holds flags beside a command: the flags are cleared first. -/
def State.flagsThen (s : State) (d : RegDesc) (key v : Nat) : State :=
  if d.base = Reg.SYS_SELFTEST then (s.plainWrite d key v).selftestWrite v else s.plainWrite d key v

/-- An `SH` write that is dropped: flagged and counted at the function's command processor (R50). -/
def State.shDrop (s : State) (f : Nat) : State :=
  (s.fset (Reg.CP_STATUS f) Bit.CP_STATUS_SH_DROP 1).fsat (Reg.CP_STATUS f) Bit.CP_STATUS_SH_DROP_COUNT

/-- A BAR0 write of a word of shadow state (R28, R34, R35, R50): status fields and preset rows ignore it in every mode; in
bench mode the PF's write joins the shadow writes; any other is dropped. -/
def State.shWrite (s : State) (f key : Nat) (obj : ShadowObj) (v : Nat) : State :=
  if shadowMask obj = 0 then s
  else if f = 0 && s.bench then { s with benchQ := s.benchQ ++ [.words [(key, shadowMask obj, v)]] }
  else s.shDrop f

/-- A write of function f reaches the register with a key; `raced` marks the bits that hardware updates in the same cycle. -/
def State.keyWrite (s : State) (f key v : Nat) (r : ReadResult) (raced : Nat) : State :=
  if f ≠ 0 && vfReadOnly key then s
  else
    match shadowObj key with
    | some obj => s.shWrite f key obj v
    | none =>
      match regAt key with
      | none => s
      | some (d, ix) =>
        let i := ix.headD 0
        let v := dropRaced raced v d.fields
        if d.base = Reg.VF_CLR_DATA 0 then s.shDrop f
        else if s.writeIgnored d.base i then s
        else
          match s.commandWrite d.base ⟨f, i, ix.getD 1 0, v, r⟩ with
          | some t => t
          | none => ((s.beforeWrite d.base).flagsThen d key (s.stored d.base i v)).afterWrite d.base i

/-- One 32-bit write by function f at a word offset of its view (R7, R13, R394). -/
def State.writeWord (s : State) (f off v : Nat) (r : ReadResult) (raced : Nat) : State :=
  match s.resolve f off with
  | none => s
  | some key => if keyDefined key then s.access key fun s => s.keyWrite f key v r raced else s

/-- A write request: its words in ascending order, each with its byte enables (R392); `raced` marks, word by word, the bits
that hardware updates in the same cycle (R8). -/
def State.writeWords (s : State) (f off : Nat) (r : ReadResult) (raced : List Word) : List (BitVec 4 × Word) → State
  | [] => s
  | (en, v) :: rest =>
    let s :=
      if en = 0 then s
      else if en ≠ 15 then s.regStatus Bit.SYS_REG_STATUS_PARTIAL f off
      else s.writeWord f off v.toNat r (raced.headD 0).toNat
    s.writeWords f (off + 4) r raced.tail rest

/-- A BAR0 write by function w (R6, R392): more than 64 bytes are dropped in full. A write during a reset is discarded
(R396). -/
def State.busWrite (s : State) (f off : Nat) (r : ReadResult) (raced : List Word) (words : List (BitVec 4 × Word)) :
    State :=
  if s.inReset then s
  else if 16 < words.length then s.regStatus Bit.SYS_REG_STATUS_PARTIAL f off
  else s.writeWords f off r raced words

/-- A BAR0 write of function w: the offset of its first word in the function's own view, its words with their byte enables, and its
side inputs. -/
def execRegisterWrite (w : FnId) (off : BitVec 22) (words : List (BitVec 4 × Word)) (x : WriteSide) (s : State) : Result :=
  .next (s.busWrite w (4 * off.toNat) x.read x.raced words)

/-- The PF reads `CD_NOW_FRAC` (R393). -/
def execCdNowSnapshot (n : DriveId) (s : State) : Result := .next (s.hostRead 0 (Reg.CD_NOW_FRAC n) 4)
/-- The PF reads `SID_PTM_OFS_LO` (R393). -/
def execSidPtmOfsSnapshot (s : State) : Result := .next (s.hostRead 0 Reg.SID_PTM_OFS_LO 4)
/-- The PF reads `SID_NOW_LO` (R393). -/
def execSidNowSnapshot (s : State) : Result := .next (s.hostRead 0 Reg.SID_NOW_LO 4)
/-- The PF reads `FET_AP_CREDIT_LO` (R393). -/
def execFetApCreditSnapshot (s : State) : Result := .next (s.hostRead 0 Reg.FET_AP_CREDIT_LO 4)
/-- The PF reads `JRN_SEQ_LO` (R393). -/
def execJrnSeqSnapshot (s : State) : Result := .next (s.hostRead 0 Reg.JRN_SEQ_LO 4)
/-- The PF reads `ING_FENCE_VAL_LO` of a stream (R393). -/
def execIngFenceValSnapshot (st : SlotId) (s : State) : Result := .next (s.hostRead 0 (Reg.ING_FENCE_VAL_LO st) 4)
/-- VF k reads `VF_PMAP_LO` (R395); the read waits as R96 says. -/
def execVfPmapSnapshot (k : FnId) (s : State) : Result := .next (if k.val = 0 then s else s.hostRead k 0x3004 4)

end Sys2Proof.Machine
end

