-- ==== Sys2Proof/Machine/Crossing.lean ====
section
/-! DEFINITION. Transfers between islands (R12, R13), loads and stores of the sequencers (R69 to R72), timeouts of host reads
(R322). -/

namespace Sys2Proof.Machine

/-! Stores (R71). -/

/-- A store is performed: in GDDR6, by entering the transmit queue (a host-window write while the link is down is dropped, R23),
or by the register write being applied; `r` and `raced` are as for `REGISTER_WRITE`. -/
def State.performStore (s : State) (q : Nat) (st : Store) (r : ReadResult) (raced : Word) : State :=
  match st.dest with
  | .localMem phys => s.store phys st.bytes
  | .hostWin fn a => if s.linkUp then s.send (.write fn a st.bytes) else s
  | .register off => if s.inReset then s else s.writeWord (s.seqFn q) off (ofBytes st.bytes) r raced.toNat

/-- Store k of a sequencer leaves its queue. -/
def Seq.dropStore (x : Seq) (k : Nat) : Seq := { x with stores := x.stores.eraseIdx k }

/-- Store k of sequencer q may be performed: no earlier one goes to the same 8-byte word of the same space. -/
def Seq.mayPerform (x : Seq) (k : Nat) (st : Store) : Bool :=
  (x.stores.take k).all fun e => !(e.word = st.word && e.toReg = st.toReg)

/-- Store k of sequencer q, counted from the oldest, is performed: a local one once its controller has served it, one to a
register unless it waits in a crossing. -/
def State.storePerformed (s : State) (q : SeqId) (k : Nat) (r : ReadResult) (raced : Word) : State :=
  let x := s.seq q
  match x.stores[k]? with
  | none => s
  | some st =>
    if !x.mayPerform k st then s
    else
      match st.dest with
      | .localMem phys =>
        if !s.memOn then s.touchMem
        else if s.unserved q phys then s
        else (s.setSeq q (x.dropStore k)).performStore q st r raced
      | .hostWin .. => (s.setSeq q (x.dropStore k)).performStore q st r raced
      | .register _ => if s.inTransit (.seqStore q) then s else (s.setSeq q (x.dropStore k)).performStore q st r raced

/-- A queued store is performed; the side inputs are as for `REGISTER_WRITE`. -/
def execStorePerformed (q : SeqId) (k : Fin 8) (x : WriteSide) (s : State) : Result :=
  .next (s.storePerformed q k x.read (x.raced.headD 0))

/-! Loads (R69, R72, R90, R322). -/

/-- The blocked load takes its value: zero-extended into gd, and the sequencer goes on. -/
def State.loadDone (s : State) (q dest v next : Nat) : State :=
  s.setSeq q ({ s.seq q with waiting := .nothing, linkWait := false, pc := next }.setReg dest (BitVec.ofNat 64 v))

/-- A read of a sequencer fails with `MEMORY_ERROR`; gd is unchanged. -/
def State.readFailed (s : State) (q : Nat) : State := s.seqFault q 0x06 true

/-- A load's data, error or timeout returns. A register-space load reads the register now; a local load reads memory now, and
`r` only says whether the word is uncorrectable; `r` is what the host answers to a host-window load. -/
def State.loadReturn (s : State) (q : SeqId) (r : ReadResult) : State :=
  match (s.seq q).waiting with
  | .load dest size _ src _ next =>
    (match src with
     | .localMem phys =>
       if !s.memOn then s.touchMem
       else if s.unserved q phys then s
       else
         match s.localRead phys size (r = .uncorrectable) with
         | (s, some b) => s.loadDone q dest (ofBytes b) next
         | (s, none) => s.readFailed q
     | .register off =>
       if s.inTransit (.seqLoad q) then s
       else
       (match s.readWord (s.seqFn q) off with
        | (t, some w) => t.loadDone q dest w next
        | (_, none) => s)
     | .hostWin fn a =>
       (match s.hostAnswer fn a r with
        | .data b => s.loadDone q dest (ofBytes (b.take size)) next
        | .poisoned => (s.aerLog fn 1).readFailed q
        | .timeout =>
          if s.linkUp && s.seqState q ≠ 5 then (s.aerLog fn 2).readFailed q
          else if q < 32 then
            (s.setSeq q { s.seq q with waiting := .nothing, linkWait := true }).setSeqState q 5
          else s.seqFault q 0x07 true
        | _ => s.readFailed q))
  | _ => s

/-- The data of a blocked load returns. -/
def execLdwDataReturn (q : SeqId) (r : ReadResult) (s : State) : Result := .next (s.loadReturn q r)

/-! Transfers between islands (R12, R13). -/

/-- The read request of a tag is lost: an error completion, served by line hold. -/
def State.tagLost (s : State) (t : Nat) : State :=
  match tabGet s.tags t with
  | some x => (s.updWord x fun y => { y with status := if x.state = 2 then 5 else 3 }).dropTag t
  | none => s

/-- The offset of a register-space load that sequencer q waits for. -/
def Seq.loadOffset (x : Seq) : Option Nat :=
  match x.waiting with
  | .load _ _ _ (.register off) _ _ => some off
  | _ => none

/-- Sequencer q waits for a read. -/
def Seq.reading (x : Seq) : Bool :=
  match x.waiting with
  | .load .. => true
  | .fetch .. => true
  | .atom .. => true
  | _ => false

/-- A transfer to an island is dropped after its resend failed (R12). -/
def State.transferLost (s : State) (island : Nat) : Transfer → State
  | .hostWrite f off _ _ _ => s.crossingLoss island (some (f.val, off.toNat))
  | .hostRead f off len =>
    (s.crossingLoss island (some (f.val, off.toNat))).send (.completion f (List.replicate len.val 0xFF) true)
  | .seqLoad q =>
    let x := s.seq q
    let s := s.crossingLoss island (x.loadOffset.map fun o => (s.seqFn q, o))
    if x.reading then s.readFailed q else s
  | .seqStore q =>
    (match (s.seq q).stores with
     | [] => s.crossingLoss island none
     | st :: _ =>
       let lost := s.crossingLoss island (match st.dest with | .register o => some (s.seqFn q, o) | _ => none)
       lost.setSeq q ((lost.seq q).dropStore 0))
  | .fetchRead t => (s.crossingLoss island none).tagLost t
  | .other => s.crossingLoss island none

/-- A transfer arrives whole: a host access of a register takes effect; the other transfers have rows of their own for what
they bring. -/
def State.transferDone (s : State) : Transfer → State
  | .hostWrite f off v r raced => s.busWrite f off.toNat r [raced] [(15, v)]
  | .hostRead f off len => s.hostRead f off.toNat len
  | _ => s

/-- The clock of an island may be gated now (R13, R348): in PS1 or deeper, not that of a pipe that serves a running head, and that of
the command/sequencer island only while no sequencer has work. -/
def State.mayGate (s : State) (i : Nat) : Bool :=
  decide (1 ≤ s.powerState) && s.islandOn i && decide (i ≠ 0) &&
    !(decide (i = 2) && (List.range 160).any fun q => decide (s.seqState q ∈ [2, 3, 5])) &&
    !(decide (26 ≤ i) && decide (i < 62) && (List.range 128).any fun h => s.headRunning h && s.pipeServes s.active h (i - 26))

/-- The sending island of a transfer, which with the receiving one names its channel (R12): the PCIe core for host accesses, the
command/sequencer island, the pipe of a fetch; 70 where the sender is not told. -/
def State.senderOf (s : State) : Transfer → Nat
  | .hostWrite .. => 1
  | .hostRead .. => 1
  | .seqLoad _ => 2
  | .seqStore _ => 2
  | .fetchRead t => match tabGet s.tags t with | some x => islandPipe x.pipe | none => 70
  | .other => 70

/-- A transfer has to wait behind an earlier one of its channel. -/
def State.behind (s : State) (e : Crossing) : Bool :=
  s.crossings.any fun y => y.island = e.island && decide (s.senderOf y.transfer = s.senderOf e.transfer)

/-- The next transfer in sending order: it waits while its island sleeps, for its resend, or behind an earlier one of its channel;
otherwise it arrives whole, or is discarded for its parity and waits for its resend (R12). -/
def State.passOne (s : State) (e : Crossing) : State :=
  if e.asleep || e.failed || s.behind e then { s with crossings := s.crossings ++ [e] }
  else if e.ok then s.transferDone e.transfer
  else { s with crossings := s.crossings ++ [{ e with failed := true }] }

/-- Every transfer that can arrive does, each channel in the order of sending (R12). -/
def State.passAll (s : State) (l : List Crossing) : State := l.foldl State.passOne { s with crossings := [] }

/-- A transfer reaches the receiving island `i`: `asleep` says that its clock is gated, `ok` that the parity is right. -/
def execCrossingTransfer (i : IslandId) (x : Transfer) (ok asleep : Bool) (s : State) : Result :=
  .next (
    let gated := (asleep && s.mayGate i) || s.crossings.any fun y => y.island = i.val && y.asleep
    s.passAll (s.crossings ++ [⟨i, x, ok, false, gated⟩]))

/-- The oldest transfer to island `i` that failed parity once is resent: corrected, or lost; those behind it follow. -/
def execCrossingResend (i : IslandId) (ok : Bool) (s : State) : Result :=
  .next (
    match s.crossings.find? fun y => y.island = i.val && y.failed with
    | none => s
    | some e =>
      let rest := s.crossings.erase e
      let s := { s with crossings := rest }
      let s := if ok then (s.fset Reg.SYS_CROSS_STATUS Bit.SYS_CROSS_STATUS_CROSS_RETRY 1).transferDone e.transfer
        else s.transferLost i e.transfer
      s.passAll rest)

/-- A gated island has woken: the transfers that wait for it arrive, in the order in which they were sent. -/
def execIslandWakeDone (i : IslandId) (s : State) : Result :=
  .next (s.passAll (s.crossings.map fun y => if y.island = i.val then { y with asleep := false } else y))

/-! Timeouts (R322). -/

/-- A read in flight is a host read whose time is over. -/
def State.overdue (s : State) : Option Flight → Bool
  | some rd => rd.isHost && decide (rd.deadline ≤ s.now)
  | none => false

/-- A host read times out, when its time is over. -/
def State.hostReadTimeout (s : State) : Requester → State
  | .fetch id =>
    (match s.hostReads.find? (·.id = id) with
     | some x => if x.deadline ≤ s.now then s.fetchTimeout id else s
     | none => s)
  | .seq q =>
    let x := s.seq q
    if s.now < x.deadline then s
    else
      (match x.waiting with
       | .load _ _ _ (.hostWin _ _) _ _ => s.loadReturn q .timeout
       | .fetch _ (.hostWin _ _) _ => s.programFill q .timeout
       | _ => s)
  | .ring n =>
    if s.overdue (s.seq n).ringRead then s.ringFetched n .timeout
    else if s.overdue (s.seq n).pollRead then s.pollReturn n .timeout
    else s
  | .dma c =>
    let x := s.chan c
    if s.overdue x.descRead then s.descData c .timeout
    else
      match x.reads with
      | d :: _ =>
        (match d.src with
         | .hostWin _ _ => if d.deadline ≤ s.now then s.sourceData c .timeout else s
         | _ => s)
      | [] => s

/-- A device read of host memory reaches its timeout. -/
def execHostReadTimeout (who : Requester) (s : State) : Result := .next (s.hostReadTimeout who)

end Sys2Proof.Machine
end

