-- ==== Sys2Proof/Machine/Dispatch.lean ====
section
/-! DEFINITION. One arm per command, each a direct call of its meaning. -/

namespace Sys2Proof.Machine

/-- The effect of a command on everything but the queue. -/
def exec (i : Instr) (s : State) : Host.Outcome State Fault Refusal :=
  match i with
  | .crossingTransfer i1 x ok asleep => Sys2Proof.Machine.execCrossingTransfer i1 x ok asleep s
  | .crossingResend i1 ok => Sys2Proof.Machine.execCrossingResend i1 ok s
  | .islandWakeDone i1 => Sys2Proof.Machine.execIslandWakeDone i1 s
  | .replicaReloadDone i1 => Sys2Proof.Machine.execReplicaReloadDone i1 s
  | .latchCopyReceive id island lost => Sys2Proof.Machine.execLatchCopyReceive id island lost s
  | .switchPoint id island => Sys2Proof.Machine.execSwitchPoint id island s
  | .pcieLinkDown => Sys2Proof.Machine.execPcieLinkDown s
  | .pcieLinkUp width rate => Sys2Proof.Machine.execPcieLinkUp width rate s
  | .perstAssert => Sys2Proof.Machine.execPerstAssert s
  | .perstRelease strap => Sys2Proof.Machine.execPerstRelease strap s
  | .vddAonRise => Sys2Proof.Machine.execVddAonRise s
  | .railFault => Sys2Proof.Machine.execRailFault s
  | .railRecover => Sys2Proof.Machine.execRailRecover s
  | .shadowWriteAccept => Sys2Proof.Machine.execShadowWriteAccept s
  | .cpDoorbellWrite w n v => Sys2Proof.Machine.execCpDoorbellWrite w n v s
  | .ringEntryFetched n r => Sys2Proof.Machine.execRingEntryFetched n r s
  | .ringNop n => Sys2Proof.Machine.execRingNop n s
  | .ringCall n => Sys2Proof.Machine.execRingCall n s
  | .ringInline n => Sys2Proof.Machine.execRingInline n s
  | .ringFence n => Sys2Proof.Machine.execRingFence n s
  | .ringFenceComplete n => Sys2Proof.Machine.execRingFenceComplete n s
  | .ringWait n r => Sys2Proof.Machine.execRingWait n r s
  | .ringWaitPoll n r => Sys2Proof.Machine.execRingWaitPoll n r s
  | .ringWaitTimeout n => Sys2Proof.Machine.execRingWaitTimeout n s
  | .ringEntryComplete n => Sys2Proof.Machine.execRingEntryComplete n s
  | .cpEnable w n v => Sys2Proof.Machine.execCpEnable w n v s
  | .cpResume w n => Sys2Proof.Machine.execCpResume w n s
  | .cpResumeSkip w n => Sys2Proof.Machine.execCpResumeSkip w n s
  | .cpLinkResume n => Sys2Proof.Machine.execCpLinkResume n s
  | .fsqStartPoint h => Sys2Proof.Machine.execFsqStartPoint h s
  | .fsqEnable w h v => Sys2Proof.Machine.execFsqEnable w h v s
  | .fsqRestart w h => Sys2Proof.Machine.execFsqRestart w h s
  | .fsqEntryWrite w h hi v => Sys2Proof.Machine.execFsqEntryWrite w h hi v s
  | .programFetchFill q r => Sys2Proof.Machine.execProgramFetchFill q r s
  | .nop q => Sys2Proof.Machine.execNop q s
  | .jmp q => Sys2Proof.Machine.execJmp q s
  | .jcc q => Sys2Proof.Machine.execJcc q s
  | .call q => Sys2Proof.Machine.execCall q s
  | .ret q => Sys2Proof.Machine.execRet q s
  | .loop q => Sys2Proof.Machine.execLoop q s
  | .halt q => Sys2Proof.Machine.execHalt q s
  | .haltComplete q => Sys2Proof.Machine.execHaltComplete q s
  | .waitev q => Sys2Proof.Machine.execWaitev q s
  | .waitevWake q => Sys2Proof.Machine.execWaitevWake q s
  | .waitevTimeout q => Sys2Proof.Machine.execWaitevTimeout q s
  | .waitln q => Sys2Proof.Machine.execWaitln q s
  | .waitlnWake q => Sys2Proof.Machine.execWaitlnWake q s
  | .signal q => Sys2Proof.Machine.execSignal q s
  | .stamp q => Sys2Proof.Machine.execStamp q s
  | .fence q => Sys2Proof.Machine.execFence q s
  | .fenceComplete q => Sys2Proof.Machine.execFenceComplete q s
  | .addi q => Sys2Proof.Machine.execAddi q s
  | .and q => Sys2Proof.Machine.execAnd q s
  | .or q => Sys2Proof.Machine.execOr q s
  | .xor q => Sys2Proof.Machine.execXor q s
  | .shl q => Sys2Proof.Machine.execShl q s
  | .shr q => Sys2Proof.Machine.execShr q s
  | .cmp q => Sys2Proof.Machine.execCmp q s
  | .ldw q => Sys2Proof.Machine.execLdw q s
  | .ldwDataReturn q r => Sys2Proof.Machine.execLdwDataReturn q r s
  | .stw q => Sys2Proof.Machine.execStw q s
  | .storePerformed q k x => Sys2Proof.Machine.execStorePerformed q k x s
  | .atom q => Sys2Proof.Machine.execAtom q s
  | .atomComplete q fresh => Sys2Proof.Machine.execAtomComplete q fresh s
  | .lset q => Sys2Proof.Machine.execLset q s
  | .lcopy q => Sys2Proof.Machine.execLcopy q s
  | .hset q => Sys2Proof.Machine.execHset q s
  | .cset q => Sys2Proof.Machine.execCset q s
  | .gset q => Sys2Proof.Machine.execGset q s
  | .sigdef q => Sys2Proof.Machine.execSigdef q s
  | .sigexp q => Sys2Proof.Machine.execSigexp q s
  | .dmakick q => Sys2Proof.Machine.execDmakick q s
  | .check q => Sys2Proof.Machine.execCheck q s
  | .commit q => Sys2Proof.Machine.execCommit q s
  | .commitResult id => Sys2Proof.Machine.execCommitResult id s
  | .abort q => Sys2Proof.Machine.execAbort q s
  | .abortCopy q => Sys2Proof.Machine.execAbortCopy q s
  | .benchEnWrite v => Sys2Proof.Machine.execBenchEnWrite v s
  | .benchCommit v => Sys2Proof.Machine.execBenchCommit v s
  | .benchResult id => Sys2Proof.Machine.execBenchResult id s
  | .functionLevelReset f => Sys2Proof.Machine.execFunctionLevelReset f s
  | .vfEnableClear => Sys2Proof.Machine.execVfEnableClear s
  | .pmapEntryWrite p hi v => Sys2Proof.Machine.execPmapEntryWrite p hi v s
  | .pmapEntryRead p hi => Sys2Proof.Machine.execPmapEntryRead p hi s
  | .mcServeRequest n scanHit hit e => Sys2Proof.Machine.execMcServeRequest n scanHit hit e s
  | .schedUrgent t => Sys2Proof.Machine.execSchedUrgent t s
  | .mcRefresh n ns => Sys2Proof.Machine.execMcRefresh n ns s
  | .mcEmergencyRetrain n ns => Sys2Proof.Machine.execMcEmergencyRetrain n ns s
  | .retireReqWrite v => Sys2Proof.Machine.execRetireReqWrite v s
  | .retireStart => Sys2Proof.Machine.execRetireStart s
  | .retireCopyDone => Sys2Proof.Machine.execRetireCopyDone s
  | .retireComplete => Sys2Proof.Machine.execRetireComplete s
  | .plateAccess p w uses ecc => Sys2Proof.Machine.execPlateAccess p w uses ecc s
  | .pstCeRowClear p k => Sys2Proof.Machine.execPstCeRowClear p k s
  | .pstOwnReq p v => Sys2Proof.Machine.execPstOwnReq p v s
  | .handoverComplete p => Sys2Proof.Machine.execHandoverComplete p s
  | .blinkGo q v => Sys2Proof.Machine.execBlinkGo q v s
  | .blinkStop q => Sys2Proof.Machine.execBlinkStop q s
  | .blinkCopyInDone q => Sys2Proof.Machine.execBlinkCopyInDone q s
  | .blinkMarchDone q faults rows column => Sys2Proof.Machine.execBlinkMarchDone q faults rows column s
  | .blinkCopyBackDone q => Sys2Proof.Machine.execBlinkCopyBackDone q s
  | .pstSubstReq p => Sys2Proof.Machine.execPstSubstReq p s
  | .substCopyDone => Sys2Proof.Machine.execSubstCopyDone s
  | .fetchGrant p => Sys2Proof.Machine.execFetchGrant p s
  | .tagIssue t => Sys2Proof.Machine.execTagIssue t s
  | .fetchDataReturn t lost => Sys2Proof.Machine.execFetchDataReturn t lost s
  | .landingWriteDone t => Sys2Proof.Machine.execLandingWriteDone t s
  | .pipeConsumeWord p h sl kind w => Sys2Proof.Machine.execPipeConsumeWord p h sl kind w s
  | .hostReadSend => Sys2Proof.Machine.execHostReadSend s
  | .hostReadCompletion id r => Sys2Proof.Machine.execHostReadCompletion id r s
  | .hostReadTimeout who => Sys2Proof.Machine.execHostReadTimeout who s
  | .apertureRefill => Sys2Proof.Machine.execApertureRefill s
  | .pipeComposeLine p h y => Sys2Proof.Machine.execPipeComposeLine p h y s
  | .selectionPoint h => Sys2Proof.Machine.execSelectionPoint h s
  | .ephArrival id => Sys2Proof.Machine.execEphArrival id s
  | .ephEvalStart id => Sys2Proof.Machine.execEphEvalStart id s
  | .ephVerdict id => Sys2Proof.Machine.execEphVerdict id s
  | .gcBucketRefill => Sys2Proof.Machine.execGcBucketRefill s
  | .latchWindowOpen id => Sys2Proof.Machine.execLatchWindowOpen id s
  | .decisionPoint id => Sys2Proof.Machine.execDecisionPoint id s
  | .decisionReceive id island => Sys2Proof.Machine.execDecisionReceive id island s
  | .frameBoundary h => Sys2Proof.Machine.execFrameBoundary h s
  | .lineStart h => Sys2Proof.Machine.execLineStart h s
  | .prtQuadModeWrite q v => Sys2Proof.Machine.execPrtQuadModeWrite q v s
  | .prtLinkCtlWrite w n v => Sys2Proof.Machine.execPrtLinkCtlWrite w n v s
  | .retrain w n => Sys2Proof.Machine.execRetrain w n s
  | .trainingAttemptStart n rates lanes lttprs => Sys2Proof.Machine.execTrainingAttemptStart n rates lanes lttprs s
  | .trainingAttemptEnd n ok => Sys2Proof.Machine.execTrainingAttemptEnd n ok s
  | .trainRetryTimer n => Sys2Proof.Machine.execTrainRetryTimer n s
  | .prtManCtlWrite w n v => Sys2Proof.Machine.execPrtManCtlWrite w n v s
  | .hpdRise n => Sys2Proof.Machine.execHpdRise n s
  | .hpdFall n => Sys2Proof.Machine.execHpdFall n s
  | .hpdConnect n => Sys2Proof.Machine.execHpdConnect n s
  | .hpdDisconnect n => Sys2Proof.Machine.execHpdDisconnect n s
  | .auxGo w n v => Sys2Proof.Machine.execAuxGo w n v s
  | .auxReply n nibble data wrote lost => Sys2Proof.Machine.execAuxReply n nibble data wrote lost s
  | .auxTimeout n => Sys2Proof.Machine.execAuxTimeout n s
  | .auxDeferRetry n => Sys2Proof.Machine.execAuxDeferRetry n s
  | .laneSliceFault q j => Sys2Proof.Machine.execLaneSliceFault q j s
  | .substReq n k => Sys2Proof.Machine.execSubstReq n k s
  | .laneSteerDone g => Sys2Proof.Machine.execLaneSteerDone g s
  | .loopbackReq n => Sys2Proof.Machine.execLoopbackReq n s
  | .loopbackDone n fail => Sys2Proof.Machine.execLoopbackDone n fail s
  | .cdEnable n v => Sys2Proof.Machine.execCdEnable n v s
  | .apply n => Sys2Proof.Machine.execApply n s
  | .relock n => Sys2Proof.Machine.execRelock n s
  | .reacquire n => Sys2Proof.Machine.execReacquire n s
  | .cdLockDeclare x => Sys2Proof.Machine.execCdLockDeclare x s
  | .cdLockLoss x => Sys2Proof.Machine.execCdLockLoss x s
  | .cdRelockTimeout n => Sys2Proof.Machine.execCdRelockTimeout n s
  | .cdProfileGo n last loop => Sys2Proof.Machine.execCdProfileGo n last loop s
  | .cdProfileStop n => Sys2Proof.Machine.execCdProfileStop n s
  | .cdSegmentEnd n => Sys2Proof.Machine.execCdSegmentEnd n s
  | .refValid r x => Sys2Proof.Machine.execRefValid r x s
  | .refLoss x => Sys2Proof.Machine.execRefLoss x s
  | .refPulse r => Sys2Proof.Machine.execRefPulse r s
  | .cdSpareReq v => Sys2Proof.Machine.execCdSpareReq v s
  | .cdSpareSwitch => Sys2Proof.Machine.execCdSpareSwitch s
  | .cdOutCtlWrite j v => Sys2Proof.Machine.execCdOutCtlWrite j v s
  | .sidSet v => Sys2Proof.Machine.execSidSet v s
  | .ptmUpdate ofs => Sys2Proof.Machine.execPtmUpdate ofs s
  | .sidAlarmEnable k v => Sys2Proof.Machine.execSidAlarmEnable k v s
  | .sidAlarmFire k => Sys2Proof.Machine.execSidAlarmFire k s
  | .frameRecordComplete h spoiled => Sys2Proof.Machine.execFrameRecordComplete h spoiled s
  | .jrnEnable v => Sys2Proof.Machine.execJrnEnable v s
  | .cpNow => Sys2Proof.Machine.execCpNow s
  | .checkpointSigned => Sys2Proof.Machine.execCheckpointSigned s
  | .jrnRdWrite v => Sys2Proof.Machine.execJrnRdWrite v s
  | .journalEntry ok => Sys2Proof.Machine.execJournalEntry ok s
  | .pwrWarnAssert => Sys2Proof.Machine.execPwrWarnAssert s
  | .pwrWarnDeassert => Sys2Proof.Machine.execPwrWarnDeassert s
  | .sealSigned => Sys2Proof.Machine.execSealSigned s
  | .sealProgrammed => Sys2Proof.Machine.execSealProgrammed s
  | .apertureWrite f off bytes poisoned => Sys2Proof.Machine.execApertureWrite f off bytes poisoned s
  | .apertureRead f off n fresh => Sys2Proof.Machine.execApertureRead f off n fresh s
  | .meterRefill => Sys2Proof.Machine.execMeterRefill s
  | .ingOpen w st k r => Sys2Proof.Machine.execIngOpen w st k r s
  | .ingDone w st => Sys2Proof.Machine.execIngDone w st s
  | .wcLineDrain st e => Sys2Proof.Machine.execWcLineDrain st e s
  | .wcIdleTimeout st => Sys2Proof.Machine.execWcIdleTimeout st s
  | .ingestCompletion st => Sys2Proof.Machine.execIngestCompletion st s
  | .ingCfgWrite w st v => Sys2Proof.Machine.execIngCfgWrite w st v s
  | .ingRateWrite st which v => Sys2Proof.Machine.execIngRateWrite st which v s
  | .dmaStart w c => Sys2Proof.Machine.execDmaStart w c s
  | .dmaStop w c => Sys2Proof.Machine.execDmaStop w c s
  | .dmaResume w c => Sys2Proof.Machine.execDmaResume w c s
  | .dmaAbort w c => Sys2Proof.Machine.execDmaAbort w c s
  | .dmaDescriptorRead c r => Sys2Proof.Machine.execDmaDescriptorRead c r s
  | .dmaSourceData c r => Sys2Proof.Machine.execDmaSourceData c r s
  | .dmaMoverBeat e => Sys2Proof.Machine.execDmaMoverBeat e s
  | .dmaWriteAck c ok => Sys2Proof.Machine.execDmaWriteAck c ok s
  | .dmaWbFrameStart h => Sys2Proof.Machine.execDmaWbFrameStart h s
  | .resizableBarWrite vf size => Sys2Proof.Machine.execResizableBarWrite vf size s
  | .partitionWrite r v => Sys2Proof.Machine.execPartitionWrite r v s
  | .reclaim k => Sys2Proof.Machine.execReclaim k s
  | .msixTableWrite f v k x => Sys2Proof.Machine.execMsixTableWrite f v k x s
  | .msixLaunch => Sys2Proof.Machine.execMsixLaunch s
  | .l0pRequest width => Sys2Proof.Machine.execL0pRequest width s
  | .pcieLinkDegrade width rate => Sys2Proof.Machine.execPcieLinkDegrade width rate s
  | .ideCheckFailed k f => Sys2Proof.Machine.execIdeCheckFailed k f s
  | .doeRequest r => Sys2Proof.Machine.execDoeRequest r s
  | .hostWakeSignal cause => Sys2Proof.Machine.execHostWakeSignal cause s
  | .gpioEdge k rise => Sys2Proof.Machine.execGpioEdge k rise s
  | .eventOccurrence src => Sys2Proof.Machine.execEventOccurrence src s
  | .evcSrcCfgWrite w src v => Sys2Proof.Machine.execEvcSrcCfgWrite w src v s
  | .evcFnIdleWrite w f v => Sys2Proof.Machine.execEvcFnIdleWrite w f v s
  | .stationHandlerEntry c => Sys2Proof.Machine.execStationHandlerEntry c s
  | .stationHandlerReturn c wait => Sys2Proof.Machine.execStationHandlerReturn c wait s
  | .modIntervalEnd v => Sys2Proof.Machine.execModIntervalEnd v s
  | .eventHoldTimeout src => Sys2Proof.Machine.execEventHoldTimeout src s
  | .aonWatchWrite k v => Sys2Proof.Machine.execAonWatchWrite k v s
  | .finderWake src => Sys2Proof.Machine.execFinderWake src s
  | .finderHandover => Sys2Proof.Machine.execFinderHandover s
  | .pwrLatWrite w f v => Sys2Proof.Machine.execPwrLatWrite w f v s
  | .pwrTargetEval => Sys2Proof.Machine.execPwrTargetEval s
  | .pwrDeeperTimer => Sys2Proof.Machine.execPwrDeeperTimer s
  | .pwrExitDone => Sys2Proof.Machine.execPwrExitDone s
  | .shortPost failure found => Sys2Proof.Machine.execShortPost failure found s
  | .thermalSample v => Sys2Proof.Machine.execThermalSample v s
  | .imonAlertAssert => Sys2Proof.Machine.execImonAlertAssert s
  | .imonAlertDeassert => Sys2Proof.Machine.execImonAlertDeassert s
  | .restore => Sys2Proof.Machine.execRestore s
  | .restoreAll => Sys2Proof.Machine.execRestoreAll s
  | .lifeTick => Sys2Proof.Machine.execLifeTick s
  | .pipeCheckFail p h y x uncorrectable => Sys2Proof.Machine.execPipeCheckFail p h y x uncorrectable s
  | .pipeSwapReq p => Sys2Proof.Machine.execPipeSwapReq p s
  | .pipeSpareLoaded p => Sys2Proof.Machine.execPipeSpareLoaded p s
  | .postEnd r => Sys2Proof.Machine.execPostEnd r s
  | .ssIdentify bus => Sys2Proof.Machine.execSsIdentify bus s
  | .ssReadFail bus => Sys2Proof.Machine.execSsReadFail bus s
  | .ssReadFlash bus => Sys2Proof.Machine.execSsReadFlash bus s
  | .ssEraseSector bus ok => Sys2Proof.Machine.execSsEraseSector bus ok s
  | .ssProgramFlash bus ok => Sys2Proof.Machine.execSsProgramFlash bus ok s
  | .ssReadSensors bus => Sys2Proof.Machine.execSsReadSensors bus s
  | .ssPlateMarch bus faults rows => Sys2Proof.Machine.execSsPlateMarch bus faults rows s
  | .ssMemReport bus => Sys2Proof.Machine.execSsMemReport bus s
  | .ssBadOpcode bus => Sys2Proof.Machine.execSsBadOpcode bus s
  | .stationPoisonRead w code => Sys2Proof.Machine.execStationPoisonRead w code s
  | .stationRestartDone => Sys2Proof.Machine.execStationRestartDone s
  | .selftestGo p => Sys2Proof.Machine.execSelftestGo p s
  | .selftestDone pass => Sys2Proof.Machine.execSelftestDone pass s
  | .sysLockWrite v => Sys2Proof.Machine.execSysLockWrite v s
  | .fetApCreditSnapshot => Sys2Proof.Machine.execFetApCreditSnapshot s
  | .cdNowSnapshot n => Sys2Proof.Machine.execCdNowSnapshot n s
  | .sidNowSnapshot => Sys2Proof.Machine.execSidNowSnapshot s
  | .sidPtmOfsSnapshot => Sys2Proof.Machine.execSidPtmOfsSnapshot s
  | .jrnSeqSnapshot => Sys2Proof.Machine.execJrnSeqSnapshot s
  | .ingFenceValSnapshot st => Sys2Proof.Machine.execIngFenceValSnapshot st s
  | .vfPmapSnapshot k => Sys2Proof.Machine.execVfPmapSnapshot k s
  | .registerWrite w off words x => Sys2Proof.Machine.execRegisterWrite w off words x s
  | .configurationRequest f a => Sys2Proof.Machine.execConfigurationRequest f a s
  | .flrComplete f => Sys2Proof.Machine.execFlrComplete f s
  | .sectorEraseDone ok => Sys2Proof.Machine.execSectorEraseDone ok s
  | .unsupportedRequest f why posted => Sys2Proof.Machine.execUnsupportedRequest f why posted s

end Sys2Proof.Machine
end

