-- ==== Sys2Proof/Safety.lean ====
section
/-! DEFINITION. What counts as a safe run, and the words in which claims about one command are made. -/

namespace Sys2Proof.Machine

/-- A run of `k` steps is safe when no step of it stops. -/
def SafeRun (k : Nat) (s : State) : Prop := ∃ t, Sys2Proof.core.run k s = .next t

/-- The command completes: `exec` answers a next state, and the property holds of it. -/
def Completes (c : Instr) (s : State) (p : State → Prop) : Prop := ∃ t, exec c s = .next t ∧ p t

/-- A BAR0 access to the register at `off` reaches it: no reset holds (R396), the device is not in Safe Station (R377), the
register's island has power (R13). -/
abbrev State.Reaches (s : State) (off : Nat) : Prop :=
  s.inReset = false ∧ s.safe = false ∧ s.islandOn (islandOf off) = true

/-- Every register word outside the listed offsets is as before. -/
def SameRegs (s t : State) (except : List Nat) : Prop := ∀ off, off ∉ except → t.rd off = s.rd off

/-- Every byte of GDDR6 and of the Plate Store is as before. -/
def SameMemory (s t : State) : Prop :=
  (∀ a, t.loadByte a = s.loadByte a) ∧ t.poison = s.poison ∧ t.plateMem = s.plateMem ∧ t.platePoison = s.platePoison

/-- Every word of the shadow and of the active copy is as before. -/
def SameViews (s t : State) : Prop := t.shadow = s.shadow ∧ t.active = s.active

/-- Sequencer q is about to execute the instruction `i`: it may issue, and the word at its program counter decodes to it. -/
def State.Fetches (s : State) (q : Nat) (i : Atcia) : Prop :=
  s.canIssue q = true ∧ ∃ w k, s.fetchAt q = .word w k ∧ decodeAtcia w k = some i

end Sys2Proof.Machine
end

