-- ==== Sys2Proof/Certificates/Slice0/Obligations.lean ====
section
/-! DEFINITION. What is claimed of the model: one statement per definition, each with the rules or sections of spec/ it rests
on in its docstring. -/

namespace Sys2Proof.Claims

open Sys2Proof Sys2Proof.Machine

/-- Nothing that lies in registers, the views or memory has changed. -/
abbrev Quiet (s t : State) : Prop := SameRegs s t [] ∧ SameViews s t ∧ SameMemory s t
/-- Nothing that lies in registers, the views or memory has changed but the listed registers. -/
abbrev Only (s t : State) (offs : List Nat) : Prop := SameRegs s t offs ∧ SameViews s t ∧ SameMemory s t
/-- Two fields share no bit. -/
abbrev apartFields (f g : Fld) : Prop := f.lo + f.width ≤ g.lo ∨ g.lo + g.width ≤ f.lo

/-- Registers whose plain write does more than store. -/
def specialBases : List Nat :=
  [Reg.SYS_SELFTEST, Reg.FET_CTL, Reg.CD_OUT_DIV 0, Reg.PWR_CTL, Reg.VF_CLR_DATA 0, Reg.CD_SLOPE 0, Reg.CD_PROF_SEG 0 0,
   Reg.EPH_GC_RATE, Reg.CD_REF 0, Reg.SID_CTL, Reg.SID_ALARM_LO 0, Reg.SID_ALARM_HI 0]

/-- A transfer to island i has been dropped: flagged, counted, recorded (R12). -/
abbrev Lost (s t : State) (i : Nat) : Prop :=
  t.fget Reg.SYS_CROSS_STATUS Bit.SYS_CROSS_STATUS_CROSS_LOSS = 1 ∧
  t.fget Reg.SYS_CROSS_STATUS Bit.SYS_CROSS_STATUS_LAST_ISLAND = i ∧
  t.fget Reg.SYS_CROSS_STATUS Bit.SYS_CROSS_STATUS_LOSS_COUNT =
    min (s.fget Reg.SYS_CROSS_STATUS Bit.SYS_CROSS_STATUS_LOSS_COUNT + 1) 0xFFFF
/-- A lost register access is recorded: the word offset in the view of function f, and f (R12). -/
abbrev LostAccess (t : State) (f off : Nat) : Prop :=
  t.fget Reg.SYS_REG_STATUS Bit.SYS_REG_STATUS_LOST = 1 ∧
  t.fget Reg.SYS_REG_STATUS Bit.SYS_REG_STATUS_OFFSET = off / 4 ∧
  t.fget Reg.SYS_REG_STATUS Bit.SYS_REG_STATUS_FN = f

/-- The bytes stand at `phys`, and nothing else of memory has changed but the same bytes' mirror in a frame that takes the
place of theirs (R103). -/
abbrev Wrote (s t : State) (phys : Nat) (bytes : List Byte) : Prop :=
  t.loadBytes phys bytes.length = bytes ∧
  ∀ a, a < phys ∨ phys + bytes.length ≤ a →
    (∀ r ∈ s.retiring, ∀ x, phys ≤ x → x < phys + bytes.length → x / 2 ^ 20 = r.fromFrame →
      a ≠ r.toFrame * 2 ^ 20 + x % 2 ^ 20) →
    t.loadByte a = s.loadByte a
/-- Sequencer n has faulted with a code that is no exception of an instruction (R42). -/
abbrev RingFault (s t : State) (n code index : Nat) : Prop :=
  t.seqState n = 4 ∧ t.fget (Reg.CP_STATUS n) Bit.CP_STATUS_FAULT_CODE = code ∧ t.rd (Reg.CP_FAULT_ENTRY n) = index % 2 ^ 32 ∧
  SameRegs s t [Reg.CP_STATUS n, Reg.CP_FAULT_ENTRY n] ∧ SameViews s t ∧ SameMemory s t
/-- A local read of the source can be answered with what stands in memory: the controllers have power, the request has been
served, ECC found nothing (R100, R101, R145). -/
abbrev Served (s : State) (source phys : Nat) : Prop :=
  s.memOn = true ∧ s.unserved source phys = false ∧ s.poisoned phys = false ∧ s.finding phys = .clean
/-- Command processor n has read every published entry. -/
abbrev ReadAll (s : State) (n : Nat) : Prop := (s.seq n).nextRead = s.rd (Reg.CP_DOORBELL n)

/-- The state with sequencer q behind instruction i, its other parts as given (R56). -/
abbrev past (s : State) (q : Nat) (i : Atcia) (x : Seq) : State :=
  s.setSeq q { x with pc := (s.seq q).pc + (if i.x then 2 else 1) }
/-- The second operand S of R60. -/
abbrev operandS (s : State) (q : Nat) (i : Atcia) : DWord :=
  if i.x then i.k else if i.ctl.getLsbD 0 then i.imm.signExtend 64 else (s.seq q).reg i.b

/-- The row that executes an instruction of the arithmetic and logic family. -/
def rowOf (op : Op) (q : SeqId) : Instr :=
  match op with
  | .and => .and q | .or => .or q | .xor => .xor q | .shl => .shl q | .shr => .shr q | .cmp => .cmp q | _ => .addi q

/-- The run of sequencer q has ended (R43, R48, R66). -/
def runEnded (s : State) (q : Nat) : State :=
  let x := { s.seq q with waiting := .nothing, stack := [] }
  if q < 32 then (s.setSeq q { x with done := true }).setSeqState q 2
  else
    let ns := min (s.now - x.runStart) (2 ^ 32 - 1)
    let t := ((s.setSeq q x).setSeqState q 1).fset (Reg.FSQ_STATUS (q - 32)) Bit.FSQ_STATUS_FAULT_RUNS 0
    let t := t.wr (Reg.FSQ_RUN_LAST (q - 32)) ns
    t.wr (Reg.FSQ_RUN_MAX (q - 32)) (max (t.rd (Reg.FSQ_RUN_MAX (q - 32))) ns)

/-- The byte address of a load or store (R69). -/
abbrev dataAddr (s : State) (q : Nat) (i : Atcia) : Nat :=
  ((s.seq q).reg i.a + (if i.x then i.k else i.imm.signExtend 64)).toNat
/-- The access size of CTL[1:0] (R69). -/
abbrev dataSize (i : Atcia) : Nat := [8, 4, 2, 1].getD (i.ctl.toNat % 4) 1
/-- The size of the BAR0 view of a function (R69): 16 MiB for the PF, 2 MiB for a VF. -/
abbrev ownView (f : Nat) : Nat := if f = 0 then 2 ^ 24 else 2 ^ 21

/-- The line has filled its place of the program buffer and the sequencer goes on (R26, R89). -/
def lineFilled (s : State) (q line : Nat) (bytes : List Byte) : State :=
  s.setSeq q { s.seq q with
    waiting := .nothing, linkWait := false,
    buffer := tabPut (line / 64 % 32)
      (line, (List.range 8).map fun k => BitVec.ofNat 64 (ofBytes ((bytes.drop (8 * k)).take 8))) (s.seq q).buffer }

/-- A blocked load has taken its value (R69). -/
def loaded (s : State) (q dest v next : Nat) : State :=
  s.setSeq q ({ s.seq q with waiting := .nothing, linkWait := false, pc := next }.setReg dest (BitVec.ofNat 64 v))

/-- The six state instructions that write one field (R78). -/
def stateOp (op : Op) : Bool := op = .lset || op = .hset || op = .cset || op = .gset || op = .sigdef || op = .sigexp
/-- Their rows. -/
def stateRow (op : Op) (q : SeqId) : Instr :=
  match op with
  | .hset => .hset q | .cset => .cset q | .gset => .gset q | .sigdef => .sigdef q | .sigexp => .sigexp q | _ => .lset q
/-- A shadow write has joined the sequencer's queue and the instruction is passed (R81). -/
def queued (s : State) (q : Nat) (i : Atcia) (w : ShadowWrite) : State :=
  s.setSeq q { s.seq q with
    shadowQ := (s.seq q).shadowQ ++ [w], pc := (s.seq q).pc + (if i.x then 2 else 1) }

/-- The entry of page p as R95 lets it stand: `VALID` of an invalid or reserve page counts as 0. -/
abbrev EntryValid (s : State) (p : Nat) : Prop :=
  s.fget (Reg.PMAP_ENTRY_LO p) Bit.PMAP_ENTRY_LO_VALID = 1 ∧
    (p < 65536 → p + 1024 < s.fget Reg.SYS_MEM_CFG Bit.SYS_MEM_CFG_VALID_PAGES)
/-- The three conditions of R94. -/
abbrev EntryPermits (s : State) (f p : Nat) (r : Right) : Prop :=
  EntryValid s p ∧
  (r ≠ .write → s.fget (Reg.PMAP_ENTRY_LO p) Bit.PMAP_ENTRY_LO_READ = 1) ∧
  (r ≠ .read → s.fget (Reg.PMAP_ENTRY_LO p) Bit.PMAP_ENTRY_LO_WRITE = 1) ∧
  (f = s.fget (Reg.PMAP_ENTRY_LO p) Bit.PMAP_ENTRY_LO_FN ∨ f = 0 ∨
    (r = .read ∧ s.fget (Reg.PMAP_ENTRY_LO p) Bit.PMAP_ENTRY_LO_SHARE_READ = 1))

/-- A handover request is refused: the code, the flag and the event, nothing else (R120). -/
def handoverRefused (s : State) (p code : Nat) : State :=
  ((s.fset (Reg.PST_OWN_STATUS p) Bit.PST_OWN_STATUS_REFUSE_CODE code).fset (Reg.PST_OWN_STATUS p)
    Bit.PST_OWN_STATUS_REFUSED 1).raise (5440 + p) 3 0 (6 + p / 8)
/-- The present owner of a plate is the unit with code `o`, and the plate is not in transit (R117). -/
abbrev Owns (s : State) (p o : Nat) : Prop :=
  o ≠ 0 ∧ s.fget (Reg.PST_OWN p) Bit.PST_OWN_OWNER = o ∧ s.fget (Reg.PST_OWN p) Bit.PST_OWN_TRANSIT = 0

/-- A wanted word of pipe p that R143 lets the front-end grant: it lies at `a`, in `d`, its Aperture and the landing admit it
and, unless the Plate Map refuses it, a tag is available. -/
abbrev Grantable (s : State) (p : Nat) (w : Want) (a : Nat) (d : Place) : Prop :=
  s.wantPlace p w = some (a, d) ∧ s.admits p w d = true ∧
    (match d with
     | .refused _ => True
     | .hostWin _ _ => (s.tagFor p true).isSome = true
     | .localMem _ => (s.tagFor p false).isSome = true)
/-- The registers that count tags. -/
abbrev tagRegs : List Nat := [Reg.FET_TAG_STATUS, Reg.FET_TAG_HWM]

/-- The registers of the queue of Ephemeris. -/
abbrev queueRegs : List Nat := Reg.EPH_QUEUE :: (List.range 32).map Reg.EPH_GRP_STATUS
/-- The registers that show what the admitted states hold. -/
abbrev heldRegs : List Nat :=
  queueRegs ++ [Reg.EPH_DEMAND_LOCAL, Reg.EPH_DEMAND_HOST, Reg.FET_TAG_RESERVED] ++ (List.range 36).map Reg.FET_PIPE_QUOTA ++
    (List.range 32).map Reg.EPH_FN_USED ++ (List.range 32).map Reg.EPH_GRP_NEXT
/-- The group mask of a `CHECK`, `COMMIT` or `ABORT` is one: some of the 32 groups, each of the sequencer's function (R83). -/
abbrev GoodMask (s : State) (q : Nat) (v : DWord) : Prop :=
  v.toNat ≠ 0 ∧ v.toNat < 2 ^ 32 ∧ ∀ g < 32, bitOf v.toNat g = true → s.groupFn g = s.seqFn q

/-- The port event of port n with a cause is raised as the one occurrence from its lane-group island (R332). -/
abbrev PortEvent (s t : State) (n cause detail : Nat) : Prop :=
  t.occs = s.occs ++ [⟨4352 + n, cause, detail, s.replica (62 + n / 16), 62 + n / 16⟩]

/-- The settings in `CD_DIV`, `CD_FRAC` and `CD_FMAX` of drive n break R256. -/
abbrev BadSettings (s : State) (n : Nat) : Prop :=
  let nn := s.fget (Reg.CD_DIV n) Bit.CD_DIV_N
  let d := s.fget (Reg.CD_DIV n) Bit.CD_DIV_D
  nn < 160 ∨ 319 < nn ∨ d % 2 = 1 ∨ d < 4 ∨ 32 < d ∨
    s.fget (Reg.CD_FMAX n) Bit.CD_FMAX_FMAX * 10000 * 2 ^ 32 * d < 25000 * (nn * 2 ^ 32 + s.rd (Reg.CD_FRAC n)) * 10005
/-- The change is fine (R261): D unchanged, the value within 2,000 ppm of the anchor. -/
abbrev FineChange (s : State) (n : Nat) : Prop :=
  let v := s.fget (Reg.CD_DIV n) Bit.CD_DIV_N * 2 ^ 32 + s.rd (Reg.CD_FRAC n)
  s.fget (Reg.CD_DIV n) Bit.CD_DIV_D = (s.drive n).d ∧
    ∃ a, (s.drive n).anchor = some a ∧ (max a v - min a v) * 1000000 ≤ a * 2000
/-- What a relock does to drive n (R259, R260). -/
abbrev Relocks (s t : State) (n : Nat) : Prop :=
  t.cdState n = 1 ∧ (t.drive n).gated = true ∧ (t.drive n).tries = 0 ∧ (t.drive n).anchor = (s.drive n).anchor ∧
  (t.drive n).relockAt = s.now ∧ (t.drive n).rampTo = (t.drive n).divider ∧ t.fbit (Reg.CD_STATUS n) Bit.CD_STATUS_PHASE_LOCKED = false ∧
  t.fget (Reg.CD_STATUS n) Bit.CD_STATUS_RELOCK_COUNT = min (s.fget (Reg.CD_STATUS n) Bit.CD_STATUS_RELOCK_COUNT + 1) 65535 ∧
  t.fbit (Reg.CD_PROF_CTL n) Bit.CD_PROF_CTL_RUNNING = false ∧ (∀ h ∈ s.headsOf n, t.portState h < 5)
/-- The registers of drive n that its commands write, and the status of its heads' ports. -/
abbrev driveRegs (s : State) (n : Nat) : List Nat :=
  [Reg.CD_CTL n, Reg.CD_STATUS n, Reg.CD_PROF_CTL n] ++ (s.headsOf n).map Reg.PRT_LINK_STATUS
/-- `CD_CTL` of drive n holds stored fields only, in their ranges, and the drive is not `CD8`. -/
abbrev PlainCtl (s : State) (n : Nat) : Prop :=
  n ≠ 8 ∧ s.Reaches (Reg.CD_CTL n) ∧ s.rd (Reg.CD_CTL n) < 128 ∧ s.refSel n < 3 ∧
    s.fget (Reg.CD_CTL n) Bit.CD_CTL_RETURN < 3 ∧
    (s.refSel n = 0 ∨ s.fbit (Reg.CD_PROF_CTL n) Bit.CD_PROF_CTL_RUNNING = false)
/-- The settings of drive n are loaded, and every output of it beyond its limit shows so (R272). -/
abbrev Loaded (s t : State) (n : Nat) : Prop :=
  (t.drive n).n = s.fget (Reg.CD_DIV n) Bit.CD_DIV_N ∧ (t.drive n).frac = s.rd (Reg.CD_FRAC n) ∧
  (t.drive n).d = s.fget (Reg.CD_DIV n) Bit.CD_DIV_D ∧
  ∀ j < 4, s.fget (Reg.CD_OUT_CTL j) Bit.CD_OUT_CTL_SRC = n → t.outTooFast j = true → t.fbit (Reg.CD_OUT_CTL j) Bit.CD_OUT_CTL_CFG_ERR = true
/-- The registers of the four outputs. -/
abbrev outRegs : List Nat := (List.range 4).map Reg.CD_OUT_CTL
/-- Drive n steers to what its reference asks for, or treats it as lost (R265, R266). -/
abbrev Acquires (s t : State) (n : Nat) : Prop :=
  (t.refValue n = none → t.fbit (Reg.CD_STATUS n) Bit.CD_STATUS_REF_VALID = false ∧
    t.fbit (Reg.CD_STATUS n) Bit.CD_STATUS_REF_LOST = true ∧ t.cdState n = 5) ∧
  (∀ v, t.refValue n = some v → (t.drive n).rampTo = v ∧ (t.drive n).refTo = v ∧
    t.fbit (Reg.CD_STATUS n) Bit.CD_STATUS_REF_VALID = true ∧
    t.fbit (Reg.CD_STATUS n) Bit.CD_STATUS_PHASE_LOCKED = false ∧ t.cdState n = if s.refPulse n then 3 else 4)
/-- A substitution of drive n by `CD8` begins, at once with the memory on, else after the exit to PS0 (R271, R389). -/
abbrev SpareStarts (s t : State) (n : Nat) : Prop :=
  t.fbit Reg.CD_SPARE_STATUS Bit.CD_SPARE_STATUS_BUSY = true ∧
  (s.memOn = true → t.spareFor = some n ∧ (t.drive 8).n = (s.drive n).n ∧ (t.drive 8).frac = (s.drive n).frac ∧
    (t.drive 8).d = (s.drive n).d ∧ (t.drive 8).rampTo = s.dividerNow n ∧ t.cdState 8 = 1 ∧
    (∀ r ∈ driveSettings n, t.rd (r + Reg.CD_CTL 8 - Reg.CD_CTL n) = s.rd r)) ∧
  (s.memOn = false → t.thermal.driveWait = some n ∧ t.spareFor = s.spareFor ∧ t.drive 8 = s.drive 8)
/-- The registers that a substitution by `CD8` writes. -/
abbrev spareRegs (s : State) : List Nat :=
  [Reg.CD_SPARE_STATUS, Reg.SYS_SPARE_STATUS] ++ driveSettings 8 ++ driveRegs s 8
/-- The drive event of drive n with a cause is raised, from island 0. -/
abbrev DriveEvent (s t : State) (source cause : Nat) : Prop := t.occs = s.occs ++ [⟨source, cause, 0, s.replica 0, 0⟩]

/-- The journal's channel may write its ring: its source is the journal, it runs, no bus error holds it and the link is up. -/
abbrev RingOpen (s : State) (c : Nat) : Prop :=
  s.fget Reg.JRN_CTL Bit.JRN_CTL_CHAN = c ∧ s.chanSrc c = 3 ∧ s.chanState c = 2 ∧ s.jrn.halted = false ∧ s.linkUp = true ∧
    s.memOn = true
/-- Address of the ring slot that `JRN_WR` names (R288). -/
abbrev ringAddrNow (s : State) : Nat :=
  (s.rd Reg.JRN_RING_BASE_LO + s.rd Reg.JRN_RING_BASE_HI % 32 * 2 ^ 32) / (128 * s.ringCount) * (128 * s.ringCount) +
    128 * (s.rd Reg.JRN_WR % s.ringCount)

/-- No word of GDDR6 is poisoned, and none is known to have an ECC finding. -/
abbrev Clean (s : State) : Prop := s.poison = [] ∧ s.found = []
/-- An open or done of stream st was refused with a code, and nothing else happened (R295). -/
abbrev OpenRefused (s t : State) (st code : Nat) : Prop :=
  t.fget (Reg.ING_STATUS st) Bit.ING_STATUS_REFUSE_CODE = code ∧ t.fbit (Reg.ING_STATUS st) Bit.ING_STATUS_OPEN_REFUSED = true ∧
    t.streams = s.streams ∧ t.slots = s.slots ∧ t.slotRanges = s.slotRanges ∧ Only s t [Reg.ING_STATUS st]

/-- The registers of DMA channel c. -/
abbrev chanRegs (c : Nat) : List Nat :=
  [Reg.DMA_CTL c, Reg.DMA_STATUS c, Reg.DMA_DESC_LO c, Reg.DMA_DESC_HI c, Reg.DMA_ERR_ADDR_LO c, Reg.DMA_ERR_ADDR_HI c,
   Reg.DMA_REMAIN_LO c, Reg.DMA_REMAIN_HI c]
/-- Channel c is halted with a code, an address and a direction latched and the channel-error event raised (R309). -/
abbrev Halts (s t : State) (c code addr : Nat) (write : Bool) : Prop :=
  t.chanState c = 4 ∧ t.fget (Reg.DMA_STATUS c) Bit.DMA_STATUS_ERR_CODE = code ∧
  t.fbit (Reg.DMA_STATUS c) Bit.DMA_STATUS_ERR_WRITE = write ∧ t.pair (Reg.DMA_ERR_ADDR_LO c) = addr % 2 ^ 37 ∧
  (t.chan c).staged = (s.chan c).staged ∧ (t.chan c).issued = (s.chan c).issued ∧
  ⟨5056 + c, 0, code + 16 * b2n write, s.replica 3, 3⟩ ∈ t.occs
/-- Channel c runs and waits for the descriptor at `phys` of GDDR6 (R305). -/
abbrev AsksAt (s t : State) (c phys : Nat) : Prop :=
  t.chanState c = 1 ∧ (t.chan c).descRead = some ⟨t.descAddr c, .localMem phys, s.now, s.now + s.hostTimeout⟩ ∧ (t.chan c).desc = none ∧
  SameRegs s t (chanRegs c) ∧ SameViews s t ∧ SameMemory s t
/-- The read at `phys` has been served, and ECC has found nothing but what the command says (R100, R145). -/
abbrev DmaServed (s : State) (c phys : Nat) (r : ReadResult) : Prop :=
  s.memOn = true ∧ s.unserved (192 + c) phys = false ∧ s.poisoned phys = false ∧ s.finding phys = .clean ∧
    (r ≠ .uncorrectable ∨ s.eccOn = false)
/-- The read at `phys` meets poison, or an error that no code corrects appears with it. -/
abbrev DmaPoison (s : State) (c phys : Nat) (r : ReadResult) : Prop :=
  s.memOn = true ∧ s.unserved (192 + c) phys = false ∧ (s.poisoned phys = true ∨ (s.eccOn = true ∧ r = .uncorrectable))
/-- The word of the staging buffer that holds a beat of channel c. -/
abbrev beatWord (s : State) (c : Nat) (b : Beat) : Nat := plateWord s.stagingPlate (stagingWord c b.word)
/-- Channel c is `IDLE` with nothing in hand (R311). -/
abbrev Idles (t : State) (c : Nat) : Prop := t.chanState c = 0 ∧ t.chan c = Chan.reset

/-- A partition write is refused with a code and changes nothing else (R319). -/
def partRefused (s : State) (code f : Nat) : State :=
  ((s.fset Reg.PCI_PART_STATUS Bit.PCI_PART_STATUS_REFUSE_CODE code).fset Reg.PCI_PART_STATUS Bit.PCI_PART_STATUS_REFUSED 1).fset
    Reg.PCI_PART_STATUS Bit.PCI_PART_STATUS_LAST_FN f
/-- The range of a word of `PCI_FN_LAYER` or `PCI_FN_STREAM` holds i (R319). -/
abbrev rangeHas (v : Word) (i : Nat) : Bool :=
  decide (v.toNat % 4096 ≤ i) && decide (i < v.toNat % 4096 + v.toNat / 2 ^ 16 % 2 ^ 13)
/-- BASE + COUNT of such a word. -/
abbrev rangeEnd (v : Word) : Nat := v.toNat % 4096 + v.toNat / 2 ^ 16 % 2 ^ 13
/-- A resource of function `old` gains or loses function f when f's range or mask holds it or not. -/
abbrev moves (old f : Nat) (within : Bool) : Bool := within != decide (old = f)
/-- Function f holds what its new range or mask holds and nothing else; what is not f's and not in it stays. -/
abbrev Gives (old new f : Nat) (within : Bool) : Prop := (within = true ↔ new = f) ∧ (within = false → old ≠ f → new = old)
/-- A source reads EN 0 and PENDING 0 (R333). -/
abbrev SourceOff (t : State) (src : Nat) : Prop :=
  t.fget (Reg.EVC_SRC_CFG src) Bit.EVC_SRC_CFG_EN = 0 ∧ t.fget (Reg.EVC_SRC_CFG src) Bit.EVC_SRC_CFG_PENDING = 0
/-- Function f answers configuration requests: the link is up, outside reset, the function is there and ready. -/
abbrev ConfigOpen (s : State) (f : FnId) : Prop :=
  s.linkUp = true ∧ s.inReset = false ∧ (s.fn f).ready = true ∧ (f = 0 ∨ s.vfOn f = true)
/-- Function f's configuration space is at reset but for its error log, and it is being reset (R315). -/
abbrev FnReset (s t : State) (f : FnId) : Prop := t.fn f = { PciFn.reset f with aer := (s.fn f).aer, inFlr := true }
/-- Registers of the pending event sources, which a sleeping or waking target holds or releases (R345). -/
abbrev pendRegs (s : State) : List Nat := s.pendTime.map fun e => Reg.EVC_SRC_CFG e.1
/-- Written registers of the function domain of the functions that a rule picks (R396). -/
abbrev fnRegs (s : State) (pick : Nat → Bool) : List Nat :=
  (s.regs.map (·.1)).filter fun off => decide (domainOf off = Domain.function) && pick (s.regFn off)

/-- `o` is the oldest waiting occurrence of a source, and the Event Controller takes it: outside Safe Station, with island 2
powered, the Finder not taking it. -/
abbrev Arrives (s : State) (src : Nat) (o : Occ) : Prop :=
  s.safe = false ∧ s.islandOn 2 = true ∧ s.occs.find? (·.source = src) = some o ∧ s.finderTakes o = false
/-- An arriving occurrence has been counted and its routed source is pending, held while its target sleeps (R334, R345). -/
abbrev Pends (s t : State) (src : Nat) (o : Occ) : Prop :=
  t.rd (Reg.EVC_SRC_COUNT src) = (s.rd (Reg.EVC_SRC_COUNT src) + 1) % 2 ^ 32 ∧
  t.fget (Reg.EVC_SRC_CFG src) Bit.EVC_SRC_CFG_PENDING = 1 ∧ t.occs = dropOcc src s.occs ∧
  tabGet t.pendTime src = some ((tabGet s.pendTime src).getD o.time) ∧
  (src ∉ s.redirected → (t.fget (Reg.EVC_SRC_CFG src) Bit.EVC_SRC_CFG_HELD = 1 ↔ t.asleep (s.ownTarget src) = true) ∨ src ∈ t.redirected) ∧
  SameViews s t
/-- Function f's record ring takes a record: it is enabled and not full (R336). -/
abbrev EvRingOpen (s : State) (f : Nat) : Prop :=
  s.fbit (Reg.EVC_FN_RING_CTL f) Bit.EVC_FN_RING_CTL_EN = true ∧
    (s.rd (Reg.EVC_FN_RING_WR f) + 2 ^ 32 - s.rd (Reg.EVC_FN_RING_RD f)) % 2 ^ 32 < s.evRingSlots f
/-- Address of the slot that function f's ring fills next. -/
abbrev evRingSlot (s : State) (f : Nat) : Nat := s.evRingBase f + 16 * (s.rd (Reg.EVC_FN_RING_WR f) % s.evRingSlots f)

/-- The islands with power in each state (R348): from PS2 the memory controllers (10 to 25) have none, from PS3 Ephemeris (4),
the pipes (26 to 61) and the lane groups (62 to 69) neither; from PS4 island 0 alone has. -/
abbrev islandPowered (n i : Nat) : Bool :=
  if i = 0 then true else if 4 ≤ n then false
  else if n = 2 then !(decide (10 ≤ i) && decide (i < 26)) else if n = 3 then !(decide (i = 4) || decide (10 ≤ i)) else true
/-- The registers that a change of power state writes. -/
abbrev powerRegs (s : State) : List Nat := [Reg.PWR_STATUS, 0x200, 0x204, 0x208] ++ pendRegs s
/-- The device stands in state n with the islands of R348. -/
abbrev StandsIn (t : State) (n : Nat) : Prop := t.powerState = n ∧ (∀ i : IslandId, t.islandOn i = islandPowered n i) ∧ t.pwrTarget = none
/-- Pipe p is no spare, and its cluster's spare is neither used, failed, nor on its way (R16, R362). -/
abbrev SwapFree (s : State) (p : Nat) : Prop :=
  p % 9 ≠ 8 ∧ s.spareUsed_ (p / 9 * 9 + 8) = false ∧ (s.swaps.all fun z => decide (z.pipe ≠ p)) = true ∧
    s.thermal.swapWait = []
/-- A swap request is refused with a code and changes nothing else (R123, R362). -/
def swapRefused (s : State) (code : Nat) : State :=
  (s.fset Reg.SYS_PIPE_SWAP_STATUS Bit.SYS_PIPE_SWAP_STATUS_REFUSED 1).fset Reg.SYS_PIPE_SWAP_STATUS
    Bit.SYS_PIPE_SWAP_STATUS_REFUSE_CODE code
/-- A swap of pipe p to the spare of its cluster has started. -/
abbrev SwapStarted (s t : State) (p fault : Nat) : Prop :=
  t.swaps = s.swaps ++ [⟨p, p / 9 * 9 + 8, decide (fault = 1), s.now, false, []⟩] ∧
  t.fget Reg.SYS_PIPE_SWAP_STATUS Bit.SYS_PIPE_SWAP_STATUS_PIPE = p ∧
  t.fget Reg.SYS_PIPE_SWAP_STATUS Bit.SYS_PIPE_SWAP_STATUS_SPARE = p / 9 * 9 + 8 ∧
  t.fget Reg.SYS_PIPE_SWAP_STATUS Bit.SYS_PIPE_SWAP_STATUS_BUSY = 1 ∧
  t.fget Reg.SYS_PIPE_SWAP_STATUS Bit.SYS_PIPE_SWAP_STATUS_FAULT = fault ∧
  t.pipeRoles = s.pipeRoles ∧ (s.testing = some (p / 9 * 9 + 8) → t.testing = none) ∧
  Only s t [Reg.SYS_PIPE_SWAP_STATUS, Reg.SYS_SPARE_STATUS, Reg.SYS_SELFTEST]
/-- A swap waits for PS0, and the exit to it begins (R351). -/
abbrev SwapWaits (s t : State) (p : Nat) (fault : Bool) : Prop :=
  t.thermal.swapWait = s.thermal.swapWait ++ [(p, fault)] ∧ t.waking = true ∧ t.exitTo = 0 ∧ t.swaps = s.swaps ∧ Only s t []

/-- The monitor has completed a command with a tag and a result; over SMBus the status and the data went out (R378). -/
abbrev Answers (u t : State) (bus : Option SmBus) (tag result : Nat) : Prop :=
  t.ssCmd = none ∧ t.fbit Reg.SYS_SS_STATUS Bit.SYS_SS_STATUS_DONE = true ∧
  t.fbit Reg.SYS_SS_STATUS Bit.SYS_SS_STATUS_BUSY = false ∧ t.fget Reg.SYS_SS_STATUS Bit.SYS_SS_STATUS_RESULT = result ∧
  t.fget Reg.SYS_SS_STATUS Bit.SYS_SS_STATUS_TAG = tag ∧
  t.fget Reg.SYS_SS_STATUS Bit.SYS_SS_STATUS_LOST = u.fget Reg.SYS_SS_STATUS Bit.SYS_SS_STATUS_LOST ∧
  t.hostTx = (if bus = none then u.hostTx else
    u.hostTx ++ [.smbus (t.rd Reg.SYS_SS_STATUS) (t.ssData (t.fget Reg.SYS_SS_STATUS Bit.SYS_SS_STATUS_OUT_LEN))]) ∧
  SameViews u t ∧ t.mem = u.mem
/-- The answer changes the monitor's registers alone. -/
abbrev AnswersOnly (u t : State) (bus : Option SmBus) (tag result : Nat) : Prop :=
  Answers u t bus tag result ∧ Only u t (Reg.SYS_SS_STATUS :: (List.range 256).map Reg.SYS_SS_DATA)
/-- The monitor takes a command with an opcode, a tag and a length; u holds its arguments (R378, R379). -/
abbrev Takes (s : State) (bus : Option SmBus) (u : State) (op tag len : Nat) : Prop :=
  s.safe = true ∧ s.inReset = false ∧ s.ssTake bus = some (u, op, tag, len) ∧ tag < 256
/-- Flash bytes outside a range are as before. -/
abbrev FlashOutside (u t : State) (a n : Nat) : Prop := ∀ x, x < a ∨ a + n ≤ x → t.flashByte x = u.flashByte x
/-- Pipe p serves a head of the active or a pending state (R382). -/
abbrev Serves (s : State) (p : Nat) : Prop := ∃ m ∈ s.states, ∃ h < 128, hdf m h Hd.HEAD_EN = 1 ∧ s.pipeServes m h p = true
/-- A pipe test is refused with a code (R382). -/
abbrev TestRefused (s t : State) (code : Nat) : Prop :=
  t.testing = s.testing ∧ t.fbit Reg.SYS_SELFTEST Bit.SYS_SELFTEST_REFUSED = true ∧
  t.fget Reg.SYS_SELFTEST Bit.SYS_SELFTEST_REFUSE_CODE = code ∧ Only s t [Reg.SYS_SELFTEST]
/-- The owner of plate p when POST completes (R119). -/
abbrev firstOwner (p : Nat) : Nat := if p = 28 then 5 else if p = 29 then 6 else if p = 30 then 9 else if p = 31 then 7 else 0
/-- The failure record holds f, and the device is in Safe Station (R376). -/
abbrev Failed (t : State) (f : PostFail) : Prop :=
  t.safe = true ∧ t.fbit Reg.SYS_FAIL_REC0 Bit.SYS_FAIL_REC0_VALID = true ∧
  t.fget Reg.SYS_FAIL_REC0 Bit.SYS_FAIL_REC0_STAGE = f.stage ∧ t.fget Reg.SYS_FAIL_REC0 Bit.SYS_FAIL_REC0_CAUSE = f.cause.toNat ∧
  t.fget Reg.SYS_FAIL_REC0 Bit.SYS_FAIL_REC0_UNIT = f.unit_.toNat ∧ t.rd Reg.SYS_FAIL_REC1 = f.detail.toNat
/-- A failure record as R376 lays it out: causes other than 1 and details where the rule gives them, units at stages 6, 7 and 9. -/
abbrev recordOf (f : PostFail) : PostFail :=
  { f with
    cause := if f.stage = 3 ∨ f.stage = 7 then f.cause else 1
    unit_ := if f.stage = 6 ∨ f.stage = 7 ∨ f.stage = 9 then f.unit_ else 0
    detail := if f.stage = 1 ∨ f.stage = 3 ∨ f.stage = 7 then f.detail else 0 }
/-- The rollback counter that POST reads (R371). -/
abbrev rollbackOf (s : State) : Nat := max s.rollback (s.fget Reg.SYS_FW_VER Bit.SYS_FW_VER_ROLLBACK)
/-- The registers of the failure record, with the firmware version (R376). -/
abbrev failRegs : List Nat := [Reg.SYS_FAIL_REC0, Reg.SYS_FAIL_REC1, Reg.SYS_FAIL_TIME_LO, Reg.SYS_FAIL_TIME_HI, Reg.SYS_FW_VER]

/-- The three byte memories are in canonical form. -/
abbrev MemoriesCanonical (s : State) : Prop :=
  Memory.wf s.mem = true ∧ Memory.wf s.plateMem = true ∧ flashWf s.flash = true

end Sys2Proof.Claims

open Sys2Proof Sys2Proof.Machine Sys2Proof.Claims

/-- A step with a command in front of the queue is `exec` of that command with the queue's rest (the model's queue, log entry 1); every command completes, in every state. -/
def Obligations.StepRunsTheFrontCommand : Prop :=
  (∀ (c : Instr) (rest : List Instr) (s : State), s.pending = c :: rest → step s = exec c { s with pending := rest }) ∧
  (∀ (c : Instr) (s : State), ∃ t, exec c s = .next t)

/-- The idle step (model's choice, log entry 1): the master of R14 counts one nanosecond, corrected as R274 says. -/
def Obligations.IdleStepIsOneNanosecond : Prop :=
  (∀ s : State, s.pending = [] → step s = .next s.idle) ∧ (∀ s : State, s.ceEntry = none → s.idle = s.tick) ∧
  (∀ s : State, (s.tick.sid = s.sid ∨ s.tick.sid = s.sid + 1 ∨ s.tick.sid = s.sid + 2) ∧ SameRegs s s.tick [] ∧ SameViews s s.tick ∧ SameMemory s s.tick ∧
    s.tick.occs = s.occs ∧ s.tick.pending = s.pending) ∧
  (∀ s : State, s.sidRate = 0 → s.rd Reg.SID_RATE = 0 → -1000000000000000 < s.sidFrac → s.sidFrac < 1000000000000000 →
    s.tick.sid = s.sid + 1)

/-- What reset leaves (R396: "A domain's registers return to the reset values of their tables"; the master's 0 is the model's, log entry 8). -/
def Obligations.ResetLeavesTheTablesValues : Prop :=
  (∀ off, State.reset.rd off = resetWord off) ∧
  (∀ off, viewWord State.reset.shadow off = shadowReset off ∧ viewWord State.reset.active off = shadowReset off) ∧
  (∀ i : IslandId, State.reset.islandOn i = true) ∧ State.reset.rd Reg.SYS_CROSS_STATUS = 0 ∧
  (∀ q : SeqId, State.reset.seqState q = 0 ∧ State.reset.seq q = Seq.reset) ∧
  (∀ r : Fin 16, Seq.reset.reg r = 0) ∧ Seq.reset.z = false ∧ Seq.reset.n = false ∧ Seq.reset.c = false ∧ Seq.reset.v = false ∧
  Seq.reset.stack = [] ∧ (∀ q : SeqId, State.reset.seqEnabled q = false) ∧
  State.reset.sid = 0 ∧ State.reset.mem = [] ∧ State.reset.occs = [] ∧ State.reset.pending = [] ∧
  State.reset.safe = false ∧ State.reset.inReset = false ∧
  Memory.wf State.reset.mem = true ∧ Memory.wf State.reset.plateMem = true ∧ flashWf State.reset.flash = true

/-- The write effects of the types of R6 and the update that wins of R8, over all fields of one word; shadow fields are left alone here, their writes going to shadow state. -/
def Obligations.WriteActsByFieldType : Prop :=
  ∀ (locked : Bool) (v w : Nat) (fields : List (Fld × FieldType)), fields.Pairwise (fun x y => apartFields x.1 y.1) →
    (∀ f ty, (f, ty) ∈ fields →
      getBits (writeFields locked v fields w) f.lo f.width =
        match ty with
        | .rw => getBits v f.lo f.width
        | .w1c => if bitOf v f.lo then 0 else getBits w f.lo f.width
        | .w1s => if bitOf v f.lo then 1 % 2 ^ f.width else getBits w f.lo f.width
        | .lk => if locked then getBits w f.lo f.width else getBits v f.lo f.width
        | .ro => getBits w f.lo f.width
        | .wo => getBits w f.lo f.width
        | .sh => getBits w f.lo f.width) ∧
    (∀ g : Fld, (∀ x ∈ fields, apartFields x.1 g) →
      getBits (writeFields locked v fields w) g.lo g.width = getBits w g.lo g.width) ∧
    (∀ (raced : Nat) (f : Fld) (ty : FieldType), (f, ty) ∈ fields → (ty = .w1c ∨ ty = .w1s) → f.width = 1 → bitOf raced f.lo = true →
      getBits (writeFields locked (dropRaced raced v fields) fields w) f.lo f.width = getBits w f.lo f.width)

/-- `REGISTER_WRITE` (R6, R8, R392), the reserved offsets of R7, the powered-down response of R13, the discard of R396. -/
def Obligations.RegisterWriteRow : Prop :=
  (∀ (off : BitVec 22) (v : Word) (r : ReadResult) (raced : List Word) (d : RegDesc) (ix : List Nat) (s : State),
    let key := 4 * off.toNat
    let w := dropRaced (raced.headD 0).toNat v.toNat d.fields
    s.Reaches key → s.resolve 0 key = some key → shadowObj key = none → regAt key = some (d, ix) → d.base ∉ specialBases →
    s.commandWrite d.base ⟨0, ix.headD 0, ix.getD 1 0, w, r⟩ = none → s.writeIgnored d.base (ix.headD 0) = false →
    countsOf d.base = [] → s.stored d.base (ix.headD 0) w = w →
    exec (.registerWrite 0 off [(15, v)] ⟨r, raced⟩) s =
      .next (s.wr key (writeFields (s.fbit Reg.SYS_LOCK Bit.SYS_LOCK_LOCK) w d.fields (s.rd key)))) ∧
  (∀ (f : FnId) (off : BitVec 22) (en : BitVec 4) (v : Word) (r : ReadResult) (raced : List Word) (s : State), s.inReset = false →
    en ≠ 0 → en ≠ 15 →
    Completes (.registerWrite f off [(en, v)] ⟨r, raced⟩) s fun t =>
      t.fget Reg.SYS_REG_STATUS Bit.SYS_REG_STATUS_PARTIAL = 1 ∧
      t.fget Reg.SYS_REG_STATUS Bit.SYS_REG_STATUS_OFFSET = off.toNat ∧
      t.fget Reg.SYS_REG_STATUS Bit.SYS_REG_STATUS_FN = f.val ∧
      t.fget Reg.SYS_REG_STATUS Bit.SYS_REG_STATUS_LOST = s.fget Reg.SYS_REG_STATUS Bit.SYS_REG_STATUS_LOST ∧
      SameRegs s t [Reg.SYS_REG_STATUS] ∧ SameViews s t ∧ SameMemory s t) ∧
  (∀ (f : FnId) (off : BitVec 22) (words : List (BitVec 4 × Word)) (r : ReadResult) (raced : List Word) (s : State),
    s.inReset = false → 16 < words.length →
    Completes (.registerWrite f off words ⟨r, raced⟩) s fun t =>
      t.fget Reg.SYS_REG_STATUS Bit.SYS_REG_STATUS_PARTIAL = 1 ∧
      t.fget Reg.SYS_REG_STATUS Bit.SYS_REG_STATUS_OFFSET = off.toNat ∧
      t.fget Reg.SYS_REG_STATUS Bit.SYS_REG_STATUS_FN = f.val ∧
      SameRegs s t [Reg.SYS_REG_STATUS] ∧ SameViews s t ∧ SameMemory s t) ∧
  (∀ (f : FnId) (off : BitVec 22) (v : Word) (r : ReadResult) (raced : List Word) (s : State),
    exec (.registerWrite f off [(0, v)] ⟨r, raced⟩) s = .next s) ∧
  (∀ (off : BitVec 22) (v : Word) (r : ReadResult) (raced : List Word) (s : State), keyDefined (4 * off.toNat) = false →
    exec (.registerWrite 0 off [(15, v)] ⟨r, raced⟩) s = .next s) ∧
  (∀ (off : BitVec 22) (v : Word) (r : ReadResult) (raced : List Word) (s : State), s.inReset = false → s.safe = false →
    s.resolve 0 (4 * off.toNat) = some (4 * off.toNat) → keyDefined (4 * off.toNat) = true →
    s.islandOn (islandOf (4 * off.toNat)) = false →
    exec (.registerWrite 0 off [(15, v)] ⟨r, raced⟩) s =
      .next ((s.fset Reg.SYS_CROSS_STATUS Bit.SYS_CROSS_STATUS_SLEEP_ACCESS 1).fset Reg.SYS_CROSS_STATUS
        Bit.SYS_CROSS_STATUS_LAST_ISLAND (islandOf (4 * off.toNat)))) ∧
  (∀ (f : FnId) (off : BitVec 22) (words : List (BitVec 4 × Word)) (r : ReadResult) (raced : List Word) (s : State),
    s.inReset = true → exec (.registerWrite f off words ⟨r, raced⟩) s = .next s)

/-- R12 ("A parity mismatch discards the transfer at the receiver, and the channel resends it once"; "Each crossing preserves order"; what a lost register access does), R13. -/
def Obligations.TransfersBetweenIslands : Prop :=
  (∀ (i : IslandId) (f : FnId) (off : BitVec 24) (v : Word) (r : ReadResult) (raced : Word) (s : State), s.crossings = [] →
    exec (.crossingTransfer i (.hostWrite f off v r raced) true false) s = .next (s.busWrite f off.toNat r [raced] [(15, v)])) ∧
  (∀ (i : IslandId) (f : FnId) (off : BitVec 24) (len : Fin 65) (s : State), s.crossings = [] →
    exec (.crossingTransfer i (.hostRead f off len) true false) s = .next (s.hostRead f off.toNat len)) ∧
  (∀ (i : IslandId) (x : Transfer) (ok : Bool) (s : State), s.crossings = [] → s.mayGate i = true →
    exec (.crossingTransfer i x ok true) s = .next { s with crossings := [⟨i, x, ok, false, true⟩] }) ∧
  (∀ (i : IslandId) (x : Transfer) (s : State), s.crossings = [] →
    exec (.crossingTransfer i x false false) s = .next { s with crossings := [⟨i, x, false, true, false⟩] }) ∧
  (∀ (i : IslandId) (x : Transfer) (ok : Bool) (e : Crossing) (s : State), s.crossings = [e] → e.island = i →
    (e.asleep = true ∨ e.failed = true) → s.senderOf e.transfer = s.senderOf x →
    exec (.crossingTransfer i x ok false) s = .next { s with crossings := [e, ⟨i, x, ok, false, e.asleep⟩] }) ∧
  (∀ (i : IslandId) (f : FnId) (off : BitVec 24) (v : Word) (r : ReadResult) (raced : Word) (ok : Bool) (s : State),
    s.crossings = [⟨i, .hostWrite f off v r raced, ok, true, false⟩] →
    exec (.crossingResend i true) s = .next
      { ({ s with crossings := [] }.fset Reg.SYS_CROSS_STATUS Bit.SYS_CROSS_STATUS_CROSS_RETRY 1).busWrite f off.toNat r [raced]
          [(15, v)] with crossings := [] }) ∧
  (∀ (i : IslandId) (f : FnId) (off : BitVec 24) (v : Word) (r : ReadResult) (raced : Word) (ok : Bool) (s : State),
    s.crossings = [⟨i, .hostWrite f off v r raced, ok, true, false⟩] → s.islandOn i = true →
    Completes (.crossingResend i false) s fun t =>
      t.crossings = [] ∧ Lost s t i ∧ LostAccess t f off.toNat ∧
      (∃ time, t.occs = s.occs ++ [⟨5529, 0, i.val + 2 ^ 7 + 2 ^ 8 * f.val, time, i.val⟩]) ∧
      SameRegs s t [Reg.SYS_CROSS_STATUS, Reg.SYS_REG_STATUS] ∧ t.hostTx = s.hostTx ∧ SameViews s t ∧ SameMemory s t) ∧
  (∀ (i : IslandId) (f : FnId) (off : BitVec 24) (len : Fin 65) (ok : Bool) (s : State),
    s.crossings = [⟨i, .hostRead f off len, ok, true, false⟩] → s.islandOn i = true →
    Completes (.crossingResend i false) s fun t =>
      t.crossings = [] ∧ Lost s t i ∧ LostAccess t f off.toNat ∧
      t.hostTx = s.hostTx ++ [.completion f (List.replicate len.val 0xFF) true] ∧
      SameRegs s t [Reg.SYS_CROSS_STATUS, Reg.SYS_REG_STATUS] ∧ SameViews s t ∧ SameMemory s t) ∧
  (∀ (i : IslandId) (ok : Bool) (s : State), s.crossings = [⟨i, .other, ok, true, false⟩] → s.islandOn i = true →
    Completes (.crossingResend i false) s fun t =>
      t.crossings = [] ∧ Lost s t i ∧ (∃ time, t.occs = s.occs ++ [⟨5529, 0, i.val, time, i.val⟩]) ∧
      SameRegs s t [Reg.SYS_CROSS_STATUS] ∧ t.hostTx = s.hostTx ∧ SameViews s t ∧ SameMemory s t) ∧
  (∀ (i : IslandId) (q : SeqId) (ok : Bool) (s : State), s.crossings = [⟨i, .seqLoad q, ok, true, false⟩] →
    (s.seq q).reading = true →
    exec (.crossingResend i false) s = .next { ({ s with crossings := [] }.crossingLoss i
      ((s.seq q).loadOffset.map fun o => (s.seqFn q, o))).seqFault q 0x06 true with crossings := [] }) ∧
  (∀ (i : IslandId) (f : FnId) (off : BitVec 24) (v : Word) (r : ReadResult) (raced : Word) (s : State),
    s.crossings = [⟨i, .hostWrite f off v r raced, true, false, true⟩] →
    exec (.islandWakeDone i) s = .next ({ s with crossings := [] }.busWrite f off.toNat r [raced] [(15, v)])) ∧
  (∀ (i : IslandId) (s : State), s.crossings = [] → exec (.islandWakeDone i) s = .next s)

/-- R367 (domains by cause), R24 (`PERST_SCOPE`), R396, R409. -/
def Obligations.ResetsOfTheDevice : Prop :=
  (∀ s : State, Completes .vddAonRise s fun t =>
    (∀ off, t.rd off = resetWord off) ∧ t.shadow = [] ∧ t.active = [] ∧ t.seqs = [] ∧ t.chans = [] ∧ t.commits = [] ∧
    t.admitted = [] ∧ t.heads = [] ∧ t.occs = [] ∧ t.finder = [] ∧ t.flash = s.flash ∧ t.inReset = true) ∧
  (∀ s : State, s.tripped = false → Completes .railFault s fun t =>
    t.inReset = true ∧ t.fget Reg.SYS_POST Bit.SYS_POST_RAIL_FAULT = 1 ∧
    (∀ off, off ≠ Reg.SYS_POST → off ≠ Reg.SYS_STRAP →
      t.rd off = if domainOf off = .cold then s.rd off else resetWord off) ∧ t.rd Reg.SYS_STRAP = s.rd Reg.SYS_STRAP ∧
    t.shadow = [] ∧ t.active = [] ∧ t.seqs = [] ∧ t.sid = s.sid) ∧
  (∀ s : State, s.railBad = true → s.perst = false → s.tripped = false → s.resetHeld = false →
    Completes .railRecover s fun t => t.inReset = false ∧ t.posting = some s.now ∧ SameRegs s t [] ∧ SameViews s t) ∧
  (∀ s : State, s.perst = false → s.inReset = false → s.powerState < 4 →
    s.fbit Reg.SYS_RESET_CTL Bit.SYS_RESET_CTL_PERST_SCOPE = false →
    Completes .perstAssert s fun t => t.inReset = true ∧ t.perst = true ∧ t.sid = s.sid ∧
      (∀ off, t.rd off = if domainOf off = .cold then s.rd off else resetWord off) ∧
      t.shadow = [] ∧ t.active = [] ∧ t.seqs = [] ∧ t.heads = []) ∧
  (∀ s : State, s.perst = false → s.inReset = false → s.powerState < 4 →
    s.fbit Reg.SYS_RESET_CTL Bit.SYS_RESET_CTL_PERST_SCOPE = true → s.posting = none → s.safe = false →
    Completes .perstAssert s fun t => t.inReset = false ∧ t.perst = true ∧ t.linkUp = false ∧
      SameViews s t ∧ t.heads = s.heads ∧ t.admitted = s.admitted ∧ (∀ h : HeadId, t.headFn h = s.headFn h) ∧
      (∀ sl : SlotId, t.slotFn sl = s.slotFn sl) ∧ (∀ n : FnId, t.rd (Reg.CP_CTL n) = resetWord (Reg.CP_CTL n)) ∧
      (∀ c : ChanId, t.chan c = Chan.reset)) ∧
  (∀ (strap : Fin 8) (s : State), s.perst = true → s.resetHeld = true → s.railBad = false → s.tripped = false →
    s.powerState < 4 →
    Completes (.perstRelease strap) s fun t => t.inReset = false ∧ t.perst = false ∧ t.posting = some s.now ∧
      t.rd Reg.SYS_STRAP = strap.val ∧ SameRegs s t [Reg.SYS_STRAP] ∧ SameViews s t ∧ SameMemory s t)

/-- R39, the whole rule; N of R36, the event of R332 (4,480 + n, cause 3). -/
def Obligations.Doorbell : Prop :=
  ∀ (w n : FnId) (v : Word) (s : State), s.Reaches (Reg.CP_DOORBELL n) → (w = 0 ∨ w = n) →
    let p : Word := BitVec.ofNat 32 (s.rd (Reg.CP_DOORBELL n))
    let c : Word := BitVec.ofNat 32 (s.rd (Reg.CP_CONSUMED n))
    let slots := 2 ^ (12 + s.rd (Reg.CP_RING_SIZE n) % 16) / 64
    let row : Instr := .cpDoorbellWrite w n v
    (s.fbit (Reg.CP_CTL n) Bit.CP_CTL_ENABLE = false → exec row s = .next s) ∧
    (s.fbit (Reg.CP_CTL n) Bit.CP_CTL_ENABLE = true → v = p → exec row s = .next s) ∧
    (s.fbit (Reg.CP_CTL n) Bit.CP_CTL_ENABLE = true → v ≠ p →
      ((v - p).toNat ≤ (v - c).toNat ∧ (v - c).toNat ≤ slots →
        exec row s = .next ((s.wr (Reg.CP_DOORBELL n) v.toNat).ringAsk n) ∧
        ((s.seq n).ringRead.isSome = true → exec row s = .next (s.wr (Reg.CP_DOORBELL n) v.toNat)) ∧
        (∀ phys, (s.wr (Reg.CP_DOORBELL n) v.toNat).mayReadRing n = true → (s.seq n).ringRead = none →
          s.translate n (s.ringAddr n (s.seq n).nextRead) .read = .localMem phys →
          Completes row s fun t => t.rd (Reg.CP_DOORBELL n) = v.toNat ∧
            (t.seq n).ringRead = some ⟨s.ringAddr n (s.seq n).nextRead, .localMem phys, s.now, 0⟩ ∧
            SameRegs s t [Reg.CP_DOORBELL n] ∧ SameViews s t ∧ SameMemory s t)) ∧
      (¬ ((v - p).toNat ≤ (v - c).toNat ∧ (v - c).toNat ≤ slots) →
        exec row s = .next ((s.fset (Reg.CP_STATUS n) Bit.CP_STATUS_DB_OVER 1).raise (4480 + n.val) 3 0 2)))

/-- R36 to R38, R42, R55. The order in which the ring errors are found is the model's. -/
def Obligations.RingEntries : Prop :=
  (∀ (n i : Nat) (s : State), s.ringAddr n i =
    s.rd (Reg.CP_RING_BASE_LO n) + s.rd (Reg.CP_RING_BASE_HI n) * 2 ^ 32 +
      64 * (i % (2 ^ (12 + s.rd (Reg.CP_RING_SIZE n) % 16) / 64))) ∧
  (∀ e : RingEntry,
    (e.failed = true → e.error = some 0x83) ∧
    (e.failed = false → e.num 2 2 ≠ e.index % 2 ^ 16 → e.error = some 0x81) ∧
    (e.failed = false → e.num 2 2 = e.index % 2 ^ 16 → 4 < e.num 0 1 → e.error = some 0x80) ∧
    (e.failed = false → e.num 2 2 = e.index % 2 ^ 16 → e.num 0 1 ≤ 4 → e.num 0 1 ≠ 2 → e.error = none) ∧
    (e.failed = false → e.num 2 2 = e.index % 2 ^ 16 → e.num 0 1 = 2 → opOf (e.num 15 1) ∈ [some .jmp, some .jcc, some .call, some .ret, some .loop] →
      e.error = some 0x84)) ∧
  (∀ (n : FnId) (addr phys at_ deadline : Nat) (bytes : List Byte) (s : State),
    (s.seq n).ringRead = some ⟨addr, .localMem phys, at_, deadline⟩ → Served s (160 + n) phys →
    (s.seq n).entry = none → (s.seq n).ahead = [] → ((s.seq n).nextRead + 1) % 2 ^ 32 = s.rd (Reg.CP_DOORBELL n) →
    let e : RingEntry := ⟨(s.seq n).nextRead, s.loadBytes phys 64, false⟩
    Completes (.ringEntryFetched n (.data bytes)) s fun t =>
      (t.seq n).entry = some e ∧ (t.seq n).begun = false ∧ (t.seq n).done = false ∧ (t.seq n).ringRead = none ∧
      (t.seq n).nextRead = ((s.seq n).nextRead + 1) % 2 ^ 32 ∧
      (e.error = none → t.seqState n = 2 ∧ SameRegs s t [Reg.CP_STATUS n]) ∧
      (∀ c, e.error = some c → RingFault s t n c e.index) ∧ SameViews s t ∧ SameMemory s t) ∧
  (∀ (n : FnId) (e : RingEntry) (s : State), s.entryOf n 0 = some e →
    exec (.ringNop n) s = .next (s.setSeq n { s.seq n with begun := true, done := true })) ∧
  (∀ (n : FnId) (e : RingEntry) (s : State), s.entryOf n 1 = some e → e.num 8 8 % 8 = 0 → e.num 8 8 < 2 ^ 37 →
    Completes (.ringCall n) s fun t =>
      (t.seq n).pc = e.num 8 8 / 8 ∧ (t.seq n).stack = [] ∧ (t.seq n).buffer = [] ∧ (t.seq n).begun = true ∧
      (∀ k : Fin 6, (t.seq n).reg ⟨k + 1, by omega⟩ = BitVec.ofNat 64 (e.num (16 + 8 * k) 8)) ∧
      (∀ r : Fin 16, r = 0 ∨ 7 ≤ r.val → (t.seq n).reg r = 0) ∧
      (t.seq n).z = false ∧ (t.seq n).n = false ∧ (t.seq n).c = false ∧ (t.seq n).v = false ∧
      SameRegs s t [] ∧ SameViews s t ∧ SameMemory s t) ∧
  (∀ (n : FnId) (e : RingEntry) (s : State), s.entryOf n 2 = some e →
    Completes (.ringInline n) s fun t =>
      (t.seq n).pc = s.ringAddr n e.index / 8 + 1 ∧ (t.seq n).inl = true ∧ (t.seq n).stack = [] ∧ (t.seq n).begun = true ∧
      (∀ r : Fin 16, (t.seq n).reg r = 0) ∧ SameRegs s t [] ∧ SameViews s t ∧ SameMemory s t) ∧
  (∀ (n : FnId) (e : RingEntry) (s : State), (s.seq n).entry = some e → (s.seq n).done = true → (s.seq n).ahead = [] → ReadAll s n →
    s.fbit (Reg.CP_CTL n) Bit.CP_CTL_WB_EN = false → s.islandOn 2 = true →
    Completes (.ringEntryComplete n) s fun t =>
      t.rd (Reg.CP_CONSUMED n) = (s.rd (Reg.CP_CONSUMED n) + 1) % 2 ^ 32 ∧ t.seqState n = 1 ∧ (t.seq n).entry = none ∧
      (e.event = true → t.occs = s.occs ++ [⟨4960 + n.val, 0, e.index, s.replica 2, 2⟩]) ∧ (e.event = false → t.occs = s.occs) ∧
      SameRegs s t [Reg.CP_CONSUMED n, Reg.CP_STATUS n] ∧ SameViews s t ∧ SameMemory s t)

/-- R38 (`FENCE`, `WAIT`), R37 (`TIMEOUT_FAULT`), R46. -/
def Obligations.RingFencesAndWaits : Prop :=
  (∀ (n : FnId) (e : RingEntry) (s : State), s.entryOf n 3 = some e →
    Completes (.ringFence n) s fun t =>
      t.seqState n = 3 ∧ (t.seq n).begun = true ∧ (t.seq n).entry = some e ∧
      SameRegs s t [Reg.CP_STATUS n] ∧ SameViews s t ∧ SameMemory s t) ∧
  (∀ (n : FnId) (e : RingEntry) (phys : Nat) (s : State), s.entryBegun n 3 = some e →
    (∀ c ∈ s.commits, c.by_ = n.val → c.dry = true) → (e.shown = true → ∀ a ∈ s.admitted, a.by_ ≠ n.val) →
    s.translate n (e.num 8 8 / 8 * 8) .write = .localMem phys → s.poisoned phys = false → s.finding phys = .clean →
    s.retiring = none →
    Completes (.ringFenceComplete n) s fun t =>
      Wrote s t phys (toBytes 8 (e.num 16 8)) ∧ (t.seq n).done = true ∧ t.seqState n = 2 ∧
      SameRegs s t [Reg.CP_STATUS n] ∧ SameViews s t) ∧
  (∀ word value mask : Nat,
    (waitHolds 0 word value mask = true ↔ value &&& mask ≤ word &&& mask) ∧
    (waitHolds 1 word value mask = true ↔ word &&& mask = value &&& mask) ∧
    (waitHolds 2 word value mask = true ↔ word &&& mask ≠ value &&& mask) ∧
    (waitHolds 3 word value mask = true ↔ word &&& mask = mask)) ∧
  (∀ (n : FnId) (e : RingEntry) (phys : Nat) (r : ReadResult) (row : Instr) (s : State),
    (row = .ringWait n r ∧ s.entryOf n 4 = some e) ∨
    (row = .ringWaitPoll n r ∧ s.entryBegun n 4 = some e ∧ (s.seq n).pollRead = none ∧
      (s.seq n).polledAt + (if e.num 34 2 = 0 then 1 else e.num 34 2) * 1000 ≤ s.now) →
    s.translate n (e.num 8 8 / 8 * 8) .read = .localMem phys →
    Completes row s fun t => t.seqState n = 3 ∧ (t.seq n).begun = true ∧ (t.seq n).entry = some e ∧ (t.seq n).polledAt = s.now ∧
      (t.seq n).pollRead = some ⟨e.num 8 8 / 8 * 8, .localMem phys, s.now, 0⟩ ∧
      (row = .ringWait n r → (t.seq n).waitFrom = s.now) ∧ SameRegs s t [Reg.CP_STATUS n] ∧ SameViews s t ∧ SameMemory s t) ∧
  (∀ (n : FnId) (e : RingEntry) (r : ReadResult) (s : State), s.entryBegun n 4 = some e → (s.seq n).pollRead = none →
    s.now < (s.seq n).polledAt + (if e.num 34 2 = 0 then 1 else e.num 34 2) * 1000 → exec (.ringWaitPoll n r) s = .next s) ∧
  (∀ (n : FnId) (e : RingEntry) (addr phys at_ deadline : Nat) (bytes : List Byte) (row : Instr) (s : State),
    (row = .ringWaitPoll n (.data bytes) ∨ (row = .ringWait n (.data bytes) ∧ (s.seq n).polledAt = (s.seq n).waitFrom)) →
    s.entryBegun n 4 = some e →
    (s.seq n).pollRead = some ⟨addr, .localMem phys, at_, deadline⟩ → Served s (160 + n) phys →
    Completes row s fun t =>
      (let holds := waitHolds (e.num 32 2) (ofBytes (s.loadBytes phys 8)) (e.num 16 8) (e.num 24 8)
       (holds = true → (t.seq n).done = true ∧ t.seqState n = 2) ∧
       (holds = false → (t.seq n).done = false ∧ t.seqState n = 3)) ∧
      (t.seq n).pollRead = none ∧ (t.seq n).begun = true ∧ (t.seq n).entry = some e ∧
      SameRegs s t [Reg.CP_STATUS n] ∧ SameViews s t ∧ SameMemory s t) ∧
  (∀ (n : FnId) (e : RingEntry) (s : State), s.entryBegun n 4 = some e → e.num 36 4 ≠ 0 →
    (s.now < (s.seq n).waitFrom + e.num 36 4 * 1000 → exec (.ringWaitTimeout n) s = .next s) ∧
    ((s.seq n).waitFrom + e.num 36 4 * 1000 ≤ s.now →
      (e.timeoutFault = true → Completes (.ringWaitTimeout n) s fun t => RingFault s t n 0x82 e.index) ∧
      (e.timeoutFault = false → Completes (.ringWaitTimeout n) s fun t =>
        t.fget (Reg.CP_STATUS n) Bit.CP_STATUS_WAIT_TIMEOUT = 1 ∧ (t.seq n).done = true ∧ t.seqState n = 2 ∧
        SameRegs s t [Reg.CP_STATUS n] ∧ SameViews s t ∧ SameMemory s t)))

/-- R39, R43, R44, R48, R52, R89, R92; the field tables of `CP_CTL`, `FSQ_CTL` and `FSQ_ENTRY`. -/
def Obligations.SequencerControl : Prop :=
  (∀ (w n : FnId) (v : Word) (s : State), s.Reaches (Reg.CP_CTL n) → (w = 0 ∨ w = n) → v.getLsbD 1 = false →
    (s.fbit (Reg.CP_CTL n) Bit.CP_CTL_ENABLE = false → v.getLsbD 0 = true → Completes (.cpEnable w n v) s fun t =>
      t.rd (Reg.CP_DOORBELL n) = 0 ∧ t.rd (Reg.CP_CONSUMED n) = 0 ∧ t.seqState n = 1 ∧
      t.rd (Reg.CP_CTL n) = (if v.getLsbD 3 then 9 else 1) ∧
      t.seq n = { Seq.reset with buffer := (s.seq n).buffer, stores := (s.seq n).stores, shadowQ := (s.seq n).shadowQ } ∧
      SameRegs s t [Reg.CP_CTL n, Reg.CP_DOORBELL n, Reg.CP_CONSUMED n, Reg.CP_STATUS n] ∧ SameViews s t ∧ SameMemory s t) ∧
    (s.fbit (Reg.CP_CTL n) Bit.CP_CTL_ENABLE = true → v.getLsbD 0 = false → Completes (.cpEnable w n v) s fun t =>
      t.seqState n = 0 ∧ t.rd (Reg.CP_CTL n) = (if v.getLsbD 3 then 8 else 0) ∧
      (t.seq n).stores = (s.seq n).stores ∧ (t.seq n).shadowQ = (s.seq n).shadowQ ∧ (t.seq n).waiting = .nothing ∧
      (t.seq n).buffer = (s.seq n).buffer ∧ (t.seq n).entry = none ∧ t.commits = s.commits ∧
      SameRegs s t [Reg.CP_CTL n, Reg.CP_STATUS n] ∧ SameViews s t ∧ SameMemory s t)) ∧
  (∀ (w n : FnId) (e : RingEntry) (s : State), s.Reaches (Reg.CP_CTL n) → (w = 0 ∨ w = n) →
    (s.rd (Reg.CP_CTL n) = 1 ∨ s.rd (Reg.CP_CTL n) = 9) → s.seqState n = 4 → (s.seq n).entry = some e →
    ((∃ phys, s.translate n (s.ringAddr n e.index) .read = .localMem phys) → Completes (.cpResume w n) s fun t => t.seqState n = 1 ∧ (t.seq n).entry = none ∧ (t.seq n).ahead = [] ∧
      (t.seq n).nextRead = e.index ∧ SameRegs s t [Reg.CP_STATUS n] ∧ SameViews s t ∧ SameMemory s t) ∧
    (Completes (.cpResumeSkip w n) s fun t => t.seqState n = 2 ∧ (t.seq n).entry = some e ∧ (t.seq n).done = true ∧
      (t.seq n).ahead = (s.seq n).ahead ∧ SameRegs s t [Reg.CP_STATUS n] ∧ SameViews s t ∧ SameMemory s t)) ∧
  (∀ (n : FnId) (s : State), s.seqState n = 5 → s.linkUp = true → (s.fn n).busMaster = true →
    (∀ fn a, (s.seq n).entry = none → (s.seq n).ringRead = none → s.seqEnabled n = true → (s.seq n).ahead.length < 8 → ¬ ReadAll s n →
      s.translate n (s.ringAddr n (s.seq n).nextRead) .read = .hostWin fn a → s.ideBlocked fn (some a) = false →
      Completes (.cpLinkResume n) s fun t => t.seqState n = 1 ∧ (t.seq n).linkWait = false ∧ (t.seq n).entry = none ∧
        t.hostTx = s.hostTx ++ [.readRequest fn a 64] ∧
        (t.seq n).ringRead = some ⟨s.ringAddr n (s.seq n).nextRead, .hostWin fn a, s.now, s.now + (s.fn fn).timeout⟩ ∧
        SameRegs s t [Reg.CP_STATUS n] ∧ SameViews s t ∧ SameMemory s t) ∧
    (∀ e, (s.seq n).entry = some e → e.typ ≠ 3 → e.typ ≠ 4 → ReadAll s n →
      Completes (.cpLinkResume n) s fun t => t.seqState n = 2 ∧ (t.seq n).linkWait = false ∧ (t.seq n).entry = some e ∧
        t.hostTx = s.hostTx ∧ SameRegs s t [Reg.CP_STATUS n] ∧ SameViews s t ∧ SameMemory s t) ∧
    (∀ e, (s.seq n).entry = some e → ∀ fn a, e.typ = 4 → (s.seq n).begun = true → (s.seq n).pollRead = none → ReadAll s n →
      s.translate n (e.num 8 8 / 8 * 8) .read = .hostWin fn a → s.ideBlocked fn (some a) = false →
      Completes (.cpLinkResume n) s fun t => t.seqState n = 3 ∧ (t.seq n).linkWait = false ∧ (t.seq n).entry = some e ∧
        t.hostTx = s.hostTx ++ [.readRequest fn a 8] ∧
        (t.seq n).pollRead = some ⟨e.num 8 8 / 8 * 8, .hostWin fn a, s.now, s.now + (s.fn fn).timeout⟩ ∧
        SameRegs s t [Reg.CP_STATUS n] ∧ SameViews s t ∧ SameMemory s t)) ∧
  (∀ (h : HeadId) (s : State), s.headRunning h = true → (s.head h).line = s.startLine h → s.seqEnabled (32 + h) = true →
    (s.seqState (32 + h) = 1 ∨ (s.seqState (32 + h) = 4 ∧ s.fbit (Reg.FSQ_CTL h) Bit.FSQ_CTL_AUTO_RESTART = true ∧
        s.fget (Reg.FSQ_STATUS h) Bit.FSQ_STATUS_FAULT_RUNS < 3) →
      Completes (.fsqStartPoint h) s fun t => t.seqState (32 + h) = 2 ∧
        (t.seq (32 + h)).pc = (s.rd (Reg.FSQ_ENTRY_LO h) + s.rd (Reg.FSQ_ENTRY_HI h) * 2 ^ 32) / 8 ∧
        (∀ r : Fin 16, (t.seq (32 + h)).reg r = 0) ∧ (t.seq (32 + h)).stack = [] ∧
        SameRegs s t [Reg.FSQ_STATUS h] ∧ SameViews s t ∧ SameMemory s t) ∧
    (s.seqState (32 + h) = 4 → 3 ≤ s.fget (Reg.FSQ_STATUS h) Bit.FSQ_STATUS_FAULT_RUNS →
      exec (.fsqStartPoint h) s = .next s) ∧
    (s.seqState (32 + h) = 2 ∨ s.seqState (32 + h) = 3 →
      (s.fbit (Reg.FSQ_CTL h) Bit.FSQ_CTL_FREE_RUN = true → exec (.fsqStartPoint h) s = .next s) ∧
      (s.fbit (Reg.FSQ_CTL h) Bit.FSQ_CTL_FREE_RUN = false → Completes (.fsqStartPoint h) s fun t =>
        t.fget (Reg.FSQ_STATUS h) Bit.FSQ_STATUS_OVERRUN = 1 ∧
        t.fget (Reg.FSQ_STATUS h) Bit.FSQ_STATUS_OVERRUN_COUNT =
          min (s.fget (Reg.FSQ_STATUS h) Bit.FSQ_STATUS_OVERRUN_COUNT + 1) (2 ^ Bit.FSQ_STATUS_OVERRUN_COUNT.width - 1) ∧
        (s.islandOn 2 = true → t.occs = s.occs ++ [⟨4512 + h.val, 2, 0, s.replica 2, 2⟩]) ∧
        t.seqs = s.seqs ∧ SameRegs s t [Reg.FSQ_STATUS h] ∧ SameViews s t ∧ SameMemory s t))) ∧
  (∀ (w : FnId) (h : HeadId) (v : Word) (s : State), s.Reaches (Reg.FSQ_CTL h) → (w = 0 ∨ s.headFn h = w) →
    v.getLsbD 1 = false →
    (s.seqEnabled (32 + h) = false → v.getLsbD 0 = true → Completes (.fsqEnable w h v) s fun t =>
      t.seqState (32 + h) = 1 ∧ t.seqEnabled (32 + h) = true ∧
      t.fget (Reg.FSQ_CTL h) Bit.FSQ_CTL_START_LINE = v.toNat / 2 ^ 16 % 2 ^ 14 ∧
      SameRegs s t [Reg.FSQ_CTL h, Reg.FSQ_STATUS h] ∧ SameViews s t ∧ SameMemory s t) ∧
    (s.seqEnabled (32 + h) = true → v.getLsbD 0 = false → Completes (.fsqEnable w h v) s fun t =>
      t.seqState (32 + h) = 0 ∧ t.seqEnabled (32 + h) = false ∧ (t.seq (32 + h)).waiting = .nothing ∧
      (t.seq (32 + h)).stores = (s.seq (32 + h)).stores ∧ (t.seq (32 + h)).shadowQ = (s.seq (32 + h)).shadowQ ∧
      SameRegs s t [Reg.FSQ_CTL h, Reg.FSQ_STATUS h] ∧ SameViews s t ∧ SameMemory s t)) ∧
  (∀ (w : FnId) (h : HeadId) (s : State), s.Reaches (Reg.FSQ_CTL h) → (w = 0 ∨ s.headFn h = w) →
    s.seqEnabled (32 + h) = true →
    Completes (.fsqRestart w h) s fun t => (t.seq (32 + h)).buffer = [] ∧ t.seqEnabled (32 + h) = true ∧
      (s.seqState (32 + h) = 4 → t.seqState (32 + h) = 1) ∧
      t.fget (Reg.FSQ_STATUS h) Bit.FSQ_STATUS_FAULT_RUNS = s.fget (Reg.FSQ_STATUS h) Bit.FSQ_STATUS_FAULT_RUNS ∧
      (s.seqState (32 + h) ≠ 4 → t.seqState (32 + h) = s.seqState (32 + h)) ∧
      SameRegs s t [Reg.FSQ_STATUS h, Reg.FSQ_CTL h] ∧ SameViews s t ∧ SameMemory s t) ∧
  (∀ (w : FnId) (h : HeadId) (hi : Bool) (v : Word) (s : State), s.Reaches (Reg.FSQ_ENTRY_LO h) → (w = 0 ∨ s.headFn h = w) →
    Completes (.fsqEntryWrite w h hi v) s fun t => (t.seq (32 + h)).buffer = [] ∧
      (hi = false → t.rd (Reg.FSQ_ENTRY_LO h) = v.toNat / 8 * 8 ∧ SameRegs s t [Reg.FSQ_ENTRY_LO h]) ∧
      (hi = true → t.rd (Reg.FSQ_ENTRY_HI h) = v.toNat % 32 ∧ SameRegs s t [Reg.FSQ_ENTRY_HI h]) ∧
      SameViews s t ∧ SameMemory s t)

/-- R57 (the fields of a word), R59 (the second word), R61 (opcodes), R58, R60 and R63 (fields that must be zero). -/
def Obligations.AtciaDecodeAndEncodeAgree : Prop :=
  (∀ i : Atcia, atciaLegal i = true →
    wantsSecond (encodeAtcia i) = i.x ∧ decodeAtcia (encodeAtcia i) i.k = some i) ∧
  (∀ (w k : DWord) (i : Atcia), decodeAtcia w k = some i →
    atciaLegal i = true ∧ encodeAtcia i = w ∧ i.x = wantsSecond w ∧ (i.x = true → i.k = k))

/-- R62, the whole table: "Holds when" and "After `CMP`". -/
def Obligations.ConditionsOfJcc : Prop :=
  (∀ x : Seq, conditionHolds 0 x = true ∧ conditionHolds 1 x = x.z ∧ conditionHolds 2 x = !x.z ∧
    conditionHolds 3 x = !x.c ∧ conditionHolds 4 x = x.c ∧ conditionHolds 5 x = (!x.c || x.z) ∧
    conditionHolds 6 x = (x.c && !x.z) ∧ conditionHolds 7 x = (x.n != x.v) ∧ conditionHolds 8 x = (x.n == x.v) ∧
    conditionHolds 9 x = (x.z || x.n != x.v) ∧ conditionHolds 10 x = (!x.z && x.n == x.v) ∧ conditionHolds 11 x = x.n ∧
    conditionHolds 12 x = !x.n ∧ conditionHolds 13 x = x.v ∧ conditionHolds 14 x = !x.v) ∧
  (∀ (q : SeqId) (i : Atcia) (s : State), s.Fetches q i → i.op = .cmp →
    Completes (.cmp q) s fun t =>
      let a := (s.seq q).reg i.a
      let b := operandS s q i
      let holds (code : Nat) : Prop := conditionHolds code (t.seq q) = true
      (holds 1 ↔ a = b) ∧ (holds 2 ↔ a ≠ b) ∧ (holds 3 ↔ a.toNat < b.toNat) ∧ (holds 4 ↔ b.toNat ≤ a.toNat) ∧
      (holds 5 ↔ a.toNat ≤ b.toNat) ∧ (holds 6 ↔ b.toNat < a.toNat) ∧ (holds 7 ↔ a.toInt < b.toInt) ∧
      (holds 8 ↔ b.toInt ≤ a.toInt) ∧ (holds 9 ↔ a.toInt ≤ b.toInt) ∧ (holds 10 ↔ b.toInt < a.toInt) ∧
      (holds 11 ↔ (a - b).toInt < 0) ∧ (holds 12 ↔ 0 ≤ (a - b).toInt) ∧
      (holds 13 ↔ (a - b).toInt ≠ a.toInt - b.toInt) ∧ (holds 14 ↔ (a - b).toInt = a.toInt - b.toInt)) ∧
  (∀ (q : SeqId) (w k : DWord) (s : State), s.canIssue q = true → s.fetchAt q = .word w k →
    w.toNat / 2 ^ 56 = 0x03 → w.toNat / 2 ^ 32 % 16 = 15 → exec (.jcc q) s = .next (s.seqFault q 0x01 true))

/-- R67 and the rows of R68 for these instructions. -/
def Obligations.ArithmeticInstructions : Prop :=
  ∀ (q : SeqId) (i : Atcia) (s : State), s.Fetches q i →
    let x := s.seq q
    let a := x.reg i.a
    let S := operandS s q i
    let n := S.toNat % 64
    (i.op = .addi → i.ctl.getLsbD 1 = false → exec (.addi q) s = .next (past s q i
      { x.setReg i.d (a + S) with z := decide (a + S = 0), n := (a + S).msb, c := decide (2 ^ 64 ≤ a.toNat + S.toNat),
                                  v := decide ((a + S).toInt ≠ a.toInt + S.toInt) })) ∧
    (i.op = .addi → i.ctl.getLsbD 1 = true → exec (.addi q) s = .next (past s q i
      { x.setReg i.d (a - S) with z := decide (a - S = 0), n := (a - S).msb, c := decide (S.toNat ≤ a.toNat),
                                  v := decide ((a - S).toInt ≠ a.toInt - S.toInt) })) ∧
    (i.op = .cmp → exec (.cmp q) s = .next (past s q i
      { x with z := decide (a - S = 0), n := (a - S).msb, c := decide (S.toNat ≤ a.toNat),
               v := decide ((a - S).toInt ≠ a.toInt - S.toInt) })) ∧
    (i.op = .and → exec (.and q) s = .next (past s q i
      { x.setReg i.d (a &&& S) with z := decide (a &&& S = 0), n := (a &&& S).msb })) ∧
    (i.op = .or → exec (.or q) s = .next (past s q i
      { x.setReg i.d (a ||| S) with z := decide (a ||| S = 0), n := (a ||| S).msb })) ∧
    (i.op = .xor → exec (.xor q) s = .next (past s q i
      { x.setReg i.d (a ^^^ S) with z := decide (a ^^^ S = 0), n := (a ^^^ S).msb })) ∧
    (i.op = .shl → ∃ r : DWord, r.toNat = a.toNat * 2 ^ n % 2 ^ 64 ∧ exec (.shl q) s = .next (past s q i
      { x.setReg i.d r with z := decide (r = 0), n := r.msb, c := decide (n ≠ 0) && a.getLsbD (64 - n), v := false })) ∧
    (i.op = .shr → i.ctl.getLsbD 1 = false → ∃ r : DWord, r.toNat = a.toNat / 2 ^ n ∧ exec (.shr q) s = .next (past s q i
      { x.setReg i.d r with z := decide (r = 0), n := r.msb, c := decide (n ≠ 0) && a.getLsbD (n - 1), v := false })) ∧
    (i.op = .shr → i.ctl.getLsbD 1 = true → ∃ r : DWord, r.toInt = a.toInt / 2 ^ n ∧ exec (.shr q) s = .next (past s q i
      { x.setReg i.d r with z := decide (r = 0), n := r.msb, c := decide (n ≠ 0) && a.getLsbD (n - 1), v := false }))

/-- R60, whole, with the exception ILLEGAL (code 0x01) of R58. -/
def Obligations.SecondOperand : Prop :=
  let family (op : Op) : Prop := op = .addi ∨ op = .and ∨ op = .or ∨ op = .xor ∨ op = .shl ∨ op = .shr ∨ op = .cmp
  (∀ (w k : DWord) (i : Atcia) (x : Seq), decodeAtcia w k = some i → family i.op →
    (i.x = false → i.ctl.getLsbD 0 = false → secondOperand x i = x.reg i.b ∧ i.imm = 0) ∧
    (i.x = false → i.ctl.getLsbD 0 = true → secondOperand x i = i.imm.signExtend 64 ∧ i.b = 0) ∧
    (i.x = true → secondOperand x i = k ∧ i.ctl.getLsbD 0 = false ∧ i.b = 0 ∧ i.imm = 0)) ∧
  (∀ (q : SeqId) (w k : DWord) (op : Op) (s : State), s.canIssue q = true → s.fetchAt q = .word w k → family op →
    w.toNat / 2 ^ 56 = opcodeOf op →
    ((w.getLsbD 43 = false ∧ w.getLsbD 32 = false ∧ w.toNat % 2 ^ 32 ≠ 0) ∨ (w.getLsbD 32 = true ∧ w.toNat / 2 ^ 44 % 16 ≠ 0) ∨
      (w.getLsbD 43 = true ∧ (w.getLsbD 32 = true ∨ w.toNat / 2 ^ 44 % 16 ≠ 0))) →
    exec (rowOf op q) s = .next (s.seqFault q 0x01 true))

/-- R63 (targets and their checks), R62, R56. -/
def Obligations.Jumps : Prop :=
  ∀ (q : SeqId) (i : Atcia) (s : State), s.Fetches q i → (i.op = .jmp ∨ i.op = .jcc) →
    let x := s.seq q
    let row : Instr := if i.op = .jmp then .jmp q else .jcc q
    let reg := if i.op = .jmp then i.ctl.getLsbD 0 else i.ctl.getLsbD 4
    let byte : Nat := (if i.x then i.k else x.reg i.a + i.imm.signExtend 64).toNat
    let taken : Prop := i.op = .jmp ∨ conditionHolds (i.ctl.toNat % 16) x = true
    (¬taken → exec row s = .next (past s q i x)) ∧
    (taken → i.x = false → reg = false →
      ∃ pc : Nat, (pc : Int) = ((x.pc : Int) + i.imm.toInt) % 2 ^ 34 ∧ exec row s = .next (s.setSeq q { x with pc := pc })) ∧
    (taken → (i.x = true ∨ reg = true) →
      (byte % 8 ≠ 0 → exec row s = .next (s.seqFault q 0x03 true)) ∧
      (byte % 8 = 0 → 2 ^ 37 ≤ byte → exec row s = .next (s.seqFault q 0x04 true)) ∧
      (byte % 8 = 0 → byte < 2 ^ 37 → exec row s = .next (s.setSeq q { x with pc := byte / 8 })))

/-- R64 and R65, whole. -/
def Obligations.CallReturnAndLoop : Prop :=
  (∀ (q : SeqId) (i : Atcia) (target : Nat) (s : State), s.Fetches q i → i.op = .call →
    branchTarget (s.seq q) i (i.ctl.getLsbD 0) = .ok target →
    ((s.seq q).stack.length < 16 → exec (.call q) s = .next (s.setSeq q { s.seq q with
      pc := target, stack := ((s.seq q).pc + (if i.x then 2 else 1)) :: (s.seq q).stack })) ∧
    (16 ≤ (s.seq q).stack.length → exec (.call q) s = .next (s.seqFault q 0x0C true))) ∧
  (∀ (q : SeqId) (i : Atcia) (s : State), s.Fetches q i → i.op = .ret →
    (∀ pc rest, (s.seq q).stack = pc :: rest → exec (.ret q) s = .next (s.setSeq q { s.seq q with pc := pc, stack := rest })) ∧
    ((s.seq q).stack = [] → exec (.ret q) s = .next (s.seqFault q 0x0D true))) ∧
  (∀ (q : SeqId) (i : Atcia) (s : State), s.Fetches q i → i.op = .halt → (s.seq q).stores = [] →
    Completes (.halt q) s fun t => (t.seq q).stack = []) ∧
  (∀ (q : SeqId) (i : Atcia) (s : State), s.Fetches q i → i.op = .loop →
    let x := s.seq q
    (x.reg i.d = 0 → exec (.loop q) s = .next (past s q i x)) ∧
    (x.reg i.d = 1 → exec (.loop q) s = .next (past s q i (x.setReg i.d 0))) ∧
    (x.reg i.d ≠ 0 → x.reg i.d ≠ 1 → ∃ pc : Nat, (pc : Int) = ((x.pc : Int) + i.imm.toInt) % 2 ^ 34 ∧
      exec (.loop q) s = .next (s.setSeq q { x.setReg i.d (x.reg i.d - 1) with pc := pc })))

/-- R66; the bookkeeping of a run's end is that of R43 and R48. -/
def Obligations.HaltAndNop : Prop :=
  (∀ (q : SeqId) (i : Atcia) (s : State), s.Fetches q i → i.op = .nop → exec (.nop q) s = .next (past s q i (s.seq q))) ∧
  (∀ (q : SeqId) (i : Atcia) (s : State), s.Fetches q i → i.op = .halt → (s.seq q).stores ≠ [] →
    exec (.halt q) s = .next ((s.setSeq q { s.seq q with waiting := .halt }).setSeqState q 3)) ∧
  (∀ (q : SeqId) (s : State), (s.seq q).stores = [] →
    ((∃ i, s.Fetches q i ∧ i.op = .halt) → exec (.halt q) s = .next (runEnded s q)) ∧
    ((s.seq q).waiting = .halt → exec (.haltComplete q) s = .next (runEnded s q))) ∧
  (∀ (q : SeqId) (s : State), (s.seq q).stores ≠ [] → exec (.haltComplete q) s = .next s)

/-- R73, R75 and the row of R68 for `WAITEV`. -/
def Obligations.WaitingForEvents : Prop :=
  (∀ (q : SeqId) (i : Atcia) (s : State), s.Fetches q i → i.op = .waitev →
    let x := s.seq q
    let src := i.imm.toNat
    let last := (x.reg i.a).toNat % 2 ^ 32
    let count := s.rd (Reg.EVC_SRC_COUNT src)
    let more := decide (1 < (count + 2 ^ 32 - last) % 2 ^ 32)
    let limit := (x.reg i.b).toNat
    (¬(src < 6144 ∧ (s.sourceFn src = s.seqFn q ∨ allVisible src = true)) → exec (.waitev q) s = .next (s.seqFault q 0x0B true)) ∧
    (src < 6144 → (s.sourceFn src = s.seqFn q ∨ allVisible src = true) →
      (i.ctl.getLsbD 0 = true → exec (.waitev q) s = .next (past s q i
        { x.setReg i.d (BitVec.ofNat 64 count) with z := decide (count = last), c := !decide (count = last) && more })) ∧
      (i.ctl.getLsbD 0 = false → count ≠ last → exec (.waitev q) s = .next (past s q i
        { x.setReg i.d (BitVec.ofNat 64 count) with z := false, c := more })) ∧
      (i.ctl.getLsbD 0 = false → count = last → exec (.waitev q) s = .next ((s.setSeq q { x with
        waiting := .event i.d src last (if limit = 0 then none else some (s.now + limit)) }).setSeqState q 3)))) ∧
  (∀ (q : SeqId) (dest src last : Nat) (deadline : Option Nat) (s : State), (s.seq q).waiting = .event dest src last deadline →
    let x := s.seq q
    let count := s.rd (Reg.EVC_SRC_COUNT src)
    (count ≠ last → exec (.waitevWake q) s = .next ((s.setSeq q { x.setReg dest (BitVec.ofNat 64 count) with
      z := false, c := decide (1 < (count + 2 ^ 32 - last) % 2 ^ 32), waiting := .nothing, pc := x.pc + 1 }).setSeqState q 2)) ∧
    (∀ d, deadline = some d → d ≤ s.now → count = last →
      exec (.waitevTimeout q) s = .next ((s.setSeq q { x.setReg dest (BitVec.ofNat 64 last) with
        z := true, c := false, waiting := .nothing, pc := x.pc + 1 }).setSeqState q 2))) ∧
  (∀ (q : SeqId) (i : Atcia) (s : State), s.Fetches q i → i.op = .signal →
    let src := i.imm.toNat
    (¬(5184 ≤ src ∧ src < 5440 ∧ s.sourceFn src = s.seqFn q) → exec (.signal q) s = .next (s.seqFault q 0x0B true)) ∧
    (5184 ≤ src → src < 5440 → s.sourceFn src = s.seqFn q → (s.seq q).stores ≠ [] → exec (.signal q) s = .next s) ∧
    (5184 ≤ src → src < 5440 → s.sourceFn src = s.seqFn q → (s.seq q).stores = [] →
      exec (.signal q) s = .next (past (s.raise src 0 q.val 2) q i (s.seq q))))

/-- R74, R76, R77. -/
def Obligations.WaitingForLinesAndFences : Prop :=
  (∀ (q : SeqId) (i : Atcia) (h : Nat) (s : State), s.Fetches q i → i.op = .waitln → s.namedHead q i = .ok h →
    let x := s.seq q
    let target : Int := (x.reg i.a).toInt + i.imm.toInt
    let run := s.head h
    let waits (w : Waiting) : Prop := exec (.waitln q) s = .next ((s.setSeq q { x with waiting := w }).setSeqState q 3)
    (s.headRunning h = false → exec (.waitln q) s = .next (past s q i { x with c := false, v := true })) ∧
    (s.headRunning h = true → (target < 0 ∨ (s.vtotal h : Int) ≤ target) → waits (.line h 0 run.frame true)) ∧
    (s.headRunning h = true → 0 ≤ target → target < s.vtotal h → (run.line : Int) < target →
      waits (.line h target.toNat run.frame false)) ∧
    (s.headRunning h = true → 0 ≤ target → target < s.vtotal h → target ≤ run.line →
      (i.ctl.getLsbD 0 = true → waits (.line h target.toNat (run.frame + 1) false)) ∧
      (i.ctl.getLsbD 0 = false → exec (.waitln q) s = .next (past s q i { x with c := true, v := false })))) ∧
  (∀ (q : SeqId) (h target frame : Nat) (out : Bool) (s : State), (s.seq q).waiting = .line h target frame out →
    let x := s.seq q
    (s.headRunning h = true → out = false → (s.head h).frame = frame → target ≤ (s.head h).line →
      exec (.waitlnWake q) s = .next ((s.setSeq q { x with c := false, v := false, waiting := .nothing, pc := x.pc + 1 }).setSeqState q 2)) ∧
    (s.headRunning h = true → out = true → frame < (s.head h).frame →
      exec (.waitlnWake q) s = .next ((s.setSeq q { x with c := false, v := true, waiting := .nothing, pc := x.pc + 1 }).setSeqState q 2))) ∧
  (∀ (q : SeqId) (i : Atcia) (s : State), s.Fetches q i → (i.op = .waitln ∨ i.op = .stamp ∧ i.ctl.toNat % 8 ≠ 0) →
    (q.val < 32 → i.ctl.getLsbD 3 = false →
      exec (if i.op = .waitln then .waitln q else .stamp q) s = .next (s.seqFault q 0x02 true)) ∧
    (i.ctl.getLsbD 3 = true → ((s.seq q).reg i.b).toNat < 128 → s.headFn ((s.seq q).reg i.b).toNat ≠ s.seqFn q →
      exec (if i.op = .waitln then .waitln q else .stamp q) s = .next (s.seqFault q 0x0A true))) ∧
  (∀ (q : SeqId) (i : Atcia) (s : State), s.Fetches q i → i.op = .stamp →
    let x := s.seq q
    (i.ctl.toNat % 8 = 0 → exec (.stamp q) s = .next (past { s with fresh := s.fresh + 1 } q i
      (x.setReg i.d (BitVec.ofNat 64 (s.replica 2))))) ∧
    (∀ h, s.namedHead q i = .ok h →
      (i.ctl.toNat % 8 = 1 → exec (.stamp q) s = .next (past s q i (x.setReg i.d (BitVec.ofNat 64 (s.head h).frame)))) ∧
      (i.ctl.toNat % 8 = 2 → exec (.stamp q) s = .next (past s q i (x.setReg i.d (BitVec.ofNat 64 (s.head h).boundary)))) ∧
      (i.ctl.toNat % 8 = 3 → exec (.stamp q) s = .next (past s q i
        (x.setReg i.d (BitVec.ofNat 64 (if s.headRunning h then (s.head h).line else 0))))))) ∧
  (∀ (q : SeqId) (i : Atcia) (s : State), s.Fetches q i → i.op = .fence →
    let x := s.seq q
    let b := i.ctl.toNat
    let holds : Prop := (b % 2 = 1 ∨ b = 0 → x.stores = []) ∧ (b / 2 % 2 = 1 ∨ b = 0 → x.shadowQ = []) ∧
      (b / 4 % 2 = 1 → ∀ c ∈ s.commits, c.by_ ≠ q.val)
    (holds → exec (.fence q) s = .next (past s q i (if b / 8 % 2 = 1 then { x with buffer := [] } else x))) ∧
    (¬holds → exec (.fence q) s = .next ((s.setSeq q { x with waiting := .fence b }).setSeqState q 3))) ∧
  (∀ (q : SeqId) (ctl : Nat) (s : State), (s.seq q).waiting = .fence ctl → s.fenceHolds q ctl = true →
    let x := s.seq q
    exec (.fenceComplete q) s = .next ((s.setSeq q { x with
      buffer := if ctl / 8 % 2 = 1 then [] else x.buffer, waiting := .nothing, pc := x.pc + 1 }).setSeqState q 2))

/-- R47 ("An instruction that raises an exception has no effect. The sequencer stops before the instruction, enters `FAULTED`, records the exception code and program counter, and raises the sequencer-fault event."), R90. -/
def Obligations.TakingAnException : Prop :=
  (∀ (q : SeqId) (c : Fin 128) (s : State), (s.seq q).pc < 2 ^ 34 → s.islandOn 2 = true →
    let t := s.seqFault q c true
    t.seqState q = 4 ∧ t.fget (seqStatus q) Bit.CP_STATUS_FAULT_CODE = c.val ∧
    (q.val < 32 → t.rd (Reg.CP_FAULT_PC_LO q) + t.rd (Reg.CP_FAULT_PC_HI q) * 2 ^ 32 = (s.seq q).pc) ∧
    (32 ≤ q.val → t.rd (Reg.FSQ_FAULT_PC_LO (q - 32)) + t.rd (Reg.FSQ_FAULT_PC_HI (q - 32)) * 2 ^ 32 = (s.seq q).pc ∧
      t.fget (Reg.FSQ_STATUS (q - 32)) Bit.FSQ_STATUS_FAULT_RUNS =
        min 3 (s.fget (Reg.FSQ_STATUS (q - 32)) Bit.FSQ_STATUS_FAULT_RUNS + 1)) ∧
    t.seq q = { s.seq q with waiting := .nothing, linkWait := false } ∧ (∀ p : SeqId, p ≠ q → t.seq p = s.seq p) ∧
    (∃ time, t.occs = s.occs ++ [⟨4480 + q.val, 1, c.val, time, 2⟩]) ∧ SameViews s t ∧ SameMemory s t) ∧
  (∀ (q : SeqId) (w k : DWord) (s : State), s.canIssue q = true → s.fetchAt q = .word w k →
    (opOf (w.toNat / 2 ^ 56) = none → exec (.nop q) s = .next (s.seqFault q 0x01 true) ∧
      exec (.addi q) s = .next (s.seqFault q 0x01 true) ∧ exec (.commit q) s = .next (s.seqFault q 0x01 true)) ∧
    (opOf (w.toNat / 2 ^ 56) = some .nop → w.toNat % 2 ^ 56 ≠ 0 → exec (.nop q) s = .next (s.seqFault q 0x01 true)))

/-- R26, R89 (the buffer), R56, R90, R94, R322, R72. The row used for the issue is `NOP`'s; the fetch precedes every row alike. -/
def Obligations.FetchingAProgramLine : Prop :=
  (∀ (q : SeqId) (line : Nat) (s : State), s.canIssue q = true → s.fetchAt q = .miss line →
    (∀ phys, s.translate (s.seqFn q) line .read = .localMem phys → s.memOn = true →
      Completes (.nop q) s fun t => (t.seq q) = { s.seq q with waiting := .fetch line (.localMem phys) s.now } ∧
        SameRegs s t [] ∧ SameViews s t ∧ SameMemory s t) ∧
    (∀ p, s.translate (s.seqFn q) line .read = .refused p →
      exec (.nop q) s = .next ((s.refusal p (s.seqFn q) false 2).seqFault q 0x05 true))) ∧
  (∀ (q : SeqId) (s : State), s.canIssue q = true → s.fetchAt q = .past → exec (.nop q) s = .next (s.seqFault q 0x04 true)) ∧
  (∀ (q : SeqId) (line phys at_ : Nat) (r : ReadResult) (s : State), (s.seq q).waiting = .fetch line (.localMem phys) at_ →
    s.memOn = true → s.unserved q phys = false →
    (s.poisoned phys = false → s.finding phys = .clean → r ≠ .uncorrectable →
      exec (.programFetchFill q r) s = .next (lineFilled (s.clearFinding phys) q line (s.loadBytes phys 64))) ∧
    (s.poisoned phys = true →
      exec (.programFetchFill q r) s = .next (((s.clearFinding phys).uncorrectable phys).seqFault q 0x06 true)) ∧
    (s.poisoned phys = false → s.eccOn = true → r = .uncorrectable →
      exec (.programFetchFill q r) s = .next (((s.clearFinding phys).freshError phys).seqFault q 0x06 true))) ∧
  (∀ (q : SeqId) (line fn a at_ : Nat) (s : State), (s.seq q).waiting = .fetch line (.hostWin fn a) at_ →
    s.ideBlocked fn (some a) = false →
    (∀ bytes, exec (.programFetchFill q (.data bytes)) s = .next (lineFilled s q line bytes)) ∧
    exec (.programFetchFill q .unsupported) s = .next (s.seqFault q 0x06 true) ∧
    (s.linkUp = false → q.val < 32 → exec (.programFetchFill q .timeout) s = .next
      ((s.setSeq q { s.seq q with waiting := .nothing, linkWait := true }).setSeqState q 5)) ∧
    (s.linkUp = false → 32 ≤ q.val → exec (.programFetchFill q .timeout) s = .next (s.seqFault q 0x07 true)))

/-- R69, R71, R91 (the order of causes), R90, R94. -/
def Obligations.LoadsAndStores : Prop :=
  (∀ (q : SeqId) (i : Atcia) (s : State), s.Fetches q i → (i.op = .ldw ∨ i.op = .stw) →
    let row : Instr := if i.op = .ldw then .ldw q else .stw q
    let reg := i.ctl.getLsbD 2
    (reg = true → dataSize i ≠ 4 → exec row s = .next (s.seqFault q 0x02 true)) ∧
    ((reg = true → dataSize i = 4) → dataAddr s q i % dataSize i ≠ 0 → exec row s = .next (s.seqFault q 0x03 true)) ∧
    ((reg = true → dataSize i = 4) → dataAddr s q i % dataSize i = 0 →
      (if reg then ownView (s.seqFn q) else 2 ^ 37) ≤ dataAddr s q i → exec row s = .next (s.seqFault q 0x04 true)) ∧
    (∀ p, reg = false → dataAddr s q i % dataSize i = 0 → dataAddr s q i < 2 ^ 37 →
      (i.op = .ldw → (s.seq q).storeAt (dataAddr s q i) false = false) →
      s.translate (s.seqFn q) (dataAddr s q i) (if i.op = .ldw then .read else .write) = .refused p →
      exec row s = .next ((s.refusal p (s.seqFn q) (decide (i.op = .stw)) 2).seqFault q 0x05 true))) ∧
  (∀ (q : SeqId) (i : Atcia) (phys : Nat) (s : State), s.Fetches q i → i.ctl.getLsbD 2 = false →
    dataAddr s q i % dataSize i = 0 → dataAddr s q i < 2 ^ 37 → s.memOn = true →
    (i.op = .ldw → (s.seq q).storeAt (dataAddr s q i) false = false →
      s.translate (s.seqFn q) (dataAddr s q i) .read = .localMem phys →
      Completes (.ldw q) s fun t =>
        (t.seq q).waiting = .load i.d (dataSize i) (dataAddr s q i) (.localMem phys) s.now ((s.seq q).pc + (if i.x then 2 else 1)) ∧
        (t.seq q).regs = (s.seq q).regs ∧ (t.seq q).pc = (s.seq q).pc ∧ SameRegs s t [] ∧ SameViews s t ∧ SameMemory s t) ∧
    (i.op = .stw → (s.seq q).stores.length < 8 → s.translate (s.seqFn q) (dataAddr s q i) .write = .localMem phys →
      Completes (.stw q) s fun t =>
        t.seq q = { s.seq q with
          pc := (s.seq q).pc + (if i.x then 2 else 1),
          stores := (s.seq q).stores ++ [⟨dataAddr s q i / 8 * 8, s.now, .localMem phys,
            toBytes (dataSize i) ((s.seq q).reg i.b).toNat⟩] } ∧
        SameRegs s t [] ∧ SameViews s t ∧ SameMemory s t)) ∧
  (∀ (q : SeqId) (i : Atcia) (s : State), s.Fetches q i → i.ctl.getLsbD 2 = true → dataSize i = 4 →
    dataAddr s q i % 4 = 0 → dataAddr s q i < ownView (s.seqFn q) →
    (i.op = .ldw → (s.seq q).storeAt (dataAddr s q i) true = false →
      exec (.ldw q) s = .next (s.setSeq q { s.seq q with
        waiting := .load i.d 4 (dataAddr s q i) (.register (dataAddr s q i)) s.now ((s.seq q).pc + (if i.x then 2 else 1)),
        deadline := 0 }))) ∧
  (∀ (q : SeqId) (dest size addr phys at_ next : Nat) (r : ReadResult) (s : State),
    (s.seq q).waiting = .load dest size addr (.localMem phys) at_ next →
    (Served s q phys → r ≠ .uncorrectable →
      exec (.ldwDataReturn q r) s = .next (loaded (s.clearFinding phys) q dest (ofBytes (s.loadBytes phys size)) next)) ∧
    (s.memOn = true → s.unserved q phys = false → s.poisoned phys = true →
      exec (.ldwDataReturn q r) s = .next (((s.clearFinding phys).uncorrectable phys).seqFault q 0x06 true))) ∧
  (∀ (q : SeqId) (dest size addr off at_ next : Nat) (t : State) (w : Nat) (r : ReadResult) (s : State),
    (s.seq q).waiting = .load dest size addr (.register off) at_ next → s.inTransit (.seqLoad q) = false →
    s.readWord (s.seqFn q) off = (t, some w) →
    exec (.ldwDataReturn q r) s = .next (loaded t q dest w next)) ∧
  (∀ (q : SeqId) (st : Store) (rest : List Store) (r : ReadResult) (raced : Word) (s : State), (s.seq q).stores = st :: rest →
    let popped := s.setSeq q { s.seq q with stores := rest }
    (∀ phys, st.dest = .localMem phys → s.memOn = true → s.unserved q phys = false →
      exec (.storePerformed q 0 ⟨r, [raced]⟩) s = .next (popped.store phys st.bytes)) ∧
    (∀ fn a, st.dest = .hostWin fn a → s.linkUp = true → s.ideBlocked fn (some a) = false →
      exec (.storePerformed q 0 ⟨r, [raced]⟩) s = .next { popped with hostTx := s.hostTx ++ [.write fn a st.bytes] }) ∧
    (∀ off, st.dest = .register off → s.inReset = false → s.inTransit (.seqStore q) = false →
      exec (.storePerformed q 0 ⟨r, [raced]⟩) s = .next (popped.writeWord (s.seqFn q) off (ofBytes st.bytes) r raced.toNat)))

/-- R70, the whole table; R71 rule 3; R68 for compare-and-swap. -/
def Obligations.AtomicInstructions : Prop :=
  (∀ (q : SeqId) (i : Atcia) (s : State), s.Fetches q i → i.op = .atom →
    let addr := ((s.seq q).reg i.a + i.imm.signExtend 64).toNat
    let size := if i.ctl.getLsbD 3 then 4 else 8
    (addr % size ≠ 0 → exec (.atom q) s = .next (s.seqFault q 0x03 true)) ∧
    (addr % size = 0 → 2 ^ 37 ≤ addr → exec (.atom q) s = .next (s.seqFault q 0x04 true)) ∧
    (addr % size = 0 → 2 ^ 36 ≤ addr → addr < 2 ^ 37 → exec (.atom q) s = .next (s.seqFault q 0x0E true)) ∧
    (addr % size = 0 → addr < 2 ^ 36 → (s.seq q).stores ≠ [] → exec (.atom q) s = .next s) ∧
    (∀ phys, addr % size = 0 → addr < 2 ^ 36 → (s.seq q).stores = [] → s.memOn = true →
      s.translate (s.seqFn q) addr .both = .localMem phys →
      Completes (.atom q) s fun t => t.seq q = { s.seq q with
          waiting := .atom i.d size (i.ctl.toNat % 8) addr phys s.now ((s.seq q).reg i.b) ((s.seq q).reg i.d) } ∧
        SameRegs s t [] ∧ SameViews s t ∧ SameMemory s t)) ∧
  (∀ (q : SeqId) (dest size oper addr phys at_ : Nat) (b d : DWord) (s : State),
    (s.seq q).waiting = .atom dest size oper addr phys at_ b d → (size = 4 ∨ size = 8) → oper < 6 → phys % size = 0 →
    Served s q phys → s.atomFirst q phys at_ = true → s.retiring = none →
    Completes (.atomComplete q false) s fun t =>
      let m := 2 ^ (8 * size)
      let old := ofBytes (s.loadBytes phys size)
      let new := ofBytes (t.loadBytes phys size)
      (oper = 0 → new = b.toNat % m) ∧ (oper = 1 → new = (old + b.toNat) % m) ∧
      (oper = 2 → ∀ k, new.testBit k = (old.testBit k && (b.toNat % m).testBit k)) ∧
      (oper = 3 → ∀ k, new.testBit k = (old.testBit k || (b.toNat % m).testBit k)) ∧
      (oper = 4 → ∀ k, new.testBit k = (old.testBit k ^^ (b.toNat % m).testBit k)) ∧
      (oper = 5 → new = (if old = d.toNat % m then b.toNat % m else old) ∧ (t.seq q).z = decide (old = d.toNat % m)) ∧
      (oper ≠ 5 → (t.seq q).z = (s.seq q).z) ∧ (t.seq q).n = (s.seq q).n ∧ (t.seq q).c = (s.seq q).c ∧
      (t.seq q).v = (s.seq q).v ∧ (dest ≠ 0 → tabGet (t.seq q).regs dest = some (BitVec.ofNat 64 old)) ∧
      (t.seq q).pc = (s.seq q).pc + 1 ∧ (t.seq q).waiting = .nothing ∧
      (∀ a, a < phys ∨ phys + size ≤ a → t.loadByte a = s.loadByte a) ∧ SameRegs s t [] ∧ SameViews s t) ∧
  (∀ (q : SeqId) (dest size oper addr phys at_ : Nat) (b d : DWord) (s : State),
    (s.seq q).waiting = .atom dest size oper addr phys at_ b d → s.memOn = true → s.eccOn = true →
    s.unserved q phys = false → s.atomFirst q phys at_ = true → s.poisoned phys = false →
    exec (.atomComplete q true) s = .next (((s.clearFinding phys).freshError phys).seqFault q 0x06 true))

/-- R78 to R81, R34. -/
def Obligations.StateInstructions : Prop :=
  (∀ (q : SeqId) (i : Atcia) (s : State), s.Fetches q i → stateOp i.op = true →
    let id := i.imm.toNat % 2 ^ 16
    let idx := ((s.seq q).reg i.a + BitVec.ofNat 64 (i.imm.toNat / 2 ^ 16)).toNat
    let v := (if i.x then i.k else (s.seq q).reg i.b).toNat % 2 ^ 32
    let row := stateRow i.op q
    (∀ c, fieldWord i.op id idx = .error c → exec row s = .next (s.seqFault q c true)) ∧
    (∀ off obj, fieldWord i.op id idx = .ok off → shadowObj off = some obj →
      (s.shadowOwner obj ≠ s.seqFn q → exec row s = .next (s.seqFault q 0x0A true)) ∧
      (s.shadowOwner obj = s.seqFn q → 4 ≤ (s.seq q).shadowQ.length → exec row s = .next s) ∧
      (s.shadowOwner obj = s.seqFn q → (s.seq q).shadowQ.length < 4 → i.op ≠ .sigexp →
        exec row s = .next (queued s q i (.words [(off, shadowMask obj, v)]))) ∧
      (s.shadowOwner obj = s.seqFn q → (s.seq q).shadowQ.length < 4 → i.op = .sigexp → i.ctl.getLsbD 0 = true →
        exec row s = .next (queued s q i (.words [(cmpEnOf off, 1, 0)]))) ∧
      (s.shadowOwner obj = s.seqFn q → (s.seq q).shadowQ.length < 4 → i.op = .sigexp → i.ctl.getLsbD 0 = false →
        off ≠ cmpEnOf off →
        exec row s = .next (queued s q i (.words [(off, shadowMask obj, v), (cmpEnOf off, 1, 1)]))))) ∧
  (∀ (id idx : Nat), (id / 256 ≠ 0x4C → fieldWord .lset id idx = .error 0x08) ∧ (id / 256 ≠ 0x48 → fieldWord .hset id idx = .error 0x08) ∧
    (id / 256 ≠ 0x43 → fieldWord .cset id idx = .error 0x08) ∧ (id / 256 ≠ 0x47 → fieldWord .gset id idx = .error 0x08) ∧
    (id / 256 ≠ 0x53 → fieldWord .sigdef id idx = .error 0x08 ∧ fieldWord .sigexp id idx = .error 0x08)) ∧
  (∀ idx : Nat, fieldWord .sigexp 0x530C idx = .error 0x08 ∧ fieldWord .sigdef 0x530C idx = .error 0x08) ∧
  (∀ (q : SeqId) (i : Atcia) (s : State), s.Fetches q i → i.op = .lcopy →
    let dst := ((s.seq q).reg i.a).toNat
    let src := ((s.seq q).reg i.b).toNat
    (4096 ≤ dst ∨ 4096 ≤ src → exec (.lcopy q) s = .next (s.seqFault q 0x09 true)) ∧
    (dst < 4096 → src < 4096 → (s.slotFn dst ≠ s.seqFn q ∨ s.slotFn src ≠ s.seqFn q) →
      exec (.lcopy q) s = .next (s.seqFault q 0x0A true)) ∧
    (dst < 4096 → src < 4096 → s.slotFn dst = s.seqFn q → s.slotFn src = s.seqFn q → (s.seq q).shadowQ.length < 4 →
      exec (.lcopy q) s = .next (queued s q i (.lcopy dst src (i.ctl.getLsbD 0) (i.ctl.getLsbD 1) (i.ctl.getLsbD 2)))))

/-- R28 ("accepts up to 16 shadow field writes per cycle"), R34 (bits outside the field are not stored and read as zero). -/
def Obligations.ShadowWritesAreAccepted : Prop :=
  (∀ s : State, Completes .shadowWriteAccept s fun t =>
    (∃ served : List Nat, served.Nodup ∧ served.length ≤ 16 ∧
      (∀ p < 160, t.queueAt p = if p ∈ served then (s.queueAt p).drop 1 else s.queueAt p) ∧
      (((List.range 160).filter fun p => s.queueAt p ≠ []).length ≤ 16 →
        ∀ p < 160, s.queueAt p ≠ [] → p ∈ served)) ∧
    t.benchQ = s.benchQ.drop 1 ∧
    (∀ q : SeqId, (t.seq q).regs = (s.seq q).regs ∧ (t.seq q).pc = (s.seq q).pc) ∧
    t.active = s.active ∧ SameRegs s t [Reg.SEQ_SHADOW_OVERLAP] ∧ SameMemory s t) ∧
  (∀ (q : SeqId) (off mask v : Nat) (s : State), (s.seq q).shadowQ = [.words [(off, mask, v)]] →
    (∀ p < 161, p ≠ q.val → s.queueAt p = []) →
    Completes .shadowWriteAccept s fun t =>
      viewWord t.shadow off = Nat.land v mask % 2 ^ 32 ∧ (∀ off', off' ≠ off → viewWord t.shadow off' = viewWord s.shadow off') ∧
      (t.seq q).shadowQ = [])

/-- R94 ("permitted only when the following conditions hold"), R93 ("The page number alone decides which kind a page is."), R104. -/
def Obligations.PlateMapDecidesEveryAccess : Prop :=
  (∀ (s : State) (f addr : Nat) (r : Right), addr < 2 ^ 37 →
    let p := addr / 2 ^ 20
    let target := s.rd (Reg.PMAP_ENTRY_LO p) / 2 ^ 20 % 2 ^ 12 * 2 ^ 20 + s.rd (Reg.PMAP_ENTRY_HI p) * 2 ^ 32
    (¬ EntryPermits s f p r ↔ s.translate f addr r = .refused p) ∧
    (EntryPermits s f p r → p < 65536 → s.translate f addr r = .localMem (target + addr % 2 ^ 20)) ∧
    (EntryPermits s f p r → 65536 ≤ p →
      s.translate f addr r = .hostWin (s.fget (Reg.PMAP_ENTRY_LO p) Bit.PMAP_ENTRY_LO_FN) (target + addr % 2 ^ 20))) ∧
  (∀ (s : State) (f addr : Nat) (r : Right), f ≠ 0 → f ≠ s.fget (Reg.PMAP_ENTRY_LO (addr / 2 ^ 20)) Bit.PMAP_ENTRY_LO_FN →
    (r = .read → s.fget (Reg.PMAP_ENTRY_LO (addr / 2 ^ 20)) Bit.PMAP_ENTRY_LO_SHARE_READ = 0) →
    s.translate f addr r = .refused (addr / 2 ^ 20)) ∧
  (∀ (s : State) (f addr : Nat) (r : Right), 2 ^ 37 ≤ addr → s.translate f addr r = .refused (addr / 2 ^ 20))

/-- R95, the whole rule; the entry table of R93; R96 for the read. -/
def Obligations.PlateMapEntries : Prop :=
  (∀ (p : PageId) (v : Word) (s : State), s.Reaches (Reg.PMAP_ENTRY_LO p) →
    (Completes (.pmapEntryWrite p false v) s fun t =>
      let stored := decide (65536 ≤ p.val) || decide (p.val + 1024 < s.fget Reg.SYS_MEM_CFG Bit.SYS_MEM_CFG_VALID_PAGES)
      let w := t.rd (Reg.PMAP_ENTRY_LO p)
      w % 2 = (if stored then v.toNat % 2 else 0) ∧ w / 2 % 2 ^ 8 = v.toNat / 2 % 2 ^ 8 ∧
      w / 2 ^ 9 % 2 ^ 11 = s.rd (Reg.PMAP_ENTRY_LO p) / 2 ^ 9 % 2 ^ 11 ∧
      w / 2 ^ 20 % 2 ^ 12 = (if 65536 ≤ p.val then v.toNat / 2 ^ 20 % 2 ^ 12 else s.rd (Reg.PMAP_ENTRY_LO p) / 2 ^ 20 % 2 ^ 12) ∧
      SameRegs s t [Reg.PMAP_ENTRY_LO p] ∧ SameViews s t ∧ SameMemory s t) ∧
    (Completes (.pmapEntryWrite p true v) s fun t =>
      t.rd (Reg.PMAP_ENTRY_HI p) = (if 65536 ≤ p.val then v.toNat else s.rd (Reg.PMAP_ENTRY_HI p)) ∧
      SameRegs s t [Reg.PMAP_ENTRY_HI p] ∧ SameViews s t ∧ SameMemory s t)) ∧
  (∀ (p : PageId) (s : State), (∀ a ∈ s.inFlight, a.1 / 2 ^ 20 ≠ p.val) →
    let pages := s.fget Reg.SYS_MEM_CFG Bit.SYS_MEM_CFG_VALID_PAGES
    Completes (.pmapEntryRead p false) s fun t => ∃ w : Nat, w < 2 ^ 32 ∧
      t.hostTx = s.hostTx ++ [.completion 0 (toBytes 4 w) false] ∧
      (w / 2 ^ 10 % 2 = 1 ↔ p.val < 65536 ∧ pages - 1024 ≤ p.val ∧ p.val < pages) ∧
      (p.val < 65536 → pages - 1024 ≤ p.val → w % 2 = 0) ∧
      ((65536 ≤ p.val ∨ p.val + 1024 < pages) → w % 2 = s.rd (Reg.PMAP_ENTRY_LO p) % 2) ∧
      w / 2 % 2 ^ 9 = s.rd (Reg.PMAP_ENTRY_LO p) / 2 % 2 ^ 9 ∧
      w / 2 ^ 20 = s.rd (Reg.PMAP_ENTRY_LO p) / 2 ^ 20 ∧ Quiet s t) ∧
  (∀ (p : PageId) (s : State), (∀ a ∈ s.inFlight, a.1 / 2 ^ 20 ≠ p.val) → exec (.pmapEntryRead p true) s =
    .next { s with hostTx := s.hostTx ++ [.completion 0 (toBytes 4 (s.rd (Reg.PMAP_ENTRY_HI p))) false] })

/-- R101 ("A poisoned word reads as uncorrectable until a full 64-byte write replaces it."), R100, R103 step 2. -/
def Obligations.MemoryHoldsWhatWasWritten : Prop :=
  (∀ (s : State) (phys : Nat) (bytes : List Byte), bytes ≠ [] → phys % 64 + bytes.length ≤ 64 →
    (bytes.length = 64 ∨ s.poisoned phys = false ∧ s.finding phys = .clean) →
    (∀ r ∈ s.retiring, r.fromFrame ≠ r.toFrame) →
    (s.store phys bytes).loadBytes phys bytes.length = bytes ∧
    (∀ a, a < phys ∨ phys + bytes.length ≤ a →
      (∀ r ∈ s.retiring, phys / 2 ^ 20 = r.fromFrame → a / 2 ^ 20 ≠ r.toFrame) → (s.store phys bytes).loadByte a = s.loadByte a) ∧
    (∀ r ∈ s.retiring, phys / 2 ^ 20 = r.fromFrame →
      (s.store phys bytes).loadBytes (r.toFrame * 2 ^ 20 + phys % 2 ^ 20) bytes.length = bytes) ∧
    SameRegs s (s.store phys bytes) [] ∧ SameViews s (s.store phys bytes)) ∧
  (∀ (s : State) (phys : Nat) (bytes : List Byte), bytes ≠ [] → phys % 64 + bytes.length ≤ 64 → bytes.length ≠ 64 →
    s.poisoned phys = true → (∀ a, (s.store phys bytes).loadByte a = s.loadByte a) ∧ (s.store phys bytes).poisoned phys = true) ∧
  (∀ (s : State) (phys : Nat) (bytes : List Byte), bytes.length = 64 → phys % 64 = 0 → s.poison.Nodup →
    (s.store phys bytes).poisoned phys = false) ∧
  (∀ (s : State) (phys : Nat), s.fbit Reg.SYS_MEM_CFG Bit.SYS_MEM_CFG_ECC_EN = false → s.poisoned phys = false) ∧
  (∀ (s : State) (phys n : Nat),
    (s.poisoned phys = false → s.finding phys = .clean →
      s.localRead phys n false = (s.clearFinding phys, some (s.loadBytes phys n))) ∧
    (s.poisoned phys = false → s.eccOn = true →
      (s.localRead phys n true).2 = none ∧ (s.localRead phys n true).1.poisoned phys = true) ∧
    (s.poisoned phys = true → phys < 2 ^ 37 →
      let t := (s.localRead phys n false).1
      let mc := Nat.xor (phys / 2 ^ 8 % 32) (phys / 2 ^ 13 % 32) / 2
      (s.localRead phys n false).2 = none ∧ t.fbit (Reg.MC_ECC_STATUS mc) Bit.MC_ECC_STATUS_UE = true ∧
      t.rd (Reg.MC_ECC_UE_ADDR_LO mc) + t.rd (Reg.MC_ECC_UE_ADDR_HI mc) * 2 ^ 32 = phys / 64 * 64 ∧
      ∀ a, t.loadByte a = s.loadByte a))

/-- R145, R101, R102, R103 steps 1 to 5. -/
def Obligations.MemoryControllersAndRetirement : Prop :=
  (∀ (n : McId) (scanHit hit : Option Nat) (e : Ecc) (s : State), s.now < (tabGet s.mcBusy n).getD 0 →
    exec (.mcServeRequest n scanHit hit e) s = .next s) ∧
  (∀ (n : McId) (a : McReq) (e : Ecc) (s : State), (tabGet s.mcBusy n).getD 0 ≤ s.now → s.memOn = true →
    (((∀ x ∈ s.scanReads n, x.2.2 = false) ∧ s.mcFirst n false = some a) ∨
      (s.scanReads n = [] ∧ s.mcFirst n false = none ∧ s.throttled = false ∧ s.mcFirst n true = some a)) →
    Completes (.mcServeRequest n none none e) s fun t =>
      t.mcQueue = s.mcQueue.erase a ∧ t.tags = s.tags ∧ (e ≠ .clean → s.eccOn = true → tabGet t.found a.word = some e) ∧
      (s.eccOn = false → t.found = s.found) ∧ Quiet s t) ∧
  (∀ (n : McId) (k phys : Nat) (x : Tag) (urgent : Bool) (s : State), (tabGet s.mcBusy n).getD 0 ≤ s.now → s.memOn = true →
    s.scanReads n = [(k, x, urgent)] → x.dest = .localMem phys → (urgent = true ∨ s.mcFirst n false = none) →
    s.poisoned phys = false → 0 ≤ x.deadline - (s.replica (10 + n) : Int) →
    signed 32 (s.rd (Reg.MC_SCHED_SLACK n)) ≤ x.deadline - (s.replica (10 + n) : Int) →
    Completes (.mcServeRequest n none none .clean) s fun t =>
      tabGet t.tags k = some { x with answer := 1, data := s.loadBytes (phys / 64 * 64) 64 } ∧
      t.mcQueue = s.mcQueue ∧ Quiet s t) ∧
  (∀ (n : McId) (k phys : Nat) (x : Tag) (urgent : Bool) (s : State), (tabGet s.mcBusy n).getD 0 ≤ s.now → s.memOn = true →
    s.scanReads n = [(k, x, urgent)] → x.dest = .localMem phys → (urgent = true ∨ s.mcFirst n false = none) →
    s.poisoned phys = false → x.deadline - (s.replica (10 + n) : Int) < 0 →
    -(2 ^ 31 : Int) ≤ x.deadline - (s.replica (10 + n) : Int) →
    Completes (.mcServeRequest n none none .clean) s fun t =>
      t.fbit (Reg.MC_SCHED_STATUS n) Bit.MC_SCHED_STATUS_LATE = true ∧
      signed 32 (t.rd (Reg.MC_SCHED_SLACK n)) =
        min (signed 32 (s.rd (Reg.MC_SCHED_SLACK n))) (x.deadline - (s.replica (10 + n) : Int)) ∧
      Only s t [Reg.MC_SCHED_STATUS n, Reg.MC_SCHED_SLACK n]) ∧
  (∀ (k : Fin 131072) (x : Tag) (phys : Nat) (s : State), tabGet s.tags k = some x → x.dest = .localMem phys → x.issued = true →
    x.deadline - (s.replica (10 + mcOf phys) : Int) ≤ 4000 →
    exec (.schedUrgent k) s = .next { s with tags := tabPut k.val { x with urgent := true } s.tags }) ∧
  (∀ (n : McId) (ns : Nat) (s : State), exec (.mcRefresh n ns) s = .next { s with mcBusy := tabPut n.val (s.now + ns) s.mcBusy } ∧
    (Completes (.mcEmergencyRetrain n ns) s fun t => s.now + ns ≤ (tabGet t.mcBusy n).getD 0 ∧ t.poison = s.poison ∧ Quiet s t)) ∧
  (∀ (v : Word) (s : State), s.Reaches Reg.SYS_RETIRE_REQ →
    s.fget Reg.SYS_MEM_CFG Bit.SYS_MEM_CFG_VALID_PAGES ≤ v.toNat % 65536 + 1024 →
    exec (.retireReqWrite v) s = .next (s.fset Reg.SYS_RETIRE_STATUS Bit.SYS_RETIRE_STATUS_REQ_REFUSED 1)) ∧
  (∀ (v : Word) (s : State), s.Reaches Reg.SYS_RETIRE_REQ →
    v.toNat % 65536 + 1024 < s.fget Reg.SYS_MEM_CFG Bit.SYS_MEM_CFG_VALID_PAGES → s.retiring = none →
    v.toNat % 65536 ∉ s.retireQueue → s.retireQueue.length < 16 →
    s.fget Reg.SYS_RETIRE_STATUS Bit.SYS_RETIRE_STATUS_USED < 1024 →
    Completes (.retireReqWrite v) s fun t => t.retireQueue = s.retireQueue ++ [v.toNat % 65536] ∧
      t.fget Reg.SYS_RETIRE_STATUS Bit.SYS_RETIRE_STATUS_PENDING = t.retireQueue.length ∧
      SameRegs s t [Reg.SYS_RETIRE_STATUS] ∧ SameViews s t ∧ SameMemory s t) ∧
  (∀ (p : Nat) (rest : List Nat) (s : State), s.retiring = none → s.retireQueue = p :: rest → rest.length < 16 →
    s.fget Reg.SYS_RETIRE_STATUS Bit.SYS_RETIRE_STATUS_USED < 1024 →
    Completes .retireStart s fun t => t.retireQueue = rest ∧
      (∃ r, t.retiring = some r ∧ r.page = p ∧ r.fromFrame = s.pageTarget p / 2 ^ 20 ∧ r.copied = false ∧
        r.toFrame = s.validPages - 1024 + s.fget Reg.SYS_RETIRE_STATUS Bit.SYS_RETIRE_STATUS_USED) ∧
      t.fbit Reg.SYS_RETIRE_STATUS Bit.SYS_RETIRE_STATUS_BUSY = true ∧
      SameRegs s t [Reg.SYS_RETIRE_STATUS] ∧ SameViews s t ∧ SameMemory s t) ∧
  (∀ (p a b : Nat) (s : State), s.retiring = some ⟨p, a, b, false⟩ → a ≠ b → b < 65536 →
    Completes .retireCopyDone s fun t => t.pageTarget p = b * 2 ^ 20 ∧
      t.fbit (Reg.PMAP_ENTRY_LO p) Bit.PMAP_ENTRY_LO_REMAPPED = true ∧ t.retiring = some ⟨p, a, b, true⟩ ∧
      (∀ k < 2 ^ 20, t.loadByte (b * 2 ^ 20 + k) = s.loadByte (a * 2 ^ 20 + k)) ∧
      (∀ x, x / 2 ^ 20 ≠ b → t.loadByte x = s.loadByte x) ∧
      ((∀ x ∈ s.poison, x / 2 ^ 20 ≠ a) → SameRegs s t [Reg.PMAP_ENTRY_LO p, Reg.PMAP_ENTRY_HI p]) ∧ SameViews s t) ∧
  (∀ (p a b : Nat) (s : State), s.retiring = some ⟨p, a, b, true⟩ → (∀ x ∈ s.inFlight, x.1 / 2 ^ 20 ≠ p) →
    s.fget Reg.SYS_RETIRE_STATUS Bit.SYS_RETIRE_STATUS_USED < 1024 → s.islandOn (10 + mcOf (a * 2 ^ 20)) = true →
    Completes .retireComplete s fun t => t.retiring = none ∧ a ∈ t.retired ∧
      t.fget Reg.SYS_RETIRE_STATUS Bit.SYS_RETIRE_STATUS_USED = s.fget Reg.SYS_RETIRE_STATUS Bit.SYS_RETIRE_STATUS_USED + 1 ∧
      t.fbit Reg.SYS_RETIRE_STATUS Bit.SYS_RETIRE_STATUS_BUSY = false ∧
      (∃ o, t.occs = s.occs ++ [o] ∧ o.source = 5535 ∧ o.cause = 1 ∧ o.detail = p) ∧
      SameRegs s t [Reg.SYS_RETIRE_STATUS, Reg.SYS_SPARE_STATUS] ∧ SameViews s t ∧ SameMemory s t)

/-- R117, R118, R120, R122, R126 to R128, R132, R134. -/
def Obligations.PlateStore : Prop :=
  (∀ (p : PlateId) (w : Fin 131072) (u : PlateUse) (s : State), ¬ Owns s p u.owner → s.blinkReaches p w u = false →
    Completes (.plateAccess p w [u] .clean) s fun t =>
      (u.bytes = none → t.plateAnswers = [(u.owner, u.lane, none)] ∧
        t.fbit (Reg.PST_PLATE_ERR p) Bit.PST_PLATE_ERR_NONOWNER_RD = true ∧
        t.fget (Reg.PST_PLATE_ERR p) Bit.PST_PLATE_ERR_RD_COUNT =
          min (s.fget (Reg.PST_PLATE_ERR p) Bit.PST_PLATE_ERR_RD_COUNT + 1) 255) ∧
      (u.bytes ≠ none → t.plateAnswers = [] ∧ t.fbit (Reg.PST_PLATE_ERR p) Bit.PST_PLATE_ERR_NONOWNER_WR = true ∧
        t.fget (Reg.PST_PLATE_ERR p) Bit.PST_PLATE_ERR_WR_COUNT =
          min (s.fget (Reg.PST_PLATE_ERR p) Bit.PST_PLATE_ERR_WR_COUNT + 1) 255) ∧
      (s.islandOn (6 + p.val / 8) = true → ∃ o, t.occs = s.occs ++ [o] ∧ o.source = 5440 + p.val ∧ o.cause = 1) ∧
      SameRegs s t [Reg.PST_PLATE_ERR p] ∧ SameViews s t ∧ SameMemory s t) ∧
  (∀ (p : PlateId) (w : Fin 131072) (u : PlateUse) (s : State), Owns s p u.owner → u.bytes = none →
    p.val * 2 ^ 23 + 64 * w.val ∉ s.platePoison →
    Completes (.plateAccess p w [u] .clean) s fun t =>
      t.plateAnswers = [(u.owner, u.lane, some ((List.range 64).map fun k => s.plateByte (p.val * 2 ^ 23 + 64 * w.val + k)))] ∧
      t.occs = s.occs ∧ Quiet s t) ∧
  (∀ (p : PlateId) (w : Fin 131072) (u : PlateUse) (s : State), Owns s p u.owner → u.bytes = none →
    Completes (.plateAccess p w [u] .uncorrectable) s fun t =>
      t.plateAnswers = [(u.owner, u.lane, none)] ∧ t.fbit (Reg.PST_PLATE_ERR p) Bit.PST_PLATE_ERR_UE = true ∧
      p.val * 2 ^ 23 + 64 * w.val ∈ t.platePoison ∧ t.plateMem = s.plateMem ∧ t.mem = s.mem ∧ t.occs = s.occs ∧
      SameRegs s t [Reg.PST_PLATE_ERR p] ∧ SameViews s t) ∧
  (∀ (p : PlateId) (w : Fin 131072) (uses : List PlateUse) (s : State),
    (∀ u ∈ uses, Owns s p u.owner ∧ u.bytes ≠ none) → (uses.map (·.lane)).Nodup →
    (∀ u ∈ uses, ∀ l, u.bytes = some l → (l.map (·.1)).Nodup) →
    Completes (.plateAccess p w uses .clean) s fun t =>
      (∀ (k : Fin 64) (v : Byte) (u : PlateUse) (l : List (Fin 64 × Byte)), u ∈ uses → u.bytes = some l → (k, v) ∈ l →
        (∀ u' ∈ uses, ∀ l', u'.bytes = some l' → k ∈ l'.map (·.1) → u.lane ≤ u'.lane) →
        t.plateByte (p.val * 2 ^ 23 + 64 * w.val + k.val) = v) ∧
      (∀ k : Fin 64, (∀ u ∈ uses, ∀ l, u.bytes = some l → k ∉ l.map (·.1)) →
        t.plateByte (p.val * 2 ^ 23 + 64 * w.val + k.val) = s.plateByte (p.val * 2 ^ 23 + 64 * w.val + k.val)) ∧
      (∀ a, a / 64 ≠ p.val * 2 ^ 17 + w.val → t.plateByte a = s.plateByte a) ∧
      SameRegs s t [Reg.PST_COLLIDE p] ∧ SameViews s t ∧ t.mem = s.mem ∧ t.poison = s.poison) ∧
  (∀ (p : PlateId) (k : Fin 4) (s : State), s.Reaches (Reg.PST_CE_ROW p k) →
    exec (.pstCeRowClear p k) s = .next (s.wr (Reg.PST_CE_ROW p k) 0)) ∧
  (∀ (p : PlateId) (v : Word) (s : State), s.Reaches (Reg.PST_OWN_REQ p) →
    let owner := v.toNat % 16
    let own := Reg.PST_OWN p
    let named : Prop := owner < 10 ∧ owner ≠ 7 ∧ owner ≠ 9
    (¬ named → exec (.pstOwnReq p v) s = .next (handoverRefused s p 1)) ∧
    (named → s.fbit own Bit.PST_OWN_FIXED = true → exec (.pstOwnReq p v) s = .next (handoverRefused s p 2)) ∧
    (named → s.fbit own Bit.PST_OWN_FIXED = false → s.fbit own Bit.PST_OWN_TRANSIT = true →
      exec (.pstOwnReq p v) s = .next (handoverRefused s p 4)) ∧
    (named → s.fbit own Bit.PST_OWN_FIXED = false → s.fbit own Bit.PST_OWN_TRANSIT = false →
      s.fbit own Bit.PST_OWN_SUBST = true → exec (.pstOwnReq p v) s = .next (handoverRefused s p 8)) ∧
    (named → s.fbit own Bit.PST_OWN_FIXED = false → s.fbit own Bit.PST_OWN_TRANSIT = false →
      s.fbit own Bit.PST_OWN_SUBST = false → s.plateLive p = true → exec (.pstOwnReq p v) s = .next (handoverRefused s p 3)) ∧
    (named → s.fbit own Bit.PST_OWN_FIXED = false → s.fbit own Bit.PST_OWN_TRANSIT = false →
      s.fbit own Bit.PST_OWN_SUBST = false → s.plateLive p = false → Completes (.pstOwnReq p v) s fun t =>
        t.fbit own Bit.PST_OWN_TRANSIT = true ∧
        t.handovers = s.handovers ++ [(p.val, owner, v.toNat / 2 ^ 4 % 2 ^ 5, v.getLsbD 9)] ∧
        t.fget own Bit.PST_OWN_OWNER = s.fget own Bit.PST_OWN_OWNER ∧
        SameRegs s t [own] ∧ SameViews s t ∧ SameMemory s t)) ∧
  (∀ (p : PlateId) (owner f : Nat) (scrub : Bool) (s : State), s.handovers = [(p.val, owner, f, scrub)] → owner < 16 → f < 32 →
    (∀ e ∈ s.blinks, e.2.plate ≠ p.val) →
    Completes (.handoverComplete p) s fun t => t.handovers = [] ∧ t.fget (Reg.PST_OWN p) Bit.PST_OWN_OWNER = owner ∧
      t.fget (Reg.PST_OWN p) Bit.PST_OWN_FN = f ∧ t.fbit (Reg.PST_OWN p) Bit.PST_OWN_TRANSIT = false ∧
      t.fbit (Reg.PST_OWN_STATUS p) Bit.PST_OWN_STATUS_DONE = true ∧
      (scrub = true → ∀ k < 2 ^ 23, t.plateByte (p.val * 2 ^ 23 + k) = 0) ∧ (scrub = false → t.plateMem = s.plateMem) ∧
      (s.islandOn (6 + p.val / 8) = true → ∃ o, t.occs = s.occs ++ [o] ∧ o.source = 5440 + p.val ∧ o.cause = 3) ∧
      SameRegs s t [Reg.PST_OWN p, Reg.PST_OWN_STATUS p] ∧ SameViews s t ∧ t.mem = s.mem ∧ t.poison = s.poison) ∧
  (∀ (q : QuadrantId) (v : Word) (s : State), s.Reaches (Reg.PST_BLINK_CTL q) → tabGet s.blinks q = none → s.subst = none →
    v.getLsbD 11 = false → v.toNat / 4 % 4 ≠ 3 → v.toNat / 2 ^ 12 % 2 ^ 7 ≤ v.toNat / 2 ^ 19 % 2 ^ 7 →
    s.quadrantOf (v.toNat / 2 ^ 6 % 32) = q.val → s.plateTransit (v.toNat / 2 ^ 6 % 32) = false →
    s.inSubst (v.toNat / 2 ^ 6 % 32) = false → (v.getLsbD 4 = true ∨ s.plateOwner (v.toNat / 2 ^ 6 % 32) = 8) →
    Completes (.blinkGo q v) s fun t =>
      (∃ b, tabGet t.blinks q = some b ∧ b.plate = v.toNat / 2 ^ 6 % 32 ∧ b.alg = v.toNat / 4 % 4 ∧ b.preserve = v.getLsbD 4 ∧
        b.repair = v.getLsbD 5 ∧
        b.stripe = v.toNat / 2 ^ 12 % 2 ^ 7 ∧ b.last = v.toNat / 2 ^ 19 % 2 ^ 7 ∧ b.phase = (if v.getLsbD 4 then 0 else 1)) ∧
      t.fget (Reg.PST_BLINK_STATUS q) Bit.PST_BLINK_STATUS_STATE = 1 ∧
      t.fget (Reg.PST_BLINK_STATUS q) Bit.PST_BLINK_STATUS_FAULTS = 0 ∧
      SameRegs s t [Reg.PST_BLINK_CTL q, Reg.PST_BLINK_STATUS q] ∧ SameViews s t ∧ SameMemory s t) ∧
  (∀ (q : QuadrantId) (b : BlinkRun) (s : State), s.Reaches (Reg.PST_BLINK_CTL q) → s.blinks = [(q.val, b)] → b.ending = 0 →
    s.rd (Reg.PST_BLINK_CTL q) % 4 = 0 → s.rd (Reg.PST_BLINK_CTL q) < 2 ^ 26 →
    Completes (.blinkStop q) s fun t => t.blinks = [(q.val, { b with ending := 1 })] ∧ Quiet s t) ∧
  (∀ (q : QuadrantId) (b : BlinkRun) (s : State), tabGet s.blinks q = some b → b.preserve = true → b.paused = false →
    (b.phase = 0 → exec (.blinkCopyInDone q) s =
      .next { s with blinks := tabPut q.val { b with phase := 1, paused := false } s.blinks }) ∧
    (b.phase = 1 → Completes (.blinkMarchDone q 0 [] none) s fun t =>
      tabGet t.blinks q = some { b with phase := 2 } ∧ Quiet s t) ∧
    (b.phase = 2 → b.ending = 1 → s.subst = none → Completes (.blinkCopyBackDone q) s fun t =>
      t.fget (Reg.PST_BLINK_STATUS q) Bit.PST_BLINK_STATUS_STATE = 5 ∧ t.blinks = tabDel q.val s.blinks ∧
      Only s t [Reg.PST_BLINK_STATUS q]) ∧
    (b.phase = 2 → b.ending = 0 → b.stripe < b.last → b.last < 128 → Completes (.blinkCopyBackDone q) s fun t =>
      tabGet t.blinks q = some { b with stripe := b.stripe + 1, phase := 0, paused := s.throttled } ∧
      t.fget (Reg.PST_BLINK_STATUS q) Bit.PST_BLINK_STATUS_STRIPE = b.stripe + 1 ∧ Only s t [Reg.PST_BLINK_STATUS q]) ∧
    (b.phase = 2 → b.ending = 0 → b.stripe = b.last → s.subst = none →
      s.fget (Reg.PST_BLINK_STATUS q) Bit.PST_BLINK_STATUS_FAULTS = 0 → Completes (.blinkCopyBackDone q) s fun t =>
        t.blinks = tabDel q.val s.blinks ∧ t.fget (Reg.PST_BLINK_STATUS q) Bit.PST_BLINK_STATUS_STATE = 2 ∧
        (s.islandOn (6 + q.val) = true → ∃ o, t.occs = s.occs ++ [o] ∧ o.source = 5533 ∧ o.detail = q.val) ∧
        SameRegs s t [Reg.PST_BLINK_STATUS q] ∧ SameViews s t ∧ SameMemory s t)) ∧
  (∀ (q : QuadrantId) (n : Nat) (rows : List (Fin 16 × Fin 256)) (column : Option (Fin 16 × Fin 32)) (b : BlinkRun) (s : State),
    tabGet s.blinks q = some b → b.preserve = true → b.phase = 1 → b.repair = false → 0 < n →
    Completes (.blinkMarchDone q n rows column) s fun t =>
      tabGet t.blinks q = some { b with phase := 2, unrepaired := true } ∧
      t.fget (Reg.PST_BLINK_STATUS q) Bit.PST_BLINK_STATUS_FAULTS =
        min 255 (s.fget (Reg.PST_BLINK_STATUS q) Bit.PST_BLINK_STATUS_FAULTS + n) ∧ Only s t [Reg.PST_BLINK_STATUS q]) ∧
  (∀ (q : QuadrantId) (b : BlinkRun) (s : State), tabGet s.blinks q = some b → b.preserve = false → b.phase = 1 → b.ending = 0 →
    b.stripe < b.last → b.last < 128 → Completes (.blinkMarchDone q 0 [] none) s fun t =>
      (∀ k < 2 ^ 16, t.plateByte (b.plate * 2 ^ 23 + b.stripe * 2 ^ 16 + k) = finalByte b.alg (b.stripe * 1024 + k / 64)) ∧
      (∀ a, a / 2 ^ 16 ≠ b.plate * 128 + b.stripe → t.plateByte a = s.plateByte a) ∧
      tabGet t.blinks q = some { b with stripe := b.stripe + 1, phase := 1, paused := false } ∧
      SameRegs s t [Reg.PST_BLINK_STATUS q] ∧ SameViews s t ∧ t.mem = s.mem ∧ t.poison = s.poison) ∧
  (∀ (p : PlateId) (s : State), s.Reaches Reg.PST_SUBST_REQ →
    let refused (code : Nat) : State := (s.fset Reg.PST_SUBST_STATUS Bit.PST_SUBST_STATUS_REFUSE_CODE code).fset
      Reg.PST_SUBST_STATUS Bit.PST_SUBST_STATUS_REFUSED 1
    (s.subst.isSome = true → exec (.pstSubstReq p) s = .next (refused 8)) ∧
    (s.subst = none → s.fbit (Reg.PST_OWN p) Bit.PST_OWN_FAILED = true → exec (.pstSubstReq p) s = .next (refused 9)) ∧
    (s.subst = none → s.freeSite = none → exec (.pstSubstReq p) s = .next (refused 9)) ∧
    (∀ k, s.subst = none → s.freeSite = some k → s.fbit (Reg.PST_OWN p) Bit.PST_OWN_FAILED = false →
      Completes (.pstSubstReq p) s fun t => t.subst = some (p.val, k) ∧ t.fbit (Reg.PST_OWN p) Bit.PST_OWN_SUBST = true ∧
        t.fget (Reg.PST_SITE k) Bit.PST_SITE_STATE = 2 ∧
        t.fget (Reg.PST_SITE k) Bit.PST_SITE_PLATE = p.val ∧ t.fbit Reg.PST_SUBST_STATUS Bit.PST_SUBST_STATUS_BUSY = true ∧
        t.fget Reg.PST_SUBST_STATUS Bit.PST_SUBST_STATUS_PLATE = p.val ∧
        Only s t [Reg.PST_OWN p, Reg.PST_SITE k, Reg.PST_SUBST_STATUS, Reg.PST_BLINK_STATUS (if k = 32 then 0 else 2),
          Reg.SYS_SPARE_STATUS])) ∧
  (∀ (p : PlateId) (k : Nat) (s : State), s.subst = some (p.val, k) → (k = 32 ∨ k = 33) → s.blinks = [] → s.substWait = [] →
    s.fget (Reg.PST_OWN p) Bit.PST_OWN_SITE < 34 → s.fget (Reg.PST_OWN p) Bit.PST_OWN_SITE ≠ k →
    Completes .substCopyDone s fun t => t.subst = none ∧ t.fget (Reg.PST_OWN p) Bit.PST_OWN_SITE = k ∧
      t.fbit (Reg.PST_OWN p) Bit.PST_OWN_SUBST = false ∧
      t.fget (Reg.PST_SITE (s.fget (Reg.PST_OWN p) Bit.PST_OWN_SITE)) Bit.PST_SITE_STATE = 3 ∧
      t.fget (Reg.PST_SITE k) Bit.PST_SITE_STATE = 0 ∧
      t.fbit Reg.PST_SUBST_STATUS Bit.PST_SUBST_STATUS_DONE = true ∧
      (s.islandOn (if k = 32 then 6 else 8) = true → ∃ o, t.occs = s.occs ++ [o] ∧ o.source = 5534 ∧ o.detail = p.val) ∧
      Only s t [Reg.PST_OWN p, Reg.PST_SITE (s.fget (Reg.PST_OWN p) Bit.PST_OWN_SITE), Reg.PST_SITE k, Reg.PST_SUBST_STATUS,
        Reg.PST_BLINK_STATUS (if k = 32 then 0 else 2), Reg.SYS_SPARE_STATUS])

/-- R138, R141 to R143, R148, R149, R157, R160, R162, R199. -/
def Obligations.FetchAndComposition : Prop :=
  (∀ (p : PipeId) (s : State), (∀ x ∈ s.switches, x.island ≠ s.pipeIsland p) → s.ticksDue (2 + p.val) (s.pipeIsland p) = 0 →
    ((∀ w ∈ s.wants p, ∀ a d, ¬ Grantable s p w a d) → exec (.fetchGrant p) s = .next s) ∧
    ((∃ w ∈ s.wants p, ∃ a d, Grantable s p w a d) → Completes (.fetchGrant p) s fun t =>
      ∃ w ∈ s.wants p, ∃ a d, Grantable s p w a d ∧
        (∀ w' ∈ s.wants p, ∀ a' d', Grantable s p w' a' d' → w.before w' = true) ∧
        (∀ pg, d = .refused pg → t.tags = s.tags ∧ SameRegs s t [Reg.SYS_PMAP_STATUS] ∧
          t.fbit Reg.SYS_PMAP_STATUS Bit.SYS_PMAP_STATUS_REFUSED = true ∧
          ∃ x ∈ t.landed, x.pipe = p ∧ x.head = w.head ∧ x.slot = w.slot ∧ x.kind = w.kind ∧ x.word = w.word ∧ x.status = 4) ∧
        ((∀ pg, d ≠ .refused pg) → SameRegs s t tagRegs ∧
          (∃ x ∈ t.landed, x.pipe = p ∧ x.head = w.head ∧ x.slot = w.slot ∧ x.kind = w.kind ∧ x.word = w.word ∧ x.status = 0) ∧
          (∃ x : Tag, t.tags = tabPut s.freeTag x s.tags ∧ x.pipe = p ∧ x.head = w.head ∧ x.slot = w.slot ∧ x.kind = w.kind ∧
            x.word = w.word ∧ x.frame = (s.head w.head).frame ∧ x.addr = a ∧ x.at_ = s.now ∧ x.deadline = w.deadline ∧
            x.state = 0 ∧ x.issued = false) ∧
          (∀ ap, s.aperture w.slot p = some ap → t.apertures =
            tabPut (64 * w.slot + p) { ap with credit := ap.credit - 64 * 65536 } s.apertures)) ∧
        SameViews s t ∧ SameMemory s t)) ∧
  (∀ (n : Fin 131072) (x : Tag) (s : State), tabGet s.tags n = some x → x.issued = false → x.state = 0 →
    s.inTransit (.fetchRead n) = false →
    Completes (.tagIssue n) s fun t =>
      t.tags = tabPut n { x with issued := true, state := 1, arrived := s.now } s.tags ∧ Quiet s t) ∧
  (∀ (n : Fin 131072) (x : Tag) (lost : Bool) (s : State), tabGet s.tags n = some x → x.issued = true → x.answer ≠ 0 →
    (x.state = 1 → x.answer ≠ 3 → lost = false → x.kind ≠ 2 → Completes (.fetchDataReturn n lost) s fun t =>
      t.tags = tabPut n { x with state := 3 } s.tags ∧ t.landed = s.landed ∧ Quiet s t) ∧
    (x.state = 1 → x.answer = 3 ∨ lost = true → Completes (.fetchDataReturn n lost) s fun t =>
      t.tags = tabDel n s.tags ∧ t.landed.length = s.landed.length ∧
      (∀ y ∈ t.landed, x.covers y = true → y.status = 3) ∧ (lost = false → t.occs = s.occs ∧ SameRegs s t tagRegs) ∧
      (lost = true → t.fbit Reg.SYS_CROSS_STATUS Bit.SYS_CROSS_STATUS_CROSS_LOSS = true ∧
        SameRegs s t (Reg.SYS_CROSS_STATUS :: tagRegs)) ∧ SameViews s t ∧ SameMemory s t) ∧
    (x.state = 2 → lost = false → Completes (.fetchDataReturn n lost) s fun t =>
      t.tags = tabDel n s.tags ∧ (∀ y ∈ t.landed, x.covers y = true → y.status = 5) ∧
      SameRegs s t tagRegs ∧ SameViews s t ∧ SameMemory s t)) ∧
  (∀ (n : Fin 131072) (x : Tag) (s : State), tabGet s.tags n = some x → x.state = 3 → x.answer ≠ 1 →
    Completes (.landingWriteDone n) s fun t => t.tags = tabDel n s.tags ∧ t.landed.length = s.landed.length ∧
      (∀ y ∈ t.landed, x.covers y = true → y.status = 2) ∧ Only s t tagRegs) ∧
  (∀ (n : Fin 131072) (x : Tag) (y : Landed) (s : State), tabGet s.tags n = some x → x.state = 3 → x.answer = 1 → x.pipe < 36 →
    s.landed.find? x.covers = some y → y.at_ % 64 = 0 → s.reaches (y.at_ / 2 ^ 23) (x.pipe / 9 + 1) = true → x.data.length = 64 →
    Completes (.landingWriteDone n) s fun t => t.tags = tabDel n s.tags ∧ t.landed.length = s.landed.length ∧
      (∀ y ∈ t.landed, x.covers y = true → y.status = 1) ∧ t.plateLoad y.at_ = x.data ∧
      (∀ a, a < y.at_ ∨ y.at_ + 64 ≤ a → t.plateByte a = s.plateByte a) ∧
      SameRegs s t tagRegs ∧ SameViews s t ∧ t.mem = s.mem ∧ t.poison = s.poison) ∧
  (∀ s : State, s.nextHostTag = none ∨ s.linkUp = false → exec .hostReadSend s = .next s) ∧
  (∀ (n fn addr : Nat) (x : Tag) (s : State), s.tags = [(n, x)] → x.dest = .hostWin fn addr → x.issued = true →
    x.request = none → x.answer = 0 → addr % 64 = 0 → s.linkUp = true → s.ideBlocked fn (some addr) = false →
    Completes .hostReadSend s fun t =>
      t.hostReads = s.hostReads ++
        [⟨s.nextRead, fn, addr, s.now + 1000 * s.fget Reg.FET_CTL Bit.FET_CTL_HOST_TIMEOUT, [n]⟩] ∧
      t.tags = [(n, { x with request := some s.nextRead })] ∧ t.hostTx = s.hostTx ++ [.readRequest fn addr 64] ∧ Quiet s t) ∧
  (∀ (id : Nat) (r : ReadResult) (s : State), s.hostReads.find? (·.id = id) = none →
    exec (.hostReadCompletion id r) s = .next (s.aerLog 0 3)) ∧
  (∀ (id : Nat) (x : HostRead) (r : ReadResult) (s : State), s.hostReads.find? (·.id = id) = some x →
    Completes (.hostReadCompletion id r) s fun t => t.hostReads = s.hostReads.filter (fun y => decide (y.id ≠ id)) ∧
      (∀ e ∈ t.tags, e.1 ∈ x.tags →
        (∀ b, s.hostAnswer x.fn x.addr r = .data b → e.2.answer = 1) ∧
        ((∀ b, s.hostAnswer x.fn x.addr r ≠ .data b) → e.2.answer = 3)) ∧
      ((∀ b, s.hostAnswer x.fn x.addr r ≠ .data b) → t.fbit Reg.FET_HOST_STATUS Bit.FET_HOST_STATUS_ERROR = true ∧
        (t.fn x.fn).aer.length = (s.fn x.fn).aer.length + 1) ∧
      SameRegs s t [Reg.FET_HOST_STATUS] ∧ SameViews s t ∧ SameMemory s t) ∧
  (∀ (id : Nat) (x : HostRead) (s : State), s.hostReads.find? (·.id = id) = some x →
    (s.now < x.deadline → exec (.hostReadTimeout (.fetch id)) s = .next s) ∧
    (x.deadline ≤ s.now → Completes (.hostReadTimeout (.fetch id)) s fun t =>
      t.hostReads = s.hostReads.filter (fun y => decide (y.id ≠ id)) ∧ (∀ n ∈ x.tags, tabGet t.tags n = none) ∧
      t.fbit Reg.FET_HOST_STATUS Bit.FET_HOST_STATUS_TIMEOUT = true ∧ (t.fn x.fn).aer = (s.fn x.fn).aer ++ [2] ∧
      SameRegs s t (Reg.FET_HOST_STATUS :: tagRegs) ∧ SameViews s t ∧ SameMemory s t)) ∧
  (∀ (q : SeqId) (s : State), s.now < (s.seq q).deadline → exec (.hostReadTimeout (.seq q)) s = .next s) ∧
  (∀ s : State, Completes .apertureRefill s fun t => Quiet s t ∧ t.apertures.map (·.1) = s.apertures.map (·.1) ∧
    (∀ k a, tabGet s.apertures k = some a → k % 64 < 36 →
      let n := s.ticksDue (2 + k % 64) (s.pipeIsland (k % 64))
      tabGet t.apertures k = some (if n = 0 then a else { a with credit := min (a.credit + n * a.rate) ((a.burst : Int) * 65536) }))) ∧
  (∀ (p : PipeId) (h : HeadId) (sl : SlotId) (kind : Fin 4) (w b : Nat) (e : Ecc) (x : Landed) (s : State), s.fetches p h = true →
    (s.sourceAt (s.pipeView p h) sl (s.head h).frame).isSome = true →
    bandOf (s.pipeView p h) (s.pipePlan p h).occlusion h p sl kind w = some b →
    s.landedWord p h sl kind w = some x → x.used = false →
    (x.status = 1 → s.reaches (x.at_ / 2 ^ 23) (s.pipeUnit p).owner = true → x.at_ % 64 = 0 → x.at_ ∉ s.platePoison → e = .clean →
      Completes (.pipeConsumeWord p h sl kind ⟨w, e⟩) s fun t =>
        t.landedWord p h sl kind w = some { x with used := true } ∧ t.frames = s.frames ∧ t.occs = s.occs ∧ Quiet s t) ∧
    (x.status = 1 → s.reaches (x.at_ / 2 ^ 23) (s.pipeUnit p).owner = true → x.at_ % 64 = 0 → x.at_ ∈ s.platePoison →
      Completes (.pipeConsumeWord p h sl kind ⟨w, e⟩) s fun t =>
        t.landedWord p h sl kind w = some { x with used := true, held := true } ∧
        t.fbit (Reg.PST_PLATE_ERR (x.at_ / 2 ^ 23)) Bit.PST_PLATE_ERR_UE = true ∧
        t.fbit (Reg.FET_PIPE_HOLD p) Bit.FET_PIPE_HOLD_HOLD = true ∧ sl.val ∈ (t.frameRun h).heldLayers ∧
        Only s t [Reg.PST_PLATE_ERR (x.at_ / 2 ^ 23), Reg.FET_PIPE_HOLD p, lyrOff sl Lyr.HOLD_COUNT]) ∧
    (x.status ≠ 1 → Completes (.pipeConsumeWord p h sl kind ⟨w, e⟩) s fun t =>
      t.landedWord p h sl kind w = some { x with used := true, held := true } ∧
      t.fbit (Reg.FET_PIPE_HOLD p) Bit.FET_PIPE_HOLD_HOLD = true ∧
      sl.val ∈ (t.frameRun h).heldLayers ∧ (∀ y ∈ t.tags, y.2.covers x = true → 2 ≤ y.2.state) ∧
      Only s t [Reg.FET_PIPE_HOLD p, lyrOff sl Lyr.HOLD_COUNT])) ∧
  (∀ (p : PipeId) (h : HeadId) (y : Nat) (s : State),
    let m := s.pipeView p h
    let o := (s.pipePlan p h).occlusion
    let row := 2 * y + partOf m h p
    (s.serves p h = false ∨ activeH m h ≤ y ∨ (tabGet (s.frameRun h).rows row).isSome = true →
      exec (.pipeComposeLine p h y) s = .next s) ∧
    (s.serves p h = true → y < activeH m h → tabGet (s.frameRun h).rows row = none →
      (s.frameRun h).rows.length + 1 < activeH m h * partsOf m h →
      ((s.frameRun h).black = true → exec (.pipeComposeLine p h y) s =
        .next (s.setFrameRun h { s.frameRun h with rows := tabPut row [] (s.frameRun h).rows })) ∧
      ((s.frameRun h).black = false → (s.frameRun h).reading = true → Completes (.pipeComposeLine p h y) s fun t =>
        (∀ f, tabGet s.retained h = some f → tabGet (t.frameRun h).rows row = some ((tabGet f.rows row).getD [])) ∧ Quiet s t) ∧
      ((s.frameRun h).black = false → (s.frameRun h).reading = false → Completes (.pipeComposeLine p h y) s fun t =>
        let u := (headLayers m h).foldl (fun s sl =>
          (lineWords m o h p sl y).foldl (fun s kw => s.consumeWord p h sl kw.1 kw.2 .clean) s) s
        let v := (headLayers m h).foldl (fun s sl => s.lineTiles m o p h sl y) u
        tabGet (t.frameRun h).rows row = some (v.composeRow m o p h y) ∧ t.regs = v.regs ∧ t.occs = v.occs ∧ t.tags = v.tags ∧
        t.landed.length = v.landed.length ∧
        (∀ x ∈ t.landed, ∃ x' ∈ v.landed, x = x' ∨ (x.freed = true ∧ x.pipe = p ∧ x.head = h ∧ x.slot = x'.slot ∧ x.kind = x'.kind ∧
          x.word = x'.word ∧ x.held = x'.held)) ∧ SameViews s t ∧ SameMemory s t))) ∧
  (∀ s : State, s.Reaches Reg.FET_AP_CREDIT_LO → Completes .fetApCreditSnapshot s fun t =>
    (∀ a, s.aperture (s.fget Reg.FET_AP_SEL Bit.FET_AP_SEL_SLOT) (s.fget Reg.FET_AP_SEL Bit.FET_AP_SEL_PIPE) = some a →
      t.rd Reg.FET_AP_CREDIT_LO + t.rd Reg.FET_AP_CREDIT_HI * 2 ^ 32 = (a.credit % 2 ^ 48).toNat + 2 ^ 48) ∧
    SameRegs s t [Reg.FET_AP_CREDIT_LO, Reg.FET_AP_CREDIT_HI] ∧ SameViews s t ∧ SameMemory s t)

/-- R83 (operands), R81 (the wait), R29 (the copy at issue), R86 (tickets), R87. -/
def Obligations.CommitInstructions : Prop :=
  (∀ (q : SeqId) (i : Atcia) (s : State), s.Fetches q i → (i.op = .check ∨ i.op = .commit ∨ i.op = .abort) →
    let row : Instr := if i.op = .check then .check q else if i.op = .commit then .commit q else .abort q
    let mask := (s.seq q).reg i.a
    let a := ((s.seq q).reg i.b).toNat
    (mask.toNat = 0 ∨ 2 ^ 32 ≤ mask.toNat → exec row s = .next (s.seqFault q 0x02 true)) ∧
    (∀ g < 32, mask.toNat < 2 ^ 32 → bitOf mask.toNat g = true → s.groupFn g ≠ s.seqFn q →
      exec row s = .next (s.seqFault q 0x0A true)) ∧
    (GoodMask s q mask → i.op ≠ .abort → a ≠ 0 → a % 8 ≠ 0 → exec row s = .next (s.seqFault q 0x03 true)) ∧
    (GoodMask s q mask → i.op ≠ .abort → a % 8 = 0 → 2 ^ 37 ≤ a → exec row s = .next (s.seqFault q 0x04 true)) ∧
    (GoodMask s q mask → a = 0 → (s.seq q).shadowQ ≠ [] → exec row s = .next s) ∧
    (GoodMask s q mask → i.op ≠ .abort → a = 0 → 4 ≤ (s.commits.filter fun c => c.by_ = q.val).length → exec row s = .next s) ∧
    (GoodMask s q mask → i.op ≠ .abort → a = 0 → (s.seq q).shadowQ = [] →
      (s.commits.filter fun c => c.by_ = q.val).length < 4 →
      Completes row s fun t =>
        (∃ c : Commit, t.commits = s.commits ++ [c] ∧ c.id = s.nextCommit ∧ c.by_ = q.val ∧ c.fn = s.seqFn q ∧
          c.ticket = (s.seq q).nextTicket ∧ c.mask = mask.toNat ∧ c.dry = decide (i.op = .check) ∧ c.result = 0 ∧
          c.issue = s.now ∧ c.snap = s.shadow ∧ c.verdict = none ∧ c.arrived = false ∧
          c.bench = s.fbit Reg.SYS_BENCH_CTL Bit.SYS_BENCH_CTL_BENCH_EN ∧
          c.target = if i.ctl.getLsbD 1 then some (((s.seq q).reg i.d).toNat % 2 ^ 32) else none) ∧
        (t.seq q).nextTicket = ((s.seq q).nextTicket + 1) % 2 ^ 16 ∧
        (i.ctl.getLsbD 0 = false → (t.seq q).pc = (s.seq q).pc + (if i.x then 2 else 1) ∧
          (i.d ≠ 0 → (t.seq q).reg i.d = BitVec.ofNat 64 (s.seq q).nextTicket)) ∧
        (i.ctl.getLsbD 0 = true → t.seqState q = 3 ∧ (t.seq q).waiting = .result i.d s.nextCommit ∧
          (t.seq q).regs = (s.seq q).regs) ∧
        SameRegs s t [seqStatus q] ∧ SameViews s t ∧ SameMemory s t) ∧
    (GoodMask s q mask → i.op = .abort → (s.seq q).shadowQ = [] →
      Completes row s fun t => t.seqState q = 3 ∧ (t.seq q).waiting = .abort mask.toNat ∧
        (t.seq q).regs = (s.seq q).regs ∧ SameRegs s t [seqStatus q] ∧ SameViews s t ∧ SameMemory s t)) ∧
  (∀ (q : SeqId) (mask : Nat) (s : State), (s.seq q).waiting = .abort mask →
    (∀ c ∈ s.commits, c.by_ = q.val → c.dry = false → ∀ g < 32, bitOf c.mask g = true → bitOf mask g = false) →
    Completes (.abortCopy q) s fun t =>
      (let newest : View := match s.admitted.getLast? with | some a => a.view | none => s.active
       ∀ off, viewWord t.shadow off =
         if carries s.shadow newest ((List.range 32).filter (bitOf mask)) off then viewWord newest off
         else viewWord s.shadow off) ∧
      t.active = s.active ∧ t.seqState q = 2 ∧ (t.seq q).pc = (s.seq q).pc + 1 ∧ (t.seq q).waiting = .nothing ∧
      (t.seq q).regs = (s.seq q).regs ∧ (t.seq q).z = (s.seq q).z ∧ (t.seq q).n = (s.seq q).n ∧
      (t.seq q).c = (s.seq q).c ∧ (t.seq q).v = (s.seq q).v ∧ t.commits = s.commits ∧ t.admitted = s.admitted ∧
      SameRegs s t [seqStatus q] ∧ SameMemory s t)

/-- R85 (the layout), R83 (delivery), R68 (flags), R50 (bench mode). -/
def Obligations.CommitResultsAndBenchMode : Prop :=
  (∀ (code ticket frame : Nat) (dry : Bool), code < 16 → ticket < 2 ^ 16 →
    let w := resultWord code dry ticket frame
    w < 2 ^ 64 ∧ w % 16 = code ∧ w / 16 % 2 = (if dry then 1 else 0) ∧ w / 32 % 2 ^ 11 = 0 ∧ w / 2 ^ 16 % 2 ^ 16 = ticket ∧
    w / 2 ^ 32 = if code ≤ 1 then frame % 2 ^ 32 else 0) ∧
  (∀ (c : Commit) (code : Nat) (s : State), s.commits.find? (fun d => d.id = c.id) = some c →
    s.commits.find? (fun d => d.by_ = c.by_) = some c → c.verdict = some code → c.by_ < 160 → c.result = 0 →
    s.islandOn 4 = true →
    Completes (.commitResult c.id) s fun t =>
      t.occs = s.occs ++ [⟨4640 + c.by_, 0, c.ticket + code * 2 ^ 16, s.replica 4, 4⟩] ∧
      t.commits = s.commits.filter (fun d => decide (d.id ≠ c.id)) ∧
      (∀ d, (s.seq c.by_).waiting = .result d c.id →
        t.seqState c.by_ = 2 ∧ (t.seq c.by_).waiting = .nothing ∧ (t.seq c.by_).pc = (s.seq c.by_).pc + 1 ∧
        (d ≠ 0 → tabGet (t.seq c.by_).regs d = some (BitVec.ofNat 64 (resultWord code c.dry c.ticket c.frame))) ∧
        (t.seq c.by_).z = decide (code = 0) ∧ (t.seq c.by_).n = decide (2 ≤ code) ∧ (t.seq c.by_).c = decide (code = 1) ∧
        (t.seq c.by_).v = false) ∧
      ((∀ d, (s.seq c.by_).waiting ≠ .result d c.id) → t.seq c.by_ = s.seq c.by_) ∧
      SameRegs s t [seqStatus c.by_] ∧ SameViews s t ∧ SameMemory s t) ∧
  (∀ (v : Word) (s : State), s.Reaches Reg.SYS_BENCH_CTL → v.getLsbD 1 = false →
    (v.getLsbD 0 = false → Completes (.benchEnWrite v) s fun t => t.fbit Reg.SYS_BENCH_CTL Bit.SYS_BENCH_CTL_BENCH_EN = false ∧
      SameRegs s t [Reg.SYS_BENCH_CTL] ∧ SameViews s t ∧ SameMemory s t) ∧
    (v.getLsbD 0 = true → (∀ q : SeqId, s.seqState q = 0) → Completes (.benchEnWrite v) s fun t =>
      t.fbit Reg.SYS_BENCH_CTL Bit.SYS_BENCH_CTL_BENCH_EN = true ∧ SameRegs s t [Reg.SYS_BENCH_CTL] ∧ SameViews s t ∧ SameMemory s t) ∧
    (∀ q : SeqId, v.getLsbD 0 = true → s.seqState q ≠ 0 → s.fbit Reg.SYS_BENCH_CTL Bit.SYS_BENCH_CTL_BENCH_EN = false →
      Completes (.benchEnWrite v) s fun t => t.fbit Reg.SYS_BENCH_CTL Bit.SYS_BENCH_CTL_BENCH_EN = false ∧
        t.fbit Reg.SYS_BENCH_CTL Bit.SYS_BENCH_CTL_BENCH_REFUSED = true ∧
        SameRegs s t [Reg.SYS_BENCH_CTL] ∧ SameViews s t ∧ SameMemory s t)) ∧
  (∀ (v : Word) (s : State), s.Reaches Reg.SYS_BENCH_COMMIT →
    (s.fbit Reg.SYS_BENCH_CTL Bit.SYS_BENCH_CTL_BENCH_EN = false ∨ v = 0 ∨
        s.fbit Reg.SYS_BENCH_RESULT Bit.SYS_BENCH_RESULT_BUSY = true →
      exec (.benchCommit v) s = .next s) ∧
    (s.fbit Reg.SYS_BENCH_CTL Bit.SYS_BENCH_CTL_BENCH_EN = true → v ≠ 0 →
      s.fbit Reg.SYS_BENCH_RESULT Bit.SYS_BENCH_RESULT_BUSY = false → Completes (.benchCommit v) s fun t =>
        (∃ c : Commit, t.commits = s.commits ++ [c] ∧ c.mask = v.toNat ∧ c.bench = true ∧ c.by_ = 160 ∧ c.dry = false ∧
          c.snap = s.shadow ∧ c.issue = s.now ∧ c.verdict = none) ∧
        t.fbit Reg.SYS_BENCH_RESULT Bit.SYS_BENCH_RESULT_BUSY = true ∧
        SameRegs s t [Reg.SYS_BENCH_RESULT] ∧ SameViews s t ∧ SameMemory s t)) ∧
  (∀ (c : Commit) (code : Nat) (s : State), s.commits = [c] → c.verdict = some code → code < 16 → c.by_ = 160 →
    Completes (.benchResult c.id) s fun t => t.commits = [] ∧
      t.fget Reg.SYS_BENCH_RESULT Bit.SYS_BENCH_RESULT_RESULT = code ∧
      t.fbit Reg.SYS_BENCH_RESULT Bit.SYS_BENCH_RESULT_BUSY = false ∧
      SameRegs s t [Reg.SYS_BENCH_RESULT] ∧ SameViews s t ∧ SameMemory s t)

/-- R216 with the constants of R215. -/
def Obligations.ServiceModel : Prop :=
  ∀ s : State,
    let raw : Int := 64000 * s.fget Reg.SYS_MEM_CFG Bit.SYS_MEM_CFG_RATE
    let keep : Int := 65536 - 2294 - 132 - (if s.fbit Reg.SYS_MEM_CFG Bit.SYS_MEM_CFG_ECC_EN then 4096 else 0)
    let a := raw * keep / 65536
    let b := a * 56361 / 65536
    let g : Int := (256000 * 81920 + 65535) / 65536
    (s.svcLocal : Int) = max 0 (min (b - g - s.fget Reg.EPH_GC_RATE Bit.EPH_GC_RATE_RATE) (raw * 3 / 4))

/-- R213 ("A refusal changes no state and places nothing."), R214, R217, R223. -/
def Obligations.Verdicts : Prop :=
  (∀ (c : Commit) (s : State), s.commits.find? (fun d => d.id = c.id) = some c → c.arrived = false →
    (∀ d ∈ s.commits, d.id = c.id → d = c) →
    (∀ d ∈ s.commits, d.arrived = false → d.id < c.id → ¬ (d.by_ < 160 ↔ c.by_ < 160)) →
    Completes (.ephArrival c.id) s fun t => t.commits.find? (fun d => d.id = c.id) = some { c with arrived := true } ∧
      t.commits.length = s.commits.length ∧ t.admitted = s.admitted ∧ Only s t queueRegs) ∧
  (∀ (c : Commit) (pre post : List Commit) (s : State), s.commits = pre ++ c :: post → (∀ d ∈ pre, d.id ≠ c.id) →
    c.arrived = true → c.tS = none →
    ((∃ d ∈ pre, d.arrived = true ∧ d.verdict = none ∧ ∃ g < 32, bitOf d.mask g = true ∧ bitOf c.mask g = true) →
      exec (.ephEvalStart c.id) s = .next s) ∧
    ((∀ d ∈ pre, d.arrived = true → d.verdict = none → ∀ g < 32, bitOf d.mask g = true → bitOf c.mask g = false) → s.poison = [] →
      Completes (.ephEvalStart c.id) s fun t =>
        (∀ c', t.commits.find? (fun d => d.id = c.id) = some c' → c'.tS = some s.now ∧ c'.sampled = s.regs ∧
          c'.sampledDrives = s.drives ∧ c'.sampledRoles = s.pipeRoles ∧ c'.snap = c.snap ∧ c'.mask = c.mask ∧ c'.verdict = c.verdict) ∧
        (t.commits.find? (fun d => d.id = c.id)).isSome = true ∧ t.admitted = s.admitted ∧ Only s t queueRegs)) ∧
  (∀ (c : Commit) (s : State), s.commits.find? (fun d => d.id = c.id) = some c → c.tS.isSome = true → c.verdict = none →
    Completes (.ephVerdict c.id) s fun t =>
      SameViews s t ∧ SameMemory s t ∧ (t.commits.find? (fun d => d.id = c.id)).isSome = true ∧
      (∀ c', t.commits.find? (fun d => d.id = c.id) = some c' →
        (∀ v, c'.verdict = some v → v < 9 ∧ ∀ g < 32, bitOf c.mask g = true →
          t.fget (Reg.EPH_GRP_STATUS g) Bit.EPH_GRP_STATUS_LAST_RESULT = v) ∧
        ((s.judge c).1 ≠ 0 → c'.verdict = some (s.judge c).1 ∧ t.admitted = s.admitted ∧ SameRegs s t queueRegs) ∧
        (∀ x, s.placeCommit c s.newest (s.judge c).2.2 = some x → (s.judge c).1 = 0 →
          c'.verdict = some (if x.2 then 1 else 0) ∧ c'.frame = x.1.frame ∧
          (c.dry = true → t.admitted = s.admitted ∧ SameRegs s t queueRegs) ∧
          (c.dry = false → SameRegs s t heldRegs ∧ t.admitted.take s.admitted.length = s.admitted ∧
            t.admitted.length = s.admitted.length + 1 ∧ (∀ a, t.admitted.getLast? = some a → a.id = c.id ∧ a.mask = c.mask ∧
              a.view = newView c.snap s.newest ((List.range 32).filter (bitOf c.mask)) ∧ a.frames = x.1.frames ∧
              a.windowEnd = x.1.windowEnd ∧ a.opened = false ∧ a.told = false))))) ∧
  (∀ s : State, Completes .gcBucketRefill s fun t => Quiet s t ∧
    (s.ticksDue 1 4 = 0 → t = s) ∧
    (s.ticksDue 1 4 ≠ 0 → t.gcTokens = min (64 * 1024) (s.gcTokens + s.ticksDue 1 4 * s.fget Reg.EPH_GC_RATE Bit.EPH_GC_RATE_RATE)))

/-- R226, R21, R166, R228, R20, R158. -/
def Obligations.LatchWindows : Prop :=
  (∀ (a : Admitted) (s : State), s.admitted.find? (fun b => b.id = a.id) = some a → a.opened = false →
    (s.now < a.windowEnd - 20000 → exec (.latchWindowOpen a.id) s = .next s) ∧
    (a.windowEnd - 20000 ≤ s.now → Completes (.latchWindowOpen a.id) s fun t =>
      (∀ b, t.admitted.find? (fun b => b.id = a.id) = some b →
        b.opened = true ∧ b.copies = [] ∧ b.acked = [] ∧ b.decision = none ∧ b.view = a.view ∧ b.frames = a.frames ∧
        (b.waitOk = true ↔ ∀ sl ∈ s.waitingLayers a,
          (∃ k, s.candidateAt a.view sl (a.windowEnd - 20000) = some k ∧
            a.issue < (s.slot (lyr a.view sl Lyr.INGEST_STREAM) k).stamp) ∨
          lyr a.view sl Lyr.READY_WAIT ≤ (tabGet a.waited sl).getD 0)) ∧
      (t.admitted.find? (fun b => b.id = a.id)).isSome = true ∧ Quiet s t)) ∧
  (∀ (a : Admitted) (island : IslandId) (lost : Bool) (s : State), s.admitted.find? (fun b => b.id = a.id) = some a →
    a.opened = true → island.val ∈ a.need → island.val ∉ a.copies → a.decision = none → s.islandOn island = true →
    Completes (.latchCopyReceive a.id island lost) s fun t =>
      t.admitted.find? (fun b => b.id = a.id) = some { a with
        copies := island.val :: a.copies,
        acked := if lost = true ∨ a.windowEnd - 100 < s.now then a.acked else island.val :: a.acked } ∧
      (lost = false → t.occs = s.occs ∧ Quiet s t) ∧
      (lost = true → t.fbit Reg.SYS_CROSS_STATUS Bit.SYS_CROSS_STATUS_CROSS_LOSS = true ∧ Only s t [Reg.SYS_CROSS_STATUS])) ∧
  (∀ (a : Admitted) (s : State), s.admitted.find? (fun b => b.id = a.id) = some a → (∀ b ∈ s.admitted, b.id = a.id → b = a) →
    a.opened = true → a.decision = none →
    (s.now < a.windowEnd - 100 → exec (.decisionPoint a.id) s = .next s) ∧
    (a.windowEnd - 100 ≤ s.now → (∀ i ∈ a.need, i ∈ a.acked) → a.waitOk = true → Completes (.decisionPoint a.id) s fun t =>
      t.admitted.find? (fun b => b.id = a.id) = some { a with decision := some true } ∧ Quiet s t) ∧
    (a.windowEnd - 100 ≤ s.now → (∃ i ∈ a.need, i ∉ a.acked) ∨ a.waitOk = false → Completes (.decisionPoint a.id) s fun t =>
      (∀ b, t.admitted.find? (fun b => b.id = a.id) = some b → b.decision = some false ∧ b.opened = false ∧ b.view = a.view) ∧
      (t.admitted.find? (fun b => b.id = a.id)).isSome = true ∧
      ((∃ i ∈ a.need, i ∉ a.acked) → t.fbit Reg.EPH_STATUS Bit.EPH_STATUS_LATE_ACK = true) ∧ SameViews s t)) ∧
  (∀ (a : Admitted) (island : IslandId) (s : State), s.admitted.find? (fun b => b.id = a.id) = some a →
    island.val ∈ a.copies → (∀ d ∈ a.decided, d.1 ≠ island.val) →
    (a.decision = some true → Completes (.decisionReceive a.id island) s fun t =>
      t.admitted.find? (fun b => b.id = a.id) = some { a with decided := (island.val, true) :: a.decided } ∧ Quiet s t) ∧
    (a.decision = some false → Completes (.decisionReceive a.id island) s fun t =>
      t.admitted.find? (fun b => b.id = a.id) = some { a with copies := a.copies.erase island.val } ∧ Quiet s t)) ∧
  (∀ (p : PipeId) (island : IslandId) (x : SwitchTodo) (s : State), s.switches = [x] → s.pipeIsland p = island.val →
    x.island = island.val →
    (s.switchDue x = false → exec (.switchPoint x.id island) s = .next s) ∧
    (s.switchDue x = true → Completes (.switchPoint x.id island) s fun t => t.switches = [] ∧
      (∀ key ∈ x.old.rates.map (·.1), key % 64 = p.val → key ∉ x.new.rates.map (·.1) → key ∉ x.keep →
        (∀ e ∈ s.activePlans, key ∉ e.2.rates.map (·.1)) → tabGet t.apertures key = none) ∧ Quiet s t))

/-- R164, R165, R230, R140, R229 (pool words switch with the first group), R76. -/
def Obligations.BoundariesAndSelection : Prop :=
  (∀ (sl t : Nat) (m : View) (k : Nat) (s : State), s.candidateAt m sl t = some k →
    let st := lyr m sl Lyr.INGEST_STREAM
    k < s.slotCount st ∧ (s.slot st k).state = 2 ∧ (s.slot st k).stamp ≤ t ∧
    (lyr m sl Lyr.INGEST_MODE = 1 → k = lyr m sl Lyr.BUF_INDEX) ∧
    (lyr m sl Lyr.INGEST_MODE ≠ 1 → ∀ j < s.slotCount st, (s.slot st j).state = 2 → (s.slot st j).stamp ≤ t →
      (s.slot st j).stamp ≤ (s.slot st k).stamp)) ∧
  (∀ (h : HeadId) (s : State), s.headRunning h = true → s.dueFor h ((s.head h).frame + 1) = none →
    tabGet s.selectedFor h ≠ some ((s.head h).frame + 1) →
    let at_ := s.selectionTime none h
    at_ ≤ s.boundaryOf h ((s.head h).frame + 1) - 20000 ∧ (s.now < at_ → exec (.selectionPoint h) s = .next s) ∧
    (at_ ≤ s.now → Completes (.selectionPoint h) s fun t =>
      tabGet t.selectedAt h = some at_ ∧ tabGet t.selectedFor h = some ((s.head h).frame + 1) ∧
      (∀ sl ∈ headLayers s.active h, isBound s.active sl = true →
        (tabGet t.shown (shownKey sl ((s.head h).frame + 1) false)).isSome = true ∧
        ∀ x, tabGet t.shown (shownKey sl ((s.head h).frame + 1) false) = some x → x.frame = (s.head h).frame + 1 ∧
          (s.candidateAt s.active sl at_ = none → x.source = none ∧ x.fallback = true) ∧
          (∀ k, s.candidateAt s.active sl at_ = some k →
            let st := lyr s.active sl Lyr.INGEST_STREAM
            (∀ last, tabGet s.selectedAt h = some last →
              (last < (s.slot st k).stamp → x.source = s.slotSource st k ∧ x.fresh = true ∧ x.fallback = false) ∧
              ((s.slot st k).stamp ≤ last → lyr s.active sl Lyr.READY_POLICY ≠ 1 →
                x.source = s.slotSource st k ∧ x.fresh = false ∧ x.fallback = false) ∧
              ((s.slot st k).stamp ≤ last → lyr s.active sl Lyr.READY_POLICY = 1 → x.source = none ∧ x.fallback = true)))) ∧
      Quiet s t)) ∧
  (∀ (h : HeadId) (s : State), s.headRunning h = true → s.admitted = [] → hdf s.active h Hd.HEAD_EN = 1 →
    s.splits = [] → (s.drive (hdf s.active h Hd.CD_SEL)).gated = false → (s.frameRun h).recorded = true →
    (s.head h).line + 1 = s.vtotal h → s.phaseHeld s.active h = false → s.islandOn (62 + h.val / 16) = true →
    Completes (.frameBoundary h) s fun t =>
      (t.head h).frame = (s.head h).frame + 1 ∧ (t.head h).line = 0 ∧ (t.head h).pixel = ppcOf s.active h ∧
      t.rd (hdOff h Hd.ACT_VTOTAL) = (s.head h).nextV % 2 ^ 32 ∧ t.headRunning h = true ∧
      (∃ o ∈ t.occs, o.source = 4096 + h.val ∧ o.detail = ((s.head h).frame + 1) % 2 ^ 32) ∧
      (∀ k : HeadId, k ≠ h → (t.head k).frame = (s.head k).frame ∧ (t.head k).line = (s.head k).line) ∧ SameViews s t ∧
      SameMemory s t) ∧
  (∀ (h : HeadId) (g : GroupId) (a : Admitted) (s : State), s.dueFor h ((s.head h).frame + 1) = some a →
    s.boundaryReady h (some a) a.view = true → groupOf a.view h = some g.val →
    a.decision = some true ∧
    Completes (.frameBoundary h) s fun t =>
      (∀ off, poolWord off = false → viewWord t.active off =
        if carries a.view s.active [g.val] off then viewWord a.view off else viewWord s.active off) ∧
      (∀ off, poolWord off = true → viewWord t.active off =
        if a.frames.length = ((List.range 32).filter (bitOf a.mask)).length ∧
          carries a.view s.active ((List.range 32).filter (bitOf a.mask)) off
        then viewWord a.view off else viewWord s.active off) ∧
      t.shadow = s.shadow) ∧
  (∀ (h : HeadId) (s : State), s.headRunning h = true → (s.head h).line + 1 < s.vtotal h → s.splits = [] →
    let m := s.active
    ((s.drive (hdf m h Hd.CD_SEL)).gated = true → exec (.lineStart h) s = .next s) ∧
    ((s.drive (hdf m h Hd.CD_SEL)).gated = false → Completes (.lineStart h) s fun t =>
      (t.head h).line = (s.head h).line + 1 ∧ (t.head h).frame = (s.head h).frame ∧ (t.head h).boundary = (s.head h).boundary ∧
      (t.head h).nextV = (s.head h).nextV ∧ (t.head h).pixel = ppcOf m h ∧
      (0 < hdf m h Hd.PIX_INC → ∃ edges : Nat, (t.head h).accum + 2 ^ 24 * (htotal m h / ppcOf m h) =
        (s.head h).accum + edges * hdf m h Hd.PIX_INC ∧ (edges = 0 ∨ (t.head h).accum < hdf m h Hd.PIX_INC)) ∧
      (∀ k : HeadId, k ≠ h → t.head k = s.head k) ∧ Quiet s t))

/-- R237, R238, R241 to R243. -/
def Obligations.QuadsAndTraining : Prop :=
  (∀ j < 4, laneOwner 0 j = (0, j) ∧ laneOwner 1 j = (if j < 2 then (0, j) else (2, j - 2)) ∧ laneOwner 2 j = (j, 0) ∧
    laneOwner 3 j = if j < 2 then (0, j) else (j, 0)) ∧
  (∀ (q : Fin 32) (v : Word) (s : State), s.Reaches (Reg.PRT_QUAD_MODE q) →
    let mode := s.fget (Reg.PRT_QUAD_MODE q) Bit.PRT_QUAD_MODE_MODE
    (v.toNat % 4 = mode → Completes (.prtQuadModeWrite q v) s fun t =>
      t.fget (Reg.PRT_QUAD_MODE q) Bit.PRT_QUAD_MODE_MODE = mode ∧ t.ports = s.ports ∧ Only s t [Reg.PRT_QUAD_MODE q]) ∧
    (∀ k < 4, v.toNat % 4 ≠ mode → s.enabledAnywhere (4 * q + k) = true → Completes (.prtQuadModeWrite q v) s fun t =>
      t.fget (Reg.PRT_QUAD_MODE q) Bit.PRT_QUAD_MODE_MODE = mode ∧ t.fbit (Reg.PRT_QUAD_MODE q) Bit.PRT_QUAD_MODE_REFUSED = true ∧
      t.ports = s.ports ∧ Only s t [Reg.PRT_QUAD_MODE q]) ∧
    (v.toNat % 4 ≠ mode → (∀ k < 4, s.enabledAnywhere (4 * q + k) = false) → Completes (.prtQuadModeWrite q v) s fun t =>
      t.fget (Reg.PRT_QUAD_MODE q) Bit.PRT_QUAD_MODE_MODE = v.toNat % 4 ∧
      (∀ k < 4, t.portState (4 * q + k) = if s.fbit (Reg.PRT_HPD (4 * q + k)) Bit.PRT_HPD_CONNECTED then 1 else 0) ∧
      Only s t (Reg.PRT_QUAD_MODE q :: (List.range 4).map fun k => Reg.PRT_LINK_STATUS (4 * q + k)))) ∧
  (∀ (w : FnId) (n : HeadId) (v : Word) (s : State), s.headReach w n = true → s.Reaches (Reg.PRT_LINK_CTL n) →
    v.getLsbD 7 = false →
    let rate := if v.toNat % 8 = 7 then 6 else v.toNat % 8
    let policy := if v.toNat / 16 % 4 = 3 then 0 else v.toNat / 16 % 4
    let same := rate = s.fget (Reg.PRT_LINK_CTL n) Bit.PRT_LINK_CTL_MAX_RATE ∧ policy = s.policy n
    (s.enabledAnywhere n = false ∨ same → Completes (.prtLinkCtlWrite w n v) s fun t =>
      t.fget (Reg.PRT_LINK_CTL n) Bit.PRT_LINK_CTL_MAX_RATE = rate ∧ t.policy n = policy ∧
      t.fbit (Reg.PRT_LINK_CTL n) Bit.PRT_LINK_CTL_AUTO_RETRY = v.getLsbD 6 ∧ t.ports = s.ports ∧ Only s t [Reg.PRT_LINK_CTL n]) ∧
    (s.enabledAnywhere n = true → ¬ same → Completes (.prtLinkCtlWrite w n v) s fun t =>
      t.fget (Reg.PRT_LINK_CTL n) Bit.PRT_LINK_CTL_MAX_RATE = s.fget (Reg.PRT_LINK_CTL n) Bit.PRT_LINK_CTL_MAX_RATE ∧
      t.policy n = s.policy n ∧ t.fbit (Reg.PRT_LINK_CTL n) Bit.PRT_LINK_CTL_AUTO_RETRY = v.getLsbD 6 ∧
      t.fbit (Reg.PRT_LINK_STATUS n) Bit.PRT_LINK_STATUS_CTL_REFUSED = true ∧ t.portState n = s.portState n ∧
      t.ports = s.ports ∧ Only s t [Reg.PRT_LINK_CTL n, Reg.PRT_LINK_STATUS n])) ∧
  (∀ (w : FnId) (n : HeadId) (s : State), s.headReach w n = true → s.Reaches (Reg.PRT_LINK_CTL n) →
    s.policy n < 2 → s.fget (Reg.PRT_LINK_CTL n) Bit.PRT_LINK_CTL_MAX_RATE < 7 →
    (s.portState n ≠ 0 → s.portState n ≠ 2 → Completes (.retrain w n) s fun t => t.portState n = 2 ∧
      (t.port n).wanted = true ∧ (t.port n).retries = 0 ∧ Only s t [Reg.PRT_LINK_STATUS n]) ∧
    (s.portState n = 2 → Completes (.retrain w n) s fun t => t.ports = s.ports ∧ Only s t [])) ∧
  (∀ (n : HeadId) (rates : BitVec 7) (lanes : Fin 3) (lttprs : Fin 9) (s : State), s.portState n = 2 →
    (s.port n).wanted = true → (s.port n).attempts = [] → (s.port n).aux ≠ 1 → (s.port n).dropping = false →
    let list := s.attemptList n rates.toNat (2 ^ lanes.val)
    (s.policy n = 1 → s.headLanes n ≠ 0 → list = [(s.fget (Reg.PRT_LINK_CTL n) Bit.PRT_LINK_CTL_MAX_RATE, s.headLanes n)]) ∧
    (s.policy n ≠ 1 → ∀ a ∈ list, a.1 ≤ s.fget (Reg.PRT_LINK_CTL n) Bit.PRT_LINK_CTL_MAX_RATE ∧ rates.getLsbD a.1 = true ∧
      a.2 ≤ s.headLanes n ∧ a.2 ≤ 2 ^ lanes.val ∧
      (hdf s.active n Hd.HEAD_EN = 1 → s.streamFits s.active n a.2 a.1 = true)) ∧
    (list ≠ [] → Completes (.trainingAttemptStart n rates lanes lttprs) s fun t =>
      (t.port n).running = true ∧ (t.port n).attempts = list ∧ t.portState n = 2 ∧
      t.fget (Reg.PRT_LINK_STATUS n) Bit.PRT_LINK_STATUS_LTTPRS = lttprs.val ∧ Only s t [Reg.PRT_LINK_STATUS n]) ∧
    (list = [] → s.islandOn (62 + n / 16) = true → Completes (.trainingAttemptStart n rates lanes lttprs) s fun t =>
      t.portState n = 3 ∧ t.fbit (Reg.PRT_LINK_STATUS n) Bit.PRT_LINK_STATUS_TRAIN_FAILED = true ∧ PortEvent s t n 4 0 ∧
      Only s t [Reg.PRT_LINK_STATUS n])) ∧
  (∀ (n : HeadId) (rate lanes : Nat) (rest : List (Nat × Nat)) (s : State), s.portState n = 2 → (s.port n).running = true →
    (s.port n).attempts = (rate, lanes) :: rest → rate < 7 → s.islandOn (62 + n / 16) = true →
    let fails := s.fget (Reg.PRT_LINK_STATUS n) Bit.PRT_LINK_STATUS_FAIL_COUNT
    let trains := s.fget (Reg.PRT_LINK_STATUS n) Bit.PRT_LINK_STATUS_TRAIN_COUNT
    ((s.port n).dropping = false → (s.port n).irqSeen = false → Completes (.trainingAttemptEnd n true) s fun t =>
      t.portState n = 4 ∧ t.fget (Reg.PRT_LINK_STATUS n) Bit.PRT_LINK_STATUS_RATE = rate ∧
      t.fget (Reg.PRT_LINK_STATUS n) Bit.PRT_LINK_STATUS_LANES = (if lanes = 4 then 2 else if lanes = 2 then 1 else 0) ∧
      t.fget (Reg.PRT_LINK_STATUS n) Bit.PRT_LINK_STATUS_TRAIN_COUNT = min (trains + 1) 255 ∧ PortEvent s t n 3 0 ∧
      Only s t [Reg.PRT_LINK_STATUS n, Reg.PRT_LANE n]) ∧
    ((s.port n).dropping = false → (s.port n).irqSeen = false → rest ≠ [] → Completes (.trainingAttemptEnd n false) s fun t =>
      t.portState n = 2 ∧ (t.port n).attempts = rest ∧ (t.port n).wanted = true ∧
      t.fget (Reg.PRT_LINK_STATUS n) Bit.PRT_LINK_STATUS_FAIL_COUNT = min (fails + 1) 255 ∧ Only s t [Reg.PRT_LINK_STATUS n]) ∧
    ((s.port n).dropping = false → (s.port n).irqSeen = false → rest = [] → Completes (.trainingAttemptEnd n false) s fun t =>
      t.portState n = 3 ∧ t.fbit (Reg.PRT_LINK_STATUS n) Bit.PRT_LINK_STATUS_TRAIN_FAILED = true ∧ PortEvent s t n 4 0 ∧
      t.fget (Reg.PRT_LINK_STATUS n) Bit.PRT_LINK_STATUS_FAIL_COUNT = min (fails + 1) 255 ∧ Only s t [Reg.PRT_LINK_STATUS n]) ∧
    (∀ ok, (s.port n).dropping = true → Completes (.trainingAttemptEnd n ok) s fun t => t.portState n = 0 ∧
      t.fget (Reg.PRT_LINK_STATUS n) Bit.PRT_LINK_STATUS_FAIL_COUNT = fails ∧ Only s t [Reg.PRT_LINK_STATUS n])) ∧
  (∀ (n : HeadId) (s : State), s.portState n = 3 →
    ((s.port n).retries < 8 → s.fbit (Reg.PRT_LINK_CTL n) Bit.PRT_LINK_CTL_AUTO_RETRY = true → s.policy n ≠ 2 →
      (s.port n).failAt + 1000000000 ≤ s.now → Completes (.trainRetryTimer n) s fun t => t.portState n = 2 ∧
        (t.port n).wanted = true ∧ (t.port n).retries = (s.port n).retries + 1 ∧ Only s t [Reg.PRT_LINK_STATUS n]) ∧
    (8 ≤ (s.port n).retries ∨ s.fbit (Reg.PRT_LINK_CTL n) Bit.PRT_LINK_CTL_AUTO_RETRY = false ∨ s.policy n = 2 ∨
        s.now < (s.port n).failAt + 1000000000 →
      exec (.trainRetryTimer n) s = .next s)) ∧
  (∀ (w : FnId) (n : HeadId) (v : Word) (s : State), s.headReach w n = true → s.Reaches (Reg.PRT_MAN_CTL n) →
    let rate := v.toNat % 8
    let lanes := min (v.toNat / 8 % 4) (laneCode (s.headLanes n))
    let pattern := v.toNat / 256 % 16
    (s.policy n ≠ 2 → exec (.prtManCtlWrite w n v) s = .next s) ∧
    (s.policy n = 2 → s.portState n ≠ 0 → Completes (.prtManCtlWrite w n v) s fun t =>
      t.rd (Reg.PRT_MAN_CTL n) = rate + 8 * lanes + 256 * min pattern 9 + 2 ^ 16 * (v.toNat / 2 ^ 16) ∧
      (9 ≤ pattern → t.portState n = 1) ∧ (1 ≤ pattern → pattern < 9 → t.portState n = 2) ∧
      (pattern = 0 → s.fget (Reg.PRT_LINK_STATUS n) Bit.PRT_LINK_STATUS_RATE ≠ rate → t.portState n = 4 ∧
        t.fget (Reg.PRT_LINK_STATUS n) Bit.PRT_LINK_STATUS_RATE = rate ∧
        t.fget (Reg.PRT_LINK_STATUS n) Bit.PRT_LINK_STATUS_LANES = lanes) ∧
      Only s t [Reg.PRT_MAN_CTL n, Reg.PRT_LINK_STATUS n]) ∧
    (s.policy n = 2 → s.portState n = 0 → Completes (.prtManCtlWrite w n v) s fun t =>
      t.rd (Reg.PRT_MAN_CTL n) = rate + 8 * lanes + 256 * min pattern 9 + 2 ^ 16 * (v.toNat / 2 ^ 16) ∧
      Only s t [Reg.PRT_MAN_CTL n]))

/-- R252 to R254, refusal codes of R123. -/
def Obligations.LaneSubstitution : Prop :=
  (∀ (q : Fin 32) (j : Fin 4) (s : State),
    let o := laneOwner (s.fget (Reg.PRT_QUAD_MODE q) Bit.PRT_QUAD_MODE_MODE) j
    let n := 4 * q.val + o.1
    s.islandOn (62 + n / 16) = true →
    let lane := 17 * (q.val / 4) + 4 * (q.val % 4) + j.val
    let fails (t : State) : Prop := t.occs = s.occs ++ [⟨4352 + n, 5, lane, s.replica (62 + n / 16), 62 + n / 16⟩,
      ⟨4352 + n, 4, 0, s.replica (62 + n / 16), 62 + n / 16⟩] ∧ t.portState n = 3 ∧ o.2 ∈ (t.port n).failedLanes ∧
      t.fbit (Reg.PRT_LINK_STATUS n) Bit.PRT_LINK_STATUS_TRAIN_FAILED = true ∧ t.steering = s.steering ∧ Only s t [Reg.PRT_LINK_STATUS n]
    let narrower := [4, 2, 1].find? fun l => decide (l < s.portWidth n) && (decide (hdf s.active n Hd.HEAD_EN = 0) ||
      s.streamFits s.active n l (s.fget (Reg.PRT_LINK_CTL n) Bit.PRT_LINK_CTL_MAX_RATE))
    (s.spareFree (n / 16) = true →
      Completes (.laneSliceFault q j) s fun t => PortEvent s t n 5 lane ∧
        tabGet t.steering (n / 16) = some ⟨n, o.2, decide (s.portState n = 5)⟩ ∧
        t.portState n = (if s.portState n = 5 then 1 else s.portState n) ∧ Only s t [Reg.PRT_LINK_STATUS n]) ∧
    (s.spareFree (n / 16) = false → s.portState n = 0 →
      Completes (.laneSliceFault q j) s fun t => PortEvent s t n 5 lane ∧ o.2 ∈ (t.port n).failedLanes ∧
        t.steering = s.steering ∧ Only s t []) ∧
    (s.spareFree (n / 16) = false → s.portState n ≠ 0 → narrower = none → Completes (.laneSliceFault q j) s fun t => fails t) ∧
    (∀ l, s.spareFree (n / 16) = false → s.portState n ≠ 0 → narrower = some l →
      (l ≤ o.2 → s.policy n = 0 → Completes (.laneSliceFault q j) s fun t => PortEvent s t n 5 lane ∧ t.portState n = 2 ∧
        (t.port n).wanted = true ∧ o.2 ∈ (t.port n).failedLanes ∧ t.fbit (Reg.PRT_LANE n) Bit.PRT_LANE_DEGRADED = true ∧
        t.steering = s.steering ∧ Only s t [Reg.PRT_LANE n, Reg.PRT_LINK_STATUS n]) ∧
      (o.2 < l ∨ s.policy n ≠ 0 → Completes (.laneSliceFault q j) s fun t => fails t))) ∧
  (∀ (n : HeadId) (k : Fin 4) (s : State), s.Reaches (Reg.PRT_LANE n) →
    let g := n.val / 16
    let free := s.fbit (Reg.PRT_LANE n) Bit.PRT_LANE_SPARE_FREE
    (s.headLanes n ≤ k ∨ free = false → Completes (.substReq n k) s fun t =>
      t.fget (Reg.PRT_LANE n) Bit.PRT_LANE_REFUSE_CODE = 9 ∧ t.fbit (Reg.PRT_LANE n) Bit.PRT_LANE_REFUSED = true ∧
      t.steering = s.steering ∧ Only s t [Reg.PRT_LANE n]) ∧
    (k < s.headLanes n → free = true → (tabGet s.steering g).isSome = true → Completes (.substReq n k) s fun t =>
      t.fget (Reg.PRT_LANE n) Bit.PRT_LANE_REFUSE_CODE = 8 ∧ t.fbit (Reg.PRT_LANE n) Bit.PRT_LANE_REFUSED = true ∧
      t.steering = s.steering ∧ Only s t [Reg.PRT_LANE n]) ∧
    (k < s.headLanes n → free = true → tabGet s.steering g = none → Completes (.substReq n k) s fun t =>
      tabGet t.steering g = some ⟨n, k, decide (s.portState n = 5)⟩ ∧
      t.portState n = (if s.portState n = 5 then 1 else s.portState n) ∧
      t.fget (Reg.PRT_LANE n) Bit.PRT_LANE_SUBST_LANE = k.val ∧ Only s t [Reg.PRT_LANE n, Reg.PRT_LINK_STATUS n])) ∧
  (∀ (g : Fin 8) (x : Steer) (s : State), tabGet s.steering g = some x → x.port < 128 → x.port / 16 = g.val →
    let group := (List.range 16).map fun i => Reg.PRT_LANE (16 * g.val + i)
    Completes (.laneSteerDone g) s fun t => tabGet t.steering g = none ∧
      t.fbit (Reg.PRT_LANE x.port) Bit.PRT_LANE_SUBSTITUTED = true ∧
      (∀ i < 16, t.fbit (Reg.PRT_LANE (16 * g.val + i)) Bit.PRT_LANE_SPARE_FREE = false) ∧
      t.fget Reg.SYS_SPARE_STATUS Bit.SYS_SPARE_STATUS_LANES_FREE = s.fget Reg.SYS_SPARE_STATUS Bit.SYS_SPARE_STATUS_LANES_FREE - 1 ∧
      t.flashLog = s.flashLog ++ [(3, physicalLane (x.port / 4) (logicalLane
        (s.fget (Reg.PRT_QUAD_MODE (x.port / 4)) Bit.PRT_QUAD_MODE_MODE) (x.port % 4) x.lane))] ∧
      (x.wasSending = true → s.policy x.port ≠ 2 → s.portState x.port ≠ 0 → t.portState x.port = 2 ∧
        (t.port x.port).held = some (s.fget (Reg.PRT_LINK_STATUS x.port) Bit.PRT_LINK_STATUS_RATE,
          laneCount (s.fget (Reg.PRT_LINK_STATUS x.port) Bit.PRT_LINK_STATUS_LANES))) ∧
      (x.wasSending = false ∨ s.policy x.port = 2 ∨ s.portState x.port = 0 → t.fbit (Reg.PRT_LANE x.port) Bit.PRT_LANE_SUBST_DONE = true ∧ t.portState x.port = s.portState x.port) ∧
      Only s t (Reg.SYS_SPARE_STATUS :: Reg.PRT_LINK_STATUS x.port :: group)) ∧
  (∀ (n : HeadId) (s : State), s.Reaches (Reg.PRT_LANE n) →
    (s.enabledAnywhere n = true → Completes (.loopbackReq n) s fun t =>
      t.fget (Reg.PRT_LANE n) Bit.PRT_LANE_REFUSE_CODE = 10 ∧ t.fbit (Reg.PRT_LANE n) Bit.PRT_LANE_REFUSED = true ∧
      t.ports = s.ports ∧ Only s t [Reg.PRT_LANE n]) ∧
    (s.enabledAnywhere n = false → (tabGet s.steering (n / 16)).isSome = true → Completes (.loopbackReq n) s fun t =>
      t.fget (Reg.PRT_LANE n) Bit.PRT_LANE_REFUSE_CODE = 7 ∧ t.fbit (Reg.PRT_LANE n) Bit.PRT_LANE_REFUSED = true ∧
      t.ports = s.ports ∧ Only s t [Reg.PRT_LANE n]) ∧
    (s.enabledAnywhere n = false → tabGet s.steering (n / 16) = none → Completes (.loopbackReq n) s fun t =>
      (t.port n).looping = true ∧ (t.port n).loopAt = s.now ∧ Only s t [])) ∧
  (∀ (n : HeadId) (fail : Bool) (s : State), (s.port n).looping = true →
    (s.now < (s.port n).loopAt + 10000000 → exec (.loopbackDone n fail) s = .next s) ∧
    ((s.port n).loopAt + 10000000 ≤ s.now → Completes (.loopbackDone n fail) s fun t =>
      (t.port n).looping = false ∧ t.fbit (Reg.PRT_LANE n) Bit.PRT_LANE_LOOP_DONE = true ∧
      t.fbit (Reg.PRT_LANE n) Bit.PRT_LANE_LOOP_FAIL = fail ∧ Only s t [Reg.PRT_LANE n]))

/-- R244 to R247, R243 (a disconnection during an attempt). -/
def Obligations.HotPlugAndAux : Prop :=
  (∀ (n : HeadId) (s : State),
    Completes (.hpdFall n) s fun t => t.fbit (Reg.PRT_HPD n) Bit.PRT_HPD_LEVEL = false ∧ (t.port n).fallAt = some s.now ∧
      Only s t [Reg.PRT_HPD n]) ∧
  (∀ (n : HeadId) (f : Nat) (s : State), (s.port n).fallAt = some f → s.posting = none → s.islandOn (62 + n / 16) = true →
    (s.now < f + 250000 → Completes (.hpdRise n) s fun t => t.fbit (Reg.PRT_HPD n) Bit.PRT_HPD_LEVEL = true ∧
      t.fget (Reg.PRT_HPD n) Bit.PRT_HPD_GLITCH_COUNT = min (s.fget (Reg.PRT_HPD n) Bit.PRT_HPD_GLITCH_COUNT + 1) 255 ∧
      t.occs = s.occs ∧ Only s t [Reg.PRT_HPD n]) ∧
    (f + 250000 ≤ s.now → s.now < f + 2000000 → Completes (.hpdRise n) s fun t =>
      t.fbit (Reg.PRT_HPD n) Bit.PRT_HPD_LEVEL = true ∧ t.fbit (Reg.PRT_HPD n) Bit.PRT_HPD_IRQ = true ∧
      t.fget (Reg.PRT_HPD n) Bit.PRT_HPD_IRQ_COUNT = min (s.fget (Reg.PRT_HPD n) Bit.PRT_HPD_IRQ_COUNT + 1) 255 ∧
      PortEvent s t n 2 0 ∧ Only s t [Reg.PRT_HPD n]) ∧
    (f + 2000000 ≤ s.now → Completes (.hpdRise n) s fun t => t.fbit (Reg.PRT_HPD n) Bit.PRT_HPD_LEVEL = true ∧
      (t.port n).riseAt = some s.now ∧ t.occs = s.occs ∧ Only s t [Reg.PRT_HPD n])) ∧
  (∀ (n : HeadId) (r : Nat) (s : State), (s.port n).riseAt = some r → s.posting = none →
    s.fbit (Reg.PRT_HPD n) Bit.PRT_HPD_CONNECTED = false → s.islandOn (62 + n / 16) = true →
    (s.now < r + 2000000 → exec (.hpdConnect n) s = .next s) ∧
    (r + 2000000 ≤ s.now → Completes (.hpdConnect n) s fun t => t.fbit (Reg.PRT_HPD n) Bit.PRT_HPD_CONNECTED = true ∧
      t.fbit (Reg.PRT_HPD n) Bit.PRT_HPD_CONN_CHANGE = true ∧ PortEvent s t n 1 1 ∧
      (s.policy n ≠ 2 → hdf s.active n Hd.HEAD_EN = 1 → t.portState n = 2 ∧ (t.port n).wanted = true) ∧
      (hdf s.active n Hd.HEAD_EN ≠ 1 ∨ s.policy n = 2 → t.portState n = 1) ∧ Only s t [Reg.PRT_HPD n, Reg.PRT_LINK_STATUS n])) ∧
  (∀ (n : HeadId) (f : Nat) (s : State), (s.port n).fallAt = some f → s.posting = none →
    s.fbit (Reg.PRT_HPD n) Bit.PRT_HPD_CONNECTED = true → s.islandOn (62 + n / 16) = true →
    (s.now < f + 2000000 → exec (.hpdDisconnect n) s = .next s) ∧
    (f + 2000000 ≤ s.now → Completes (.hpdDisconnect n) s fun t => t.fbit (Reg.PRT_HPD n) Bit.PRT_HPD_CONNECTED = false ∧
      t.fbit (Reg.PRT_HPD n) Bit.PRT_HPD_CONN_CHANGE = true ∧ PortEvent s t n 1 0 ∧
      (s.portState n = 2 → (s.port n).running = true → t.portState n = 2 ∧ (t.port n).dropping = true) ∧
      (s.portState n ≠ 2 ∨ (s.port n).running = false → t.portState n = 0) ∧ Only s t [Reg.PRT_HPD n, Reg.PRT_LINK_STATUS n])) ∧
  (∀ (w : FnId) (n : HeadId) (v : Word) (s : State), s.headReach w n = true → s.Reaches (Reg.PRT_AUX_CMD n) →
    Completes (.auxGo w n v) s fun t => t.rd (Reg.PRT_AUX_CMD n) = v.toNat % 2 ^ 29 ∧
      (s.fbit (Reg.PRT_AUX_STATUS n) Bit.PRT_AUX_STATUS_BUSY = true →
        t.fbit (Reg.PRT_AUX_STATUS n) Bit.PRT_AUX_STATUS_GO_LOST = true ∧ t.ports = s.ports) ∧
      (s.fbit (Reg.PRT_AUX_STATUS n) Bit.PRT_AUX_STATUS_BUSY = false → s.portState n = 0 →
        t.fbit (Reg.PRT_AUX_STATUS n) Bit.PRT_AUX_STATUS_BUSY = false ∧ t.fbit (Reg.PRT_AUX_STATUS n) Bit.PRT_AUX_STATUS_DONE = true ∧
        t.fget (Reg.PRT_AUX_STATUS n) Bit.PRT_AUX_STATUS_RESULT = 4) ∧
      (s.fbit (Reg.PRT_AUX_STATUS n) Bit.PRT_AUX_STATUS_BUSY = false → s.portState n ≠ 0 →
        t.fbit (Reg.PRT_AUX_STATUS n) Bit.PRT_AUX_STATUS_BUSY = true ∧
        ((s.port n).aux = 0 → (s.port n).engineWaits = false → (s.port n).wanted = false → (s.port n).running = false →
          (t.port n).aux = 1) ∧
        ((s.port n).aux ≠ 0 → (t.port n).driverWaits = true ∧ (t.port n).aux = (s.port n).aux)) ∧
      Only s t [Reg.PRT_AUX_CMD n, Reg.PRT_AUX_STATUS n, Reg.PRT_LINK_STATUS n] ∧
      ((s.port n).dropping = false → Only s t [Reg.PRT_AUX_CMD n, Reg.PRT_AUX_STATUS n])) ∧
  (∀ (n : HeadId) (nib : Fin 16) (data : List Byte) (wrote : Fin 17) (lost : Bool) (s : State),
    (s.port n).aux = 1 → (s.port n).deferred = false → (s.port n).driverWaits = false →
    let defer := nib.val % 4 = 2 ∨ nib.val / 4 = 2
    let nack := nib.val % 4 = 1 ∨ nib.val / 4 = 1
    let reads := bitOf (s.fget (Reg.PRT_AUX_CMD n) Bit.PRT_AUX_CMD_CMD) 0 = true ∧
      s.fbit (Reg.PRT_AUX_CMD n) Bit.PRT_AUX_CMD_ADDR_ONLY = false
    let long := (if reads then s.fget (Reg.PRT_AUX_CMD n) Bit.PRT_AUX_CMD_LEN + 1 else 0) < data.length
    let frame (t : State) (regs : List Nat) : Prop := Only s t (Reg.PRT_LINK_STATUS n :: regs) ∧
      ((s.port n).dropping = false → Only s t regs)
    let ended (t : State) (result bytes : Nat) : Prop :=
      t.fbit (Reg.PRT_AUX_STATUS n) Bit.PRT_AUX_STATUS_BUSY = false ∧ t.fbit (Reg.PRT_AUX_STATUS n) Bit.PRT_AUX_STATUS_DONE = true ∧
      t.fget (Reg.PRT_AUX_STATUS n) Bit.PRT_AUX_STATUS_RESULT = result ∧
      t.fget (Reg.PRT_AUX_STATUS n) Bit.PRT_AUX_STATUS_BYTES = bytes ∧ (t.port n).aux ≠ 1
    let reply (t : State) : Prop := t.fget (Reg.PRT_AUX_STATUS n) Bit.PRT_AUX_STATUS_REPLY = nib.val
    (¬ long → ¬ defer → ¬ nack → Completes (.auxReply n nib data wrote lost) s fun t => ended t 0 data.length ∧ reply t ∧
      (∀ j < 16, getBits (t.rd (Reg.PRT_AUX_DATA n (j / 4))) (8 * (j % 4)) 8 =
        if j < data.length then (data.getD j 0).toNat else getBits (s.rd (Reg.PRT_AUX_DATA n (j / 4))) (8 * (j % 4)) 8) ∧
      frame t (Reg.PRT_AUX_STATUS n :: (List.range 4).map (Reg.PRT_AUX_DATA n))) ∧
    (¬ long → ¬ defer → nack → Completes (.auxReply n nib data wrote lost) s fun t =>
      ended t 1 wrote ∧ reply t ∧ frame t [Reg.PRT_AUX_STATUS n]) ∧
    (¬ long → defer → 7 ≤ (s.port n).defers → Completes (.auxReply n nib data wrote lost) s fun t =>
      ended t 2 0 ∧ reply t ∧ frame t [Reg.PRT_AUX_STATUS n]) ∧
    (¬ long → defer → (s.port n).defers < 7 → Completes (.auxReply n nib data wrote lost) s fun t => (t.port n).aux = 1 ∧
      (t.port n).deferred = true ∧ (t.port n).defers = (s.port n).defers + 1 ∧ reply t ∧ Only s t [Reg.PRT_AUX_STATUS n]) ∧
    (∀ c : Instr, (c = .auxReply n nib data wrote lost ∧ long) ∨ (c = .auxTimeout n ∧ (s.port n).auxAt + 500000 ≤ s.now) →
      ((s.port n).tries < 3 → Completes c s fun t => (t.port n).aux = 1 ∧ (t.port n).tries = (s.port n).tries + 1 ∧ Only s t []) ∧
      (3 ≤ (s.port n).tries → Completes c s fun t => ended t 3 0 ∧ frame t [Reg.PRT_AUX_STATUS n])) ∧
    (s.now < (s.port n).auxAt + 500000 → exec (.auxTimeout n) s = .next s)) ∧
  (∀ (n : HeadId) (wrote : Fin 17) (lost : Bool) (data : List Byte) (s : State), (s.port n).aux = 2 → (s.port n).deferred = false →
    (s.port n).dropping = false → (s.port n).driverWaits = false → 4 ≤ s.portState n →
    Completes (.auxReply n 0 data wrote lost) s fun t =>
      t.portState n = (if lost = true ∧ s.policy n ≠ 2 then 2 else s.portState n) ∧ Only s t [Reg.PRT_LINK_STATUS n]) ∧
  (∀ (n : HeadId) (s : State), (s.port n).deferred = true →
    (s.now < (s.port n).auxAt + 400000 → exec (.auxDeferRetry n) s = .next s) ∧
    ((s.port n).auxAt + 400000 ≤ s.now → Completes (.auxDeferRetry n) s fun t =>
      (t.port n).deferred = false ∧ (t.port n).aux = (s.port n).aux ∧ Only s t []))

/-- R256 to R262, R271, R272, R393. -/
def Obligations.ClockDrives : Prop :=
  (∀ (v : Word) (s : State), s.Reaches (Reg.CD_CTL 8) → exec (.cdEnable 8 v) s = .next s) ∧
  (∀ (n : DriveId) (v : Word) (s : State), n ≠ 8 → s.Reaches (Reg.CD_CTL n) → v.getLsbD 7 = false → v.getLsbD 9 = false →
    (v.getLsbD 0 = true → s.fbit (Reg.CD_CTL n) Bit.CD_CTL_EN = false → Completes (.cdEnable n v) s fun t =>
      t.fbit (Reg.CD_CTL n) Bit.CD_CTL_EN = true ∧ t.refSel n = (if v.toNat / 2 % 4 = 3 then 0 else v.toNat / 2 % 4) ∧
      Relocks s t n ∧ Only s t (driveRegs s n)) ∧
    (v.getLsbD 0 = false → s.fbit (Reg.CD_CTL n) Bit.CD_CTL_EN = true → Completes (.cdEnable n v) s fun t =>
      t.fbit (Reg.CD_CTL n) Bit.CD_CTL_EN = false ∧ t.cdState n = 0 ∧ (t.drive n).gated = true ∧ (t.drive n).anchor = none ∧
      Only s t (driveRegs s n))) ∧
  (∀ (n : DriveId) (s : State), PlainCtl s n →
    (BadSettings s n → s.islandOn 0 = true → Completes (.apply n) s fun t =>
      t.fbit (Reg.CD_STATUS n) Bit.CD_STATUS_APPLY_REFUSED = true ∧ t.drives = s.drives ∧ t.cdState n = s.cdState n ∧
      DriveEvent s t (5488 + n) 3 ∧ Only s t [Reg.CD_STATUS n]) ∧
    (¬ BadSettings s n → s.cdState n = 0 → Completes (.apply n) s fun t => t.cdState n = 0 ∧ Loaded s t n ∧ Only s t outRegs) ∧
    (¬ BadSettings s n → s.cdState n ≠ 0 → FineChange s n → Completes (.apply n) s fun t => Loaded s t n ∧
      (t.drive n).gated = (s.drive n).gated ∧ (t.drive n).anchor = (s.drive n).anchor ∧ (t.drive n).rampAt = s.now ∧
      t.fbit (Reg.CD_PROF_CTL n) Bit.CD_PROF_CTL_RUNNING = false ∧
      (s.cdState n ≠ 3 → s.cdState n ≠ 4 → t.cdState n = s.cdState n ∧
        (t.drive n).rampTo = s.fget (Reg.CD_DIV n) Bit.CD_DIV_N * 2 ^ 32 + s.rd (Reg.CD_FRAC n)) ∧
      (s.cdState n = 3 ∨ s.cdState n = 4 → (t.refValue n = none → t.cdState n = 5) ∧
        (∀ v, t.refValue n = some v → (t.drive n).rampTo = v ∧ t.cdState n = s.cdState n)) ∧
      Only s t ([Reg.CD_PROF_CTL n, Reg.CD_STATUS n] ++ outRegs)) ∧
    (¬ BadSettings s n → s.cdState n ≠ 0 → ¬ FineChange s n → Completes (.apply n) s fun t => Relocks s t n ∧
      Loaded s t n ∧ Only s t (driveRegs s n ++ outRegs)) ∧
    (s.fbit (Reg.CD_CTL n) Bit.CD_CTL_EN = true → s.cdState n ≠ 1 → Completes (.relock n) s fun t => Relocks s t n ∧
      (t.drive n).n = (s.drive n).n ∧ (t.drive n).frac = (s.drive n).frac ∧ (t.drive n).d = (s.drive n).d ∧
      Only s t (driveRegs s n)) ∧
    (s.fbit (Reg.CD_CTL n) Bit.CD_CTL_EN = false ∨ s.cdState n = 1 → Completes (.relock n) s fun t =>
      t.drives = s.drives ∧ Only s t []) ∧
    (s.fbit (Reg.CD_STATUS n) Bit.CD_STATUS_REF_VALID = true → s.refSel n ≠ 0 → 2 ≤ s.cdState n → s.cdState n ≤ 5 →
      Completes (.reacquire n) s fun t => Acquires s t n ∧ (t.drive n).gated = (s.drive n).gated ∧ Only s t [Reg.CD_STATUS n]) ∧
    (s.fbit (Reg.CD_STATUS n) Bit.CD_STATUS_REF_VALID = false ∨ s.refSel n = 0 ∨ s.cdState n < 2 ∨ 5 < s.cdState n →
      Completes (.reacquire n) s fun t => t.drives = s.drives ∧ Only s t [])) ∧
  (∀ (n : DriveId) (b : Bool) (s : State), s.actsFor n = none → exec (.cdLockDeclare ⟨n, b⟩) s = .next s ∧
    exec (.cdLockLoss ⟨n, b⟩) s = .next s ∧ exec (.cdRelockTimeout n) s = .next s) ∧
  (∀ (n : DriveId) (m : Nat) (s : State), s.actsFor n = some m → m < 9 →
    let pin := s.fbit (Reg.CD_STATUS m) Bit.CD_STATUS_PIN_LOCK
    let due := s.cdState m = 1 ∧ pin = true ∧ max (s.drive m).pinAt (s.drive m).relockAt + 1000000 ≤ s.now
    let valid := s.refSel m ≠ 0 ∧ s.fbit (Reg.CD_STATUS m) Bit.CD_STATUS_REF_VALID = true
    let inner := 2 ≤ s.cdState m ∧ s.cdState m ≤ 5
    let late := s.cdState m = 1 ∧ (s.drive m).relockAt + 20000000 ≤ s.now
    let auto := s.fbit (Reg.CD_CTL m) Bit.CD_CTL_SPARE_AUTO = true ∧ s.spareDriveFree = true ∧ m ≠ 8
    (pin = true → exec (.cdLockDeclare ⟨n, true⟩) s = .next s) ∧
    (pin = false → Completes (.cdLockDeclare ⟨n, true⟩) s fun t => t.fbit (Reg.CD_STATUS m) Bit.CD_STATUS_PIN_LOCK = true ∧
      t.drive m = { s.drive m with pinAt := s.now } ∧ t.cdState m = s.cdState m ∧ Only s t [Reg.CD_STATUS m]) ∧
    (¬ due → exec (.cdLockDeclare ⟨n, false⟩) s = .next s) ∧
    (due → Completes (.cdLockDeclare ⟨n, false⟩) s fun t => (t.drive m).gated = false ∧
      (t.drive m).anchor = some (s.dividerNow m) ∧ (¬ valid → t.cdState m = 2) ∧ (valid → Acquires s t m) ∧
      Only s t [Reg.CD_STATUS m]) ∧
    (∀ slip, inner → s.islandOn 0 = true → Completes (.cdLockLoss ⟨n, slip⟩) s fun t =>
      t.fbit (Reg.CD_STATUS m) Bit.CD_STATUS_LOCK_LOST = true ∧ DriveEvent s t (5488 + m) 1 ∧ Relocks s t m ∧
      t.fbit (Reg.CD_STATUS m) Bit.CD_STATUS_PIN_LOCK = (slip && pin) ∧ Only s t (driveRegs s m)) ∧
    (¬ inner → exec (.cdLockLoss ⟨n, true⟩) s = .next s ∧ Completes (.cdLockLoss ⟨n, false⟩) s fun t =>
      t.fbit (Reg.CD_STATUS m) Bit.CD_STATUS_PIN_LOCK = false ∧ t.cdState m = s.cdState m ∧ t.drives = s.drives ∧
      Only s t [Reg.CD_STATUS m]) ∧
    (¬ late → exec (.cdRelockTimeout n) s = .next s) ∧
    (late → (s.drive m).tries = 0 → Completes (.cdRelockTimeout n) s fun t =>
      t.drive m = { s.drive m with tries := 1, relockAt := s.now } ∧ t.cdState m = 1 ∧ Only s t []) ∧
    (late → (s.drive m).tries ≠ 0 → s.islandOn 0 = true → Completes (.cdRelockTimeout n) s fun t =>
      t.fbit (Reg.CD_STATUS m) Bit.CD_STATUS_LOCK_FAIL = true ∧ t.cdState m = 6 ∧ DriveEvent s t (5488 + m) 2 ∧
      (auto → SpareStarts s t m ∧ Only s t (Reg.CD_STATUS m :: spareRegs s)) ∧
      (¬ auto → t.spareFor = s.spareFor ∧ t.drives = s.drives ∧ Only s t [Reg.CD_STATUS m]))) ∧
  (∀ (n : DriveId) (last : Fin 16) (loop : Bool) (s : State), s.Reaches (Reg.CD_PROF_CTL n) →
    let far := ∃ k ≤ last.val, 32000 < (signed 16 (s.fget (Reg.CD_PROF_SEG n k) Bit.CD_PROF_SEG_TARGET)).natAbs
    Completes (.cdProfileGo n last loop) s fun t =>
      t.fget (Reg.CD_PROF_CTL n) Bit.CD_PROF_CTL_LAST = last.val ∧ t.fbit (Reg.CD_PROF_CTL n) Bit.CD_PROF_CTL_LOOP = loop ∧
      (s.refSel n ≠ 0 ∨ s.cdState n = 1 ∨ far → t.fbit (Reg.CD_STATUS n) Bit.CD_STATUS_PROFILE_REFUSED = true ∧ t.drives = s.drives) ∧
      (s.refSel n = 0 → s.cdState n ≠ 1 → ¬ far → t.fbit (Reg.CD_PROF_CTL n) Bit.CD_PROF_CTL_RUNNING = true ∧
        t.fget (Reg.CD_PROF_CTL n) Bit.CD_PROF_CTL_SEG = 0 ∧ t.rd (Reg.CD_STATUS n) = s.rd (Reg.CD_STATUS n) ∧
        ∀ a, (s.drive n).anchor = some a → (t.drive n).rampTo =
          ((a : Int) + a * signed 16 (s.fget (Reg.CD_PROF_SEG n 0) Bit.CD_PROF_SEG_TARGET) / 16000000).toNat) ∧
      Only s t [Reg.CD_PROF_CTL n, Reg.CD_STATUS n]) ∧
  (∀ (n : DriveId) (s : State), s.Reaches (Reg.CD_PROF_CTL n) → Completes (.cdProfileStop n) s fun t =>
    t.fbit (Reg.CD_PROF_CTL n) Bit.CD_PROF_CTL_RUNNING = false ∧ (t.drive n).rampTo = s.dividerNow n ∧
    (t.drive n).rampFrom = s.dividerNow n ∧ Only s t [Reg.CD_PROF_CTL n]) ∧
  (∀ (n : DriveId) (s : State),
    let k := s.fget (Reg.CD_PROF_CTL n) Bit.CD_PROF_CTL_SEG
    let last := s.fget (Reg.CD_PROF_CTL n) Bit.CD_PROF_CTL_LAST
    let loop := s.fbit (Reg.CD_PROF_CTL n) Bit.CD_PROF_CTL_LOOP
    let reached := s.fbit (Reg.CD_PROF_CTL n) Bit.CD_PROF_CTL_RUNNING = true ∧ s.dividerNow n = (s.drive n).rampTo
    (¬ reached → exec (.cdSegmentEnd n) s = .next s) ∧
    (reached → Completes (.cdSegmentEnd n) s fun t =>
      (k < last → t.fget (Reg.CD_PROF_CTL n) Bit.CD_PROF_CTL_SEG = k + 1) ∧
      (last ≤ k → loop = true → t.fget (Reg.CD_PROF_CTL n) Bit.CD_PROF_CTL_SEG = 0) ∧
      (∀ a, (s.drive n).anchor = some a → k < last ∨ loop = true → (t.drive n).rampTo = ((a : Int) + a * signed 16
        (s.fget (Reg.CD_PROF_SEG n (if k < last then k + 1 else 0)) Bit.CD_PROF_SEG_TARGET) / 16000000).toNat) ∧
      (t.fbit (Reg.CD_PROF_CTL n) Bit.CD_PROF_CTL_RUNNING = (decide (k < last) || loop)) ∧ Only s t [Reg.CD_PROF_CTL n])) ∧
  (∀ (v : Word) (s : State), s.Reaches Reg.CD_SPARE_REQ →
    let n := v.toNat % 16
    let taken := s.fget Reg.CD_SPARE_STATUS Bit.CD_SPARE_STATUS_DRIVE ≠ 15
    let busy := s.fbit Reg.CD_SPARE_STATUS Bit.CD_SPARE_STATUS_BUSY = true
    Completes (.cdSpareReq v) s fun t =>
      (7 < n ∨ taken → t.fbit Reg.CD_SPARE_STATUS Bit.CD_SPARE_STATUS_REFUSED = true ∧
        t.fget Reg.CD_SPARE_STATUS Bit.CD_SPARE_STATUS_REFUSE_CODE = 9 ∧ t.drives = s.drives ∧ Only s t [Reg.CD_SPARE_STATUS]) ∧
      (n ≤ 7 → ¬ taken → busy → t.fbit Reg.CD_SPARE_STATUS Bit.CD_SPARE_STATUS_REFUSED = true ∧
        t.fget Reg.CD_SPARE_STATUS Bit.CD_SPARE_STATUS_REFUSE_CODE = 8 ∧ t.drives = s.drives ∧ Only s t [Reg.CD_SPARE_STATUS]) ∧
      (n ≤ 7 → ¬ taken → ¬ busy → SpareStarts s t n ∧ Only s t (spareRegs s))) ∧
  (∀ s : State, s.spareFor = none ∨ s.cdState 8 < 2 ∨ 5 < s.cdState 8 → exec .cdSpareSwitch s = .next s) ∧
  (∀ (n : Nat) (s : State), s.spareFor = some n → n < 8 → 2 ≤ s.cdState 8 → s.cdState 8 ≤ 5 → s.islandOn 0 = true →
    Completes .cdSpareSwitch s fun t => t.fget Reg.CD_SPARE_STATUS Bit.CD_SPARE_STATUS_DRIVE = n ∧
      t.fbit Reg.CD_SPARE_STATUS Bit.CD_SPARE_STATUS_BUSY = false ∧ t.fbit Reg.CD_SPARE_STATUS Bit.CD_SPARE_STATUS_DONE = true ∧
      t.fbit (Reg.CD_STATUS n) Bit.CD_STATUS_SUBST = true ∧ t.spareFor = none ∧ t.flashLog = s.flashLog ++ [(4, n)] ∧
      t.fbit (Reg.CD_STATUS n) Bit.CD_STATUS_PIN_LOCK = s.fbit (Reg.CD_STATUS 8) Bit.CD_STATUS_PIN_LOCK ∧
      (s.cdState n ≠ 6 → s.cdState n ≠ 1 → t.drive n = { s.drive n with pinAt := (s.drive 8).pinAt } ∧
        t.cdState n = s.cdState n ∧ DriveEvent s t 5538 2) ∧
      (s.cdState n = 6 ∨ s.cdState n = 1 → (t.drive n).gated = false ∧ (t.drive n).anchor = some (s.dividerNow n)) ∧
      Only s t [Reg.CD_SPARE_STATUS, Reg.CD_STATUS n]) ∧
  (∀ (j : Fin 4) (v : Word) (s : State), s.Reaches (Reg.CD_OUT_CTL j) → Completes (.cdOutCtlWrite j v) s fun t =>
    t.fget (Reg.CD_OUT_CTL j) Bit.CD_OUT_CTL_FMT = (if 4 < v.toNat % 8 then 0 else v.toNat % 8) ∧
    t.fbit (Reg.CD_OUT_CTL j) Bit.CD_OUT_CTL_PULSE = v.getLsbD 3 ∧
    t.fget (Reg.CD_OUT_CTL j) Bit.CD_OUT_CTL_SRC = v.toNat / 16 % 8 ∧
    t.fget (Reg.CD_OUT_CTL j) Bit.CD_OUT_CTL_PULSE_HEAD = v.toNat / 256 % 128 ∧
    t.fget (Reg.CD_OUT_CTL j) Bit.CD_OUT_CTL_PULSE_W = max 1 (v.toNat / 2 ^ 16 % 256) ∧
    (t.outTooFast j = true → t.fbit (Reg.CD_OUT_CTL j) Bit.CD_OUT_CTL_CFG_ERR = true ∧ t.outRuns j = false) ∧
    Only s t [Reg.CD_OUT_CTL j]) ∧
  (∀ (n : DriveId) (s : State), s.safe = false → s.islandOn (islandOf (Reg.CD_NOW_FRAC n)) = true →
    Completes (.cdNowSnapshot n) s fun t => t.rd (Reg.CD_NOW_FRAC n) = s.dividerNow n % 2 ^ 32 ∧
      t.rd (Reg.CD_NOW_N n) = s.dividerNow n / 2 ^ 32 % 512 ∧
      t.hostTx = s.hostTx ++ [.completion 0 (toBytes 4 (s.dividerNow n % 2 ^ 32)) false] ∧
      Only s t [Reg.CD_NOW_FRAC n, Reg.CD_NOW_N n])

/-- R264 to R268, R274 to R276, R393. -/
def Obligations.ReferencesAndTheSiderealClock : Prop :=
  (∀ (r : Fin 2) (period held : Nat) (s : State),
    let ns := s.validFor r period held
    (∀ n ∈ ns, n < 9 ∧ s.refSel n = r + 1 ∧ s.fbit (Reg.CD_STATUS n) Bit.CD_STATUS_REF_VALID = false ∧
      1000000 * s.fget (Reg.CD_QUAL n) Bit.CD_QUAL_QUAL_MS ≤ held ∧ ∃ e, s.expected n = some e ∧
        (max e period - min e period) * 1000000 ≤ s.fget (Reg.CD_QUAL n) Bit.CD_QUAL_TOL * e) ∧
    (ns = [] → exec (.refValid r ⟨period, held⟩) s = .next s) ∧
    (ns ≠ [] → s.islandOn 0 = true → Completes (.refValid r ⟨period, held⟩) s fun t =>
      t.occs.take (s.occs.length + 1) = s.occs ++ [⟨5497 + r, 2, 0, s.replica 0, 0⟩] ∧
      (∀ x ∈ t.occs.drop (s.occs.length + 1), x.source = 5497 + r.val ∧ x.cause = 1) ∧
      (∀ n < 9, n ∈ ns → (t.drive n).refPeriod = period ∧ (t.drive n).gated = (s.drive n).gated ∧
        (s.cdState n = 2 ∨ (s.cdState n = 5 ∧ s.fget (Reg.CD_CTL n) Bit.CD_CTL_RETURN ≠ 2) → Acquires s t n) ∧
        (s.cdState n ≠ 2 → s.cdState n ≠ 5 ∨ s.fget (Reg.CD_CTL n) Bit.CD_CTL_RETURN = 2 →
          t.fbit (Reg.CD_STATUS n) Bit.CD_STATUS_REF_VALID = true ∧ t.cdState n = s.cdState n)) ∧
      (∀ n < 9, n ∉ ns → t.drive n = s.drive n) ∧ Only s t (ns.map Reg.CD_STATUS))) ∧
  (∀ (r : Fin 2) (silent period count : Nat) (s : State),
    let ns := s.lostFor r silent period count
    (∀ n ∈ ns, n < 9 ∧ s.refSel n = r + 1 ∧ ∃ e, s.expected n = some e ∧ (2 * e ≤ silent ∨ (16 ≤ count ∧
        s.fget (Reg.CD_QUAL n) Bit.CD_QUAL_TOL * e < (max e period - min e period) * 1000000))) ∧
    (ns = [] → exec (.refLoss ⟨r, silent, period, count⟩) s = .next s) ∧
    (ns ≠ [] → s.islandOn 0 = true → Completes (.refLoss ⟨r, silent, period, count⟩) s fun t => DriveEvent s t (5497 + r) 1 ∧
      (∀ n < 9, n ∈ ns → t.fbit (Reg.CD_STATUS n) Bit.CD_STATUS_REF_VALID = false ∧
        t.fbit (Reg.CD_STATUS n) Bit.CD_STATUS_REF_LOST = true ∧ (t.drive n).steps = 0 ∧ (t.drive n).gated = (s.drive n).gated ∧
        (2 ≤ s.cdState n → s.cdState n ≤ 4 → t.cdState n = 5 ∧ t.fbit (Reg.CD_STATUS n) Bit.CD_STATUS_PHASE_LOCKED = false) ∧
        (s.cdState n = 3 ∨ s.cdState n = 4 → (t.drive n).rampTo = (s.drive n).refTo) ∧
        (s.cdState n < 2 ∨ 4 < s.cdState n → t.cdState n = s.cdState n)) ∧
      (∀ n < 9, n ∉ ns → t.drive n = s.drive n) ∧ Only s t (ns.map Reg.CD_STATUS))) ∧
  (∀ (r : Fin 2) (n h : Nat) (rest : List Nat) (s : State), (s.followers r).filter s.refPulse = [n] →
    s.aligned n = (h :: rest, false) → (s.drive n).goodPulses < 8 →
    let p := max 1 (s.framePeriod s.active h (vtotalOf s.active h) / 65536)
    let aim : Int := (s.now : Int) + signed 32 (s.rd (Reg.CD_PHASE_OFS n))
    let raw := (((s.head h).boundary : Int) - aim) % p
    let e : Int := if 2 * raw < p then raw else raw - p
    let close := e.natAbs * 25000000 * (s.drive n).divider < 1000000000 * (s.drive n).d * 2 ^ 32
    let steps := if (s.drive n).wantStep then planSteps ((aim - (s.boundaryOf h ((s.head h).frame + 1) : Nat)) % p).toNat p
      (s.lineTime s.active h) (vtotalOf s.active h) (hdf s.active h Hd.VTOTAL_MIN) (hdf s.active h Hd.VTOTAL_MAX)
      else (s.drive n).steps
    Completes (.refPulse r) s fun t => t.rd (Reg.CD_PHASE_ERR n) = (e % 2 ^ 32).toNat ∧ (t.drive n).pulseAt = s.now ∧
      (s.cdState n ≠ 3 → t.drive n = { s.drive n with pulseAt := s.now } ∧ t.rd (Reg.CD_STATUS n) = s.rd (Reg.CD_STATUS n)) ∧
      (s.cdState n = 3 → (t.drive n).wantStep = false ∧ (t.drive n).steps = steps ∧
        (close → (t.drive n).goodPulses = (s.drive n).goodPulses + 1) ∧ (¬ close → (t.drive n).goodPulses = 0) ∧
        (close → (s.drive n).goodPulses = 7 → t.fbit (Reg.CD_STATUS n) Bit.CD_STATUS_PHASE_LOCKED = true ∧ t.cdState n = 4 ∧
          (t.drive n).clearAccum = h :: rest ∧ (t.drive n).rampTo = (s.drive n).refTo) ∧
        (¬ (close ∧ (s.drive n).goodPulses = 7) → t.cdState n = 3 ∧ (steps ≠ 0 → (t.drive n).rampTo = (s.drive n).rampTo) ∧
          (steps = 0 → close → (t.drive n).rampTo = (s.drive n).refTo) ∧
          (steps = 0 → ¬ close → (if 0 < e then (s.drive n).refTo ≤ (t.drive n).rampTo else (t.drive n).rampTo ≤ (s.drive n).refTo) ∧
            max (t.drive n).rampTo (s.drive n).refTo - min (t.drive n).rampTo (s.drive n).refTo ≤
              (s.drive n).refTo * s.fget (Reg.CD_SLOPE n) Bit.CD_SLOPE_OFS_LIMIT / 1000000))) ∧
      Only s t [Reg.CD_PHASE_ERR n, Reg.CD_STATUS n]) ∧
  (∀ (v : Word) (s : State), s.Reaches Reg.SID_SET_HI →
    let time := s.rd Reg.SID_SET_LO + v.toNat * 2 ^ 32
    let may := (∀ h < 128, s.headState h = 0) ∧ s.now < time
    Completes (.sidSet v) s fun t => t.rd Reg.SID_SET_HI = v.toNat ∧ (may → t.sid = BitVec.ofNat 64 time) ∧
      (¬ may → t.sid = s.sid ∧ t.fbit Reg.SID_CTL Bit.SID_CTL_STEP_REFUSED = true) ∧
      Only s t [Reg.SID_SET_HI, Reg.SID_CTL]) ∧
  (∀ (ofs : Option DWord) (s : State),
    let mode := s.fget Reg.SID_CTL Bit.SID_CTL_PTM_MODE
    let due := mode ≠ 0 ∧ s.ptmAt + 1000000 * s.fget Reg.SID_CTL Bit.SID_CTL_PTM_MS ≤ s.now
    (¬ due → exec (.ptmUpdate ofs) s = .next s) ∧
    (due → ofs = none ∨ s.linkUp = false → Completes (.ptmUpdate ofs) s fun t =>
      t.fbit Reg.SID_CTL Bit.SID_CTL_PTM_VALID = false ∧ t.sid = s.sid ∧ t.ptmOffset = s.ptmOffset ∧ t.ptmAt = s.now ∧
      Only s t [Reg.SID_CTL]) ∧
    (∀ o, ofs = some o → due → s.linkUp = true → Completes (.ptmUpdate ofs) s fun t =>
      let step := mode = 2 ∧ s.fbit Reg.SID_CTL Bit.SID_CTL_PTM_STEP = true ∧ 1000000 < o.toInt.natAbs ∧
        s.mayStep ((s.now : Int) + o.toInt).toNat = true
      t.fbit Reg.SID_CTL Bit.SID_CTL_PTM_VALID = true ∧ t.ptmOffset = o ∧ s.sid ≤ t.sid ∧
      (mode ≠ 2 → t.rd Reg.SID_RATE = s.rd Reg.SID_RATE) ∧
      (mode = 2 → -20000 ≤ signed 32 (t.rd Reg.SID_RATE) ∧ signed 32 (t.rd Reg.SID_RATE) ≤ 20000 ∧
        (0 < o.toInt → 0 < signed 32 (t.rd Reg.SID_RATE)) ∧ (o.toInt < 0 → signed 32 (t.rd Reg.SID_RATE) < 0)) ∧
      (step → t.now = ((s.now : Int) + o.toInt).toNat) ∧ (¬ step → t.sid = s.sid) ∧
      Only s t [Reg.SID_CTL, Reg.SID_RATE])) ∧
  (∀ (k : Fin 8) (v : Word) (s : State), s.Reaches (Reg.SID_ALARM_CTL k) → s.islandOn 0 = true →
    s.fbit (Reg.SID_ALARM_CTL k) Bit.SID_ALARM_CTL_EN = false → v.getLsbD 0 = true →
    Completes (.sidAlarmEnable k v) s fun t => t.fbit (Reg.SID_ALARM_CTL k) Bit.SID_ALARM_CTL_EN = true ∧
      t.fbit (Reg.SID_ALARM_CTL k) Bit.SID_ALARM_CTL_PERIODIC = v.getLsbD 1 ∧
      (s.alarmAt k ≤ s.now → t.fbit (Reg.SID_ALARM_CTL k) Bit.SID_ALARM_CTL_FIRED = true ∧
        t.occs = s.occs ++ [⟨5499 + k, 0, 0, s.now, 0⟩]) ∧
      (s.now < s.alarmAt k → t.occs = s.occs ∧ t.alarmAt k = s.alarmAt k) ∧
      Only s t [Reg.SID_ALARM_CTL k, Reg.SID_ALARM_LO k, Reg.SID_ALARM_HI k]) ∧
  (∀ (k : Fin 8) (s : State),
    let due := s.fbit (Reg.SID_ALARM_CTL k) Bit.SID_ALARM_CTL_EN = true ∧ s.alarmAt k ≤ s.now ∧ k.val ∉ s.alarmsSpent
    let per := s.rd (Reg.SID_ALARM_PER k)
    let periodic := s.fbit (Reg.SID_ALARM_CTL k) Bit.SID_ALARM_CTL_PERIODIC = true ∧ per ≠ 0
    (¬ due → exec (.sidAlarmFire k) s = .next s) ∧
    (due → s.islandOn 0 = true → Completes (.sidAlarmFire k) s fun t =>
      t.fbit (Reg.SID_ALARM_CTL k) Bit.SID_ALARM_CTL_FIRED = true ∧ t.occs = s.occs ++ [⟨5499 + k, 0, 0, s.now, 0⟩] ∧
      (periodic → t.alarmAt k = (s.alarmAt k + per) % 2 ^ 64) ∧ (¬ periodic → t.alarmAt k = s.alarmAt k ∧ k.val ∈ t.alarmsSpent) ∧
      Only s t [Reg.SID_ALARM_CTL k, Reg.SID_ALARM_LO k, Reg.SID_ALARM_HI k])) ∧
  (∀ s : State, s.safe = false → s.islandOn (islandOf Reg.SID_NOW_LO) = true → Completes .sidNowSnapshot s fun t =>
    t.rd Reg.SID_NOW_LO = s.now % 2 ^ 32 ∧ t.rd Reg.SID_NOW_HI = s.now / 2 ^ 32 ∧
    t.hostTx = s.hostTx ++ [.completion 0 (toBytes 4 (s.now % 2 ^ 32)) false] ∧ Only s t [Reg.SID_NOW_LO, Reg.SID_NOW_HI]) ∧
  (∀ s : State, s.safe = false → s.islandOn (islandOf Reg.SID_PTM_OFS_LO) = true → Completes .sidPtmOfsSnapshot s fun t =>
    t.rd Reg.SID_PTM_OFS_LO = s.ptmOffset.toNat % 2 ^ 32 ∧ t.rd Reg.SID_PTM_OFS_HI = s.ptmOffset.toNat / 2 ^ 32 ∧
    t.hostTx = s.hostTx ++ [.completion 0 (toBytes 4 (s.ptmOffset.toNat % 2 ^ 32)) false] ∧
    Only s t [Reg.SID_PTM_OFS_LO, Reg.SID_PTM_OFS_HI])

/-- R279, R280, R282 to R292. -/
def Obligations.JournalRecordsAndSeals : Prop :=
  (∀ (h f time regions flags : Nat) (crcs : List Nat), crcs.length = 16 →
    let b := recordBody h f time regions flags crcs
    b.length = 96 ∧ b.take 4 = [1, 1] ++ toBytes 2 regions ∧ (b.drop 4).take 2 = toBytes 2 h ∧
    (b.drop 8).take 8 = toBytes 8 f ∧ (b.drop 16).take 8 = toBytes 8 time ∧ (b.drop 24).take 8 = toBytes 8 flags ∧
    ∀ r < 16, (b.drop (32 + 4 * r)).take 4 = toBytes 4 (crcs.getD r 0)) ∧
  (∀ (h : HeadId) (spoiled : BitVec 16) (s : State),
    let m := s.headView h
    let run := s.frameRun h
    let on (r : Nat) : Prop := sgf m h r Sg.SIG_EN = 1
    let crc (r : Nat) := regionCrc m h r (s.sentCodes h)
    let bad (r : Nat) : Bool := decide (on r) && decide (sgf m h r Sg.CMP_EN = 1) && decide (crc r ≠ expectedCrc m h r run.number)
    let mask := regionMask bad
    let body := recordBody h run.number run.opened (regionMask fun r => decide (on r))
      (run.flags + 2 ^ 16 * spoiled.toNat + 2 ^ 32 * mask)
      ((List.range 16).map fun r => if spoiled.getLsbD r then 0 else if on r then crc r else 0)
    let due := s.frameWhole h = true ∧ (run.journal = true → s.recordBefore h = false)
    let kept := run.journal = true ∧ s.jrnOn = true
    let runs := s.jrn.sealing = 0 ∧ s.jrn.resumeAt ≤ run.opened ∧ s.jrn.opened = true
    (¬ due → exec (.frameRecordComplete h spoiled) s = .next s) ∧
    (due → run.warn = 0 → s.islandOn (islandHead h) = true → Completes (.frameRecordComplete h spoiled) s fun t =>
      (t.frameRun h).recorded = true ∧
      (∀ r < 16, on r → t.rd (sgOff h r Sg.LAST_CRC) = crc r ∧ t.rd (sgOff h r Sg.LAST_FRAME) = run.number % 2 ^ 32) ∧
      (∀ r < 16, t.rd (sgOff h r Sg.MISMATCH_COUNT) = if bad r then min (s.rd (sgOff h r Sg.MISMATCH_COUNT) % 65536 + 1) 65535 +
          s.rd (sgOff h r Sg.MISMATCH_COUNT) / 65536 * 65536 else s.rd (sgOff h r Sg.MISMATCH_COUNT)) ∧
      t.occs = s.occs ++ (if mask = 0 then [] else [⟨srcHead h, 4, mask, s.replica (islandHead h), islandHead h⟩]) ∧
      (¬ kept → t.jrn = s.jrn) ∧
      (kept → s.jrn.sealing ≠ 0 ∨ run.opened < s.jrn.resumeAt → t.jrn.buffer = s.jrn.buffer ∧ t.jrn.seq = s.jrn.seq ∧
        t.jrn.dropped = s.jrn.dropped + 1 ∧ t.fbit Reg.JRN_STATUS Bit.JRN_STATUS_GAP = true) ∧
      (kept → runs → s.jrn.gap = 0 → s.jrn.slots < journalRoom → t.jrn.buffer = s.jrn.buffer ++ [body ++ s.jrn.lastHash] ∧
        t.jrn.lastHash = sha256 (body ++ s.jrn.lastHash) ∧ t.jrn.seq = s.jrn.seq + 1 ∧ t.jrn.dropped = s.jrn.dropped) ∧
      (kept → runs → journalRoom ≤ s.jrn.slots → t.jrn.buffer = s.jrn.buffer ∧ t.jrn.seq = s.jrn.seq ∧
        t.jrn.dropped = s.jrn.dropped + 1 ∧ t.jrn.gap = s.jrn.gap + 1 ∧ t.jrn.gapLast = run.doneAt ∧
        t.fbit Reg.JRN_STATUS Bit.JRN_STATUS_GAP = true) ∧ SameViews s t ∧ SameMemory s t ∧
      ((∀ c < 64, s.chanSrc c ≠ 4) → SameRegs s t ([Reg.JRN_STATUS, Reg.JRN_DROPPED] ++
        (List.range 16).flatMap fun r => [sgOff h r Sg.LAST_CRC, sgOff h r Sg.LAST_FRAME, sgOff h r Sg.MISMATCH_COUNT])))) ∧
  (∀ (v : Word) (s : State), s.Reaches Reg.JRN_CTL →
    (s.jrnOn = false → v.getLsbD 13 = false → s.jrn.warned = false → Completes (.jrnEnable v) s fun t => t.jrnOn = true ∧
      t.rd Reg.JRN_EPOCH = (s.epochNo + 1) % 2 ^ 32 ∧ t.jrn.seq = 0 ∧ t.jrn.dropped = 0 ∧ t.jrn.opened = false ∧
      (∃ body : List Byte, t.jrn.signing = some body ∧ body.length = 160 ∧ body.take 4 = [2, 1, 3, 0] ∧ (body.drop 8).take 8 = toBytes 8 0) ∧
      t.fget Reg.JRN_CTL Bit.JRN_CTL_CHAN = v.toNat / 2 % 64 ∧
      t.fget Reg.JRN_CTL Bit.JRN_CTL_RING_SIZE = min 12 (v.toNat / 128 % 16) ∧
      Only s t [Reg.JRN_CTL, Reg.JRN_STATUS, Reg.JRN_EPOCH, Reg.JRN_DROPPED]) ∧
    (s.jrnOn = true → v.getLsbD 13 = false → Completes (.jrnEnable v) s fun t => t.jrnOn = true ∧ t.jrn.seq = s.jrn.seq ∧
      t.fget Reg.JRN_CTL Bit.JRN_CTL_CHAN = s.fget Reg.JRN_CTL Bit.JRN_CTL_CHAN ∧
      t.fget Reg.JRN_CTL Bit.JRN_CTL_RING_SIZE = s.fget Reg.JRN_CTL Bit.JRN_CTL_RING_SIZE ∧
      Only s t [Reg.JRN_CTL, Reg.JRN_STATUS, Reg.JRN_DROPPED])) ∧
  (∀ s : State, s.Reaches Reg.JRN_CTL → s.jrnOn = true → s.jrn.signing = none → s.jrn.due = [] → s.jrn.sealing ≠ 1 →
    Completes .cpNow s fun t => (∃ body, t.jrn.signing = some body ∧ body.take 4 = [2, 1, 2, 0] ∧
        (body.drop 8).take 8 = toBytes 8 s.jrn.seq) ∧
      t.jrn.seq = s.jrn.seq ∧ t.jrn.buffer = s.jrn.buffer ∧ Only s t [Reg.JRN_CTL, Reg.JRN_STATUS, Reg.JRN_DROPPED]) ∧
  (∀ s : State, s.stationDown = true ∨ s.jrn.signing = none ∨ journalRoom < s.jrn.slots + 2 → exec .checkpointSigned s = .next s) ∧
  (∀ (n : Nat) (body : List Byte), (signatureOf n body).length = 96) ∧
  (∀ (body : List Byte) (s : State), s.stationDown = false → s.jrn.signing = some body → body.length = 160 →
    s.jrn.slots + 2 ≤ journalRoom → s.jrn.unchained = [] →
    let cp := body ++ signatureOf s.fresh body
    Completes .checkpointSigned s fun t =>
      t.jrn.buffer = s.jrn.buffer ++ [cp] ∧ t.jrn.prevCp = sha256 cp ∧
      (body.getD 2 0 = 3 → t.jrn.opened = true ∧ t.jrn.lastHash = sha256 cp) ∧
      (body.getD 2 0 ≠ 3 → t.jrn.lastHash = s.jrn.lastHash) ∧ t.jrn.seq = s.jrn.seq ∧
      Only s t [Reg.JRN_STATUS, Reg.JRN_DROPPED]) ∧
  (∀ (v : Word) (s : State), s.Reaches Reg.JRN_RD →
    let c := s.fget Reg.JRN_CTL Bit.JRN_CTL_CHAN
    Completes (.jrnRdWrite v) s fun t => t.rd Reg.JRN_RD = v.toNat ∧ t.jrn.halted = false ∧ t.jrn.buffer = s.jrn.buffer ∧
      (s.chanSrc c = 3 → s.chanState c = 4 → t.chanState c = 2) ∧
      Only s t [Reg.JRN_RD, Reg.JRN_STATUS, Reg.JRN_DROPPED, Reg.DMA_STATUS c]) ∧
  (∀ (c phys : Nat) (e : List Byte) (rest : List (List Byte)) (s : State), RingOpen s c → s.jrn.buffer = e :: rest →
    s.translate (s.chanFn c) (ringAddrNow s) .write = .localMem phys →
    (e.length = 128 → s.ringCount < s.ringUsed + 1 → Completes (.journalEntry true) s fun t =>
      t.fbit Reg.JRN_STATUS Bit.JRN_STATUS_RING_FULL = true ∧ t.jrn.buffer = s.jrn.buffer ∧
      Only s t [Reg.JRN_STATUS, Reg.JRN_DROPPED]) ∧
    (e.length = 128 → s.ringUsed + 1 ≤ s.ringCount → s.stagingOwned = true → s.fbit Reg.JRN_CTL Bit.JRN_CTL_WB_EN = false →
      s.islandOn 5 = true → Completes (.journalEntry true) s fun t => Wrote s t phys e ∧ t.jrn.buffer = rest ∧
        t.rd Reg.JRN_WR = (s.rd Reg.JRN_WR + 1) % 2 ^ 32 ∧ t.occs = s.occs ++ [⟨5536, 0, 0, s.replica 5, 5⟩] ∧
        SameRegs s t [Reg.JRN_WR, Reg.JRN_STATUS, Reg.JRN_DROPPED] ∧ SameViews s t) ∧
    (e.length = 256 → s.rd Reg.JRN_WR % s.ringCount + 1 = s.ringCount → s.ringUsed + 1 ≤ s.ringCount → s.stagingOwned = true →
      s.fbit Reg.JRN_CTL Bit.JRN_CTL_WB_EN = false → Completes (.journalEntry true) s fun t =>
        Wrote s t phys (4 :: List.replicate 127 0) ∧ t.jrn.buffer = s.jrn.buffer ∧ t.occs = s.occs ∧
        t.rd Reg.JRN_WR = (s.rd Reg.JRN_WR + 1) % 2 ^ 32 ∧
        SameRegs s t [Reg.JRN_WR, Reg.JRN_STATUS, Reg.JRN_DROPPED] ∧ SameViews s t) ∧
    (e.length = 256 → s.rd Reg.JRN_WR % s.ringCount + 1 < s.ringCount → s.ringUsed + 2 ≤ s.ringCount → s.stagingOwned = true →
      s.translate (s.chanFn c) (ringAddrNow s + 128) .write = .localMem (phys + 128) →
      s.fbit Reg.JRN_CTL Bit.JRN_CTL_WB_EN = false → s.islandOn 5 = true → Completes (.journalEntry true) s fun t =>
        Wrote s t phys e ∧ t.jrn.buffer = rest ∧ t.rd Reg.JRN_WR = (s.rd Reg.JRN_WR + 2) % 2 ^ 32 ∧
        t.occs = s.occs ++ [⟨5536, 0, 0, s.replica 5, 5⟩] ∧
        SameRegs s t [Reg.JRN_WR, Reg.JRN_STATUS, Reg.JRN_DROPPED] ∧ SameViews s t) ∧
    (e.length = 128 → s.ringUsed + 1 ≤ s.ringCount → s.islandOn 3 = true → Completes (.journalEntry false) s fun t =>
      let code := if s.stagingOwned then 5 else 7
      t.fbit Reg.JRN_STATUS Bit.JRN_STATUS_RING_ERR = true ∧ t.jrn.halted = true ∧ t.chanState c = 4 ∧
      t.jrn.buffer = s.jrn.buffer ∧ t.occs = s.occs ++ [⟨srcDmaError c, 0, code + 16, s.replica 3, 3⟩] ∧
      SameRegs s t [Reg.JRN_STATUS, Reg.JRN_DROPPED, Reg.DMA_STATUS c, Reg.DMA_ERR_ADDR_LO c,
        Reg.DMA_ERR_ADDR_HI c] ∧ SameViews s t ∧ SameMemory s t)) ∧
  (∀ (ok : Bool) (s : State),
    let c := s.fget Reg.JRN_CTL Bit.JRN_CTL_CHAN
    (s.jrn.buffer = [] ∨ s.chanSrc c ≠ 3 ∨ s.chanState c ≠ 2 ∨ s.jrn.halted = true ∨ s.linkUp = false) →
    exec (.journalEntry ok) s = .next s) ∧
  (∀ s : State, s.jrn.warned = true → exec .pwrWarnAssert s = .next s) ∧
  (∀ s : State, s.jrn.warned = false → s.islandOn 0 = true → s.jrn.sealing = 0 → Completes .pwrWarnAssert s fun t =>
    t.jrn.warned = true ∧ t.occs = s.occs ++ [⟨5526, 1, 0, s.replica 0, 0⟩] ∧
    (s.jrnOn = true → s.fbit Reg.JRN_CTL Bit.JRN_CTL_SEAL_EN = true → s.powerState < 4 → t.jrn.sealing = 1 ∧
      t.fget Reg.JRN_STATUS Bit.JRN_STATUS_STATE = 4) ∧
    (s.jrnOn = false ∨ s.fbit Reg.JRN_CTL Bit.JRN_CTL_SEAL_EN = false ∨ 4 ≤ s.powerState → t.jrn.sealing = 0) ∧
    Only s t [Reg.JRN_STATUS, Reg.JRN_DROPPED]) ∧
  (∀ s : State, (s.jrn.warned = false → exec .pwrWarnDeassert s = .next s) ∧
    (s.jrn.warned = true → s.islandOn 0 = true → Completes .pwrWarnDeassert s fun t => t.jrn.warned = false ∧
      t.occs = s.occs ++ [⟨5526, 2, 0, s.replica 0, 0⟩] ∧
      (s.jrn.sealing = 3 → t.jrn.sealing = 0 ∧ t.jrn.resumeAt = s.now) ∧ (s.jrn.sealing ≠ 3 → t.jrn.sealing = s.jrn.sealing) ∧
      Only s t [Reg.JRN_STATUS, Reg.JRN_DROPPED])) ∧
  (∀ s : State, (s.jrn.sealing ≠ 1 ∨ s.jrn.opening = true → exec .sealSigned s = .next s) ∧ (s.jrn.sealing ≠ 2 → exec .sealProgrammed s = .next s) ∧
    (s.jrn.sealing = 1 → s.jrn.opening = false → s.flashByte (sealPage s.sealNext) = 0xFF → Completes .sealSigned s fun t =>
      t.jrn.sealing = 2 ∧ t.jrn.sealBytes = s.checkpoint 1 ++ signatureOf (s.fresh + 1) (s.checkpoint 1) ∧ t.flash = s.flash ∧ Only s t [Reg.JRN_STATUS, Reg.JRN_DROPPED]) ∧
    (s.jrn.sealing = 1 → s.jrn.opening = false → s.flashByte (sealPage s.sealNext) ≠ 0xFF → Completes .sealSigned s fun t =>
      t.fbit Reg.JRN_SEAL_STATUS Bit.JRN_SEAL_STATUS_SKIPPED = true ∧ t.jrn.sealing = (if s.jrn.warned then 3 else 0) ∧
      t.flash = s.flash ∧ Only s t [Reg.JRN_SEAL_STATUS, Reg.JRN_STATUS, Reg.JRN_DROPPED]) ∧
    (s.jrn.sealing = 2 → Completes .sealProgrammed s fun t => t.sealNext = (s.sealNext + 1) % 4096 ∧
      t.fbit Reg.JRN_SEAL_STATUS Bit.JRN_SEAL_STATUS_DONE = true ∧ t.jrn.sealing = (if s.jrn.warned then 3 else 0) ∧
      (∀ k < s.jrn.sealBytes.length, t.flashByte (sealPage s.sealNext + k) =
        s.jrn.sealBytes.getD k 0 &&& s.flashByte (sealPage s.sealNext + k)) ∧
      (∀ a, a < sealPage s.sealNext ∨ sealPage s.sealNext + s.jrn.sealBytes.length ≤ a → t.flashByte a = s.flashByte a) ∧
      Only s t [Reg.JRN_SEAL_STATUS, Reg.JRN_STATUS, Reg.JRN_DROPPED])) ∧
  (∀ (ok : Bool) (s : State), (∀ j < 16, s.flashByte (sealPage (s.sealNext + j)) = 0xFF) → exec (.sectorEraseDone ok) s = .next s) ∧
  (∀ (k : Nat) (s : State), k < 16 → (∀ j < k, s.flashByte (sealPage (s.sealNext + j)) = 0xFF) →
    s.flashByte (sealPage (s.sealNext + k)) ≠ 0xFF →
    let sector := sealPage (s.sealNext + k) / 4096 * 4096
    Completes (.sectorEraseDone true) s (fun t => (∀ a, t.flashByte a =
      if sector ≤ a ∧ a < sector + 4096 then 0xFF else s.flashByte a) ∧ t.occs = s.occs ∧ Only s t []) ∧
    (s.islandOn 5 = true → Completes (.sectorEraseDone false) s fun t => t.flash = s.flash ∧
      t.occs = s.occs ++ [⟨5537, 0, 0, s.replica 5, 5⟩] ∧ Only s t [])) ∧
  (∀ s : State, s.safe = false → s.islandOn (islandOf Reg.JRN_SEQ_LO) = true → Completes .jrnSeqSnapshot s fun t =>
    t.rd Reg.JRN_SEQ_LO = s.jrn.seq % 2 ^ 32 ∧ t.rd Reg.JRN_SEQ_HI = s.jrn.seq / 2 ^ 32 % 2 ^ 32 ∧
    t.hostTx = s.hostTx ++ [.completion 0 (toBytes 4 (s.jrn.seq % 2 ^ 32)) false] ∧ Only s t [Reg.JRN_SEQ_LO, Reg.JRN_SEQ_HI])

/-- R294 to R303, R317, R323. -/
def Obligations.IngestStreamsAndTheAperture : Prop :=
  (∀ (f : FnId) (off : Nat) (bytes : List Byte) (poisoned : Bool) (s : State),
    let a := s.apertureBase f + off
    let here := s.apertureOpen f off = true ∧ poisoned = false
    let now := s.held = [] ∧ (s.memOn = true ∨ (s.windowOf a = none ∧ s.isLocal f a .write = false))
    (s.apertureOpen f off = false → exec (.apertureWrite f off bytes poisoned) s = .next s) ∧
    (s.apertureOpen f off = true → poisoned = true → exec (.apertureWrite f off bytes poisoned) s = .next (s.aerLog f 1)) ∧
    (here → ¬ now → Completes (.apertureWrite f off bytes poisoned) s fun t => t.held = s.held ++ [.write f a bytes] ∧ Only s t []) ∧
    (here → now → s.windowOf a = none →
      (∀ st, s.protectedBy a = some st →
        exec (.apertureWrite f off bytes poisoned) s = .next (s.fset (Reg.ING_STATUS st) Bit.ING_STATUS_PROT_DROP 1)) ∧
      (s.protectedBy a = none →
        (s.isLocal f a .write = true → Clean s → bytes.length ≤ 4096 → Completes (.apertureWrite f off bytes poisoned) s fun t =>
          Wrote s t (match s.translate f a .write with | .localMem phys => phys | _ => 0) bytes ∧ SameRegs s t [] ∧ SameViews s t) ∧
        (∀ p, s.translate f a .write = .refused p → exec (.apertureWrite f off bytes poisoned) s = .next (s.refusal p f true 1))))) ∧
  (∀ (f : FnId) (off : Nat) (bytes : List Byte) (st k : Nat) (s : State),
    let a := s.apertureBase f + off
    (s.apertureOpen f off = true → s.held = [] → s.memOn = true → s.windowOf a = some st → s.openSlot st = some k → s.ticksDue 0 3 = 0 →
      (∀ i < bytes.length, inRanges (s.rangesOf st k) (a + i) = true) → s.islandOn 3 = true →
      ((s.stream st).tp < bytes.length → Completes (.apertureWrite f off bytes false) s fun t =>
        (t.stream st).tp = (s.stream st).tp ∧ (t.stream st).tc = (s.stream st).tc ∧ (t.stream st).accepted = (s.stream st).accepted ∧ (t.stream st).lines = (s.stream st).lines ∧
        (t.stream st).cause = (if (s.stream st).cause = 0 then 1 else (s.stream st).cause) ∧
        t.rd (Reg.ING_RED st) = min (s.rd (Reg.ING_RED st) + ((s.stream st).redBytes + bytes.length) / 64) (2 ^ 32 - 1) ∧
        t.occs = s.occs ++ (if (s.stream st).redSeen then [] else [⟨srcRed (s.streamFn st), 0, st + 2 ^ 15 * k, s.replica 3, 3⟩]) ∧
        Only s t [Reg.ING_RED st]) ∧
      (bytes.length ≤ (s.stream st).tp → Completes (.apertureWrite f off bytes false) s fun t =>
        (t.stream st).tp = (s.stream st).tp - bytes.length ∧ (t.stream st).tc = (if bytes.length ≤ (s.stream st).tc then (s.stream st).tc - bytes.length else (s.stream st).tc) ∧
        (t.stream st).accepted = (s.stream st).accepted + bytes.length ∧ SameViews s t) ∧
      (bytes.length ≤ (s.stream st).tp → 0 < bytes.length → a % 64 + bytes.length < 64 → (s.stream st).lineAt (a / 64 * 64) = none → (s.stream st).lines.length < 16 → s.ingestOwns = true →
        Completes (.apertureWrite f off bytes false) s fun t =>
          (∃ l, (t.stream st).lines = (s.stream st).lines ++ [l] ∧ (l.addr = a / 64 * 64 ∧ l.slot = k ∧ l.at_ = s.now ∧ l.drain = none ∧
            l.yellow = decide ((s.stream st).tc < bytes.length) ∧ (∀ j < 64, j ∈ l.mask ↔ a % 64 ≤ j ∧ j < a % 64 + bytes.length) ∧ l.index < 16 ∧
            (∀ y ∈ (s.stream st).lines, y.index ≠ l.index) ∧
            ∀ j < 64, t.plateByte (plateWord 29 (lineWord st l.index) + j) = if a % 64 ≤ j ∧ j < a % 64 + bytes.length
              then bytes.getD (j - a % 64) 0 else s.plateByte (plateWord 29 (lineWord st l.index) + j))) ∧
          SameRegs s t [Reg.ING_YELLOW st]))) ∧
  (∀ (f : FnId) (off n : Nat) (s : State),
    let a := s.apertureBase f + off
    (s.apertureOpen f off = false → ∀ fresh, exec (.apertureRead f off n fresh) s = .next s) ∧
    (s.apertureOpen f off = true → ∀ fresh, s.held ≠ [] ∨ (s.isLocal f a .read = true ∧ s.memOn = false) →
      Completes (.apertureRead f off n fresh) s fun t => t.held = s.held ++ [.read f a n fresh] ∧ Only s t []) ∧
    (s.apertureOpen f off = true → s.held = [] →
      (s.isLocal f a .read = true → s.memOn = true → Clean s →
        let bytes := s.loadBytes (match s.translate f a .read with | .localMem phys => phys | _ => 0) n
        Completes (.apertureRead f off n false) s (fun t => t.hostTx = s.hostTx ++ [.completion f bytes false] ∧ Only s t []) ∧
        (0 < n → s.eccOn = true → Completes (.apertureRead f off n true) s fun t => t.hostTx = s.hostTx ++ [.completion f bytes true])) ∧
      (∀ p, s.translate f a .read = .refused p → ∀ fresh, exec (.apertureRead f off n fresh) s =
        .next ((s.refusal p f false 1).send (.completion f (List.replicate n 0) false))))) ∧
  (∀ s : State, let k := s.ticksDue 0 3
    (k = 0 → exec .meterRefill s = .next s) ∧
    (k ≠ 0 → Completes .meterRefill s fun t =>
      (∀ e ∈ s.streams, s.fbit (Reg.ING_CFG e.1) Bit.ING_CFG_EN = true → (e.1, { e.2 with
        tc := min (e.2.tc + k * s.fget (Reg.ING_CIR e.1) Bit.ING_CIR_CIR) (s.fget (Reg.ING_CBS e.1) Bit.ING_CBS_CBS)
        tp := min (e.2.tp + k * s.fget (Reg.ING_PIR e.1) Bit.ING_PIR_PIR) (s.fget (Reg.ING_PBS e.1) Bit.ING_PBS_PBS) }) ∈ t.streams) ∧
      (∀ e ∈ s.streams, s.fbit (Reg.ING_CFG e.1) Bit.ING_CFG_EN = false → e ∈ t.streams) ∧
      t.streams.length = s.streams.length ∧ t.ticksDue 0 3 = 0 ∧
      (∀ c < 64, t.chanState c = if s.chanState c = 3 then 1 else s.chanState c) ∧ Only s t ((List.range 64).map Reg.DMA_STATUS))) ∧
  (∀ (w : FnId) (st : SlotId) (k : Fin 256) (r : ReadResult) (s : State), s.streamReach w st = true →
    s.Reaches (Reg.ING_OPEN st) →
    let en := s.fbit (Reg.ING_CFG st) Bit.ING_CFG_EN = true
    let held := ∃ x ∈ s.holds, x.1 = 256 * st.val + k.val
    let newest := s.newestSlot st = some k.val
    let completing := ∃ c ∈ (s.stream st).completions, c.slot = k.val
    let now := s.held = [] ∧ (s.memOn = true ∨ s.descLocal st k = false)
    let ok := ¬ completing ∧ en ∧ k < s.slotCount st ∧ ¬ held ∧ ¬ newest
    (¬ now → Completes (.ingOpen w st k r) s fun t => t.held = s.held ++ [.openSlot st k r] ∧ Only s t []) ∧
    (now → completing → Completes (.ingOpen w st k r) s fun t => (t.stream st).waitOpen = (s.stream st).waitOpen ++ [(k.val, r)] ∧
      t.slots = s.slots ∧ Only s t []) ∧
    (now → ¬ completing → ¬ en → Completes (.ingOpen w st k r) s fun t => OpenRefused s t st 1) ∧
    (now → ¬ completing → en → s.slotCount st ≤ k → Completes (.ingOpen w st k r) s fun t => OpenRefused s t st 2) ∧
    (now → ¬ completing → en → k < s.slotCount st → held → Completes (.ingOpen w st k r) s fun t => OpenRefused s t st 3) ∧
    (now → ¬ completing → en → k < s.slotCount st → ¬ held → newest → Completes (.ingOpen w st k r) s fun t => OpenRefused s t st 4) ∧
    (now → ok → (s.readSlotDesc st k r).2 = none → Completes (.ingOpen w st k r) s fun t =>
      t.fget (Reg.ING_STATUS st) Bit.ING_STATUS_REFUSE_CODE = 5 ∧ t.fbit (Reg.ING_STATUS st) Bit.ING_STATUS_OPEN_REFUSED = true ∧
      t.streams = s.streams ∧ t.slots = s.slots ∧ t.slotRanges = s.slotRanges ∧ t.openSlot st = s.openSlot st ∧ SameViews s t) ∧
    (∀ b, (s.readSlotDesc st k r).2 = some b → now → ok → s.isLocal (s.streamFn st) (s.slotDesc st k) .read = false ∨ Clean s →
      (s.badRanges st (descRanges b) = true → Completes (.ingOpen w st k r) s fun t => OpenRefused s t st 6) ∧
      (s.badRanges st (descRanges b) = false → Completes (.ingOpen w st k r) s fun t =>
        t.openSlot st = some k.val ∧ t.rangesOf st k = descRanges b ∧ (t.stream st).accepted = 0 ∧ (t.stream st).cause = 0 ∧
        (t.stream st).want = sumOf ((descRanges b).map (·.2)) ∧ (t.slot st k).state = 1 ∧
        (∀ j, s.openSlot st = some j → j ≠ k → (t.slot st j).state = 3) ∧ SameViews s t))) ∧
  (∀ (f a : Nat) (st : SlotId) (k : Fin 256) (r : ReadResult) (s : State), s.translate (s.streamFn st) (s.slotDesc st k) .read = .hostWin f a →
    (s.readSlotDesc st k r).2 = if s.linkUp then (match s.hostAnswer f a r with | .data b => some b | _ => none) else none) ∧
  (∀ (phys : Nat) (st : SlotId) (k : Fin 256) (r : ReadResult) (s : State), s.translate (s.streamFn st) (s.slotDesc st k) .read = .localMem phys →
    Clean s → (s.readSlotDesc st k r).2 = if r = .uncorrectable ∧ s.eccOn = true then none else some (s.loadBytes phys 64)) ∧
  (∀ (w : FnId) (st : SlotId) (s : State), s.streamReach w st = true → s.Reaches (Reg.ING_DONE st) →
    (s.held ≠ [] → Completes (.ingDone w st) s fun t => t.held = s.held ++ [.done st] ∧ Only s t []) ∧
    (s.held = [] → s.openSlot st = none → Completes (.ingDone w st) s fun t => OpenRefused s t st 7) ∧
    (∀ k, s.openSlot st = some k → s.held = [] → (∀ l ∈ (s.stream st).lines, s.isLocal (s.streamFn st) l.addr .write = true) →
      Completes (.ingDone w st) s fun t => t.openSlot st = none ∧
      (t.stream st).completions = (s.stream st).completions ++
        [⟨k, (s.stream st).cause, (s.stream st).accepted, (s.stream st).want⟩] ∧
      (t.stream st).lines.length = (s.stream st).lines.length ∧ (∀ l ∈ (t.stream st).lines, l.drain.isSome = true) ∧
      Only s t [Reg.ING_OPEN st])) ∧
  (∀ (st : SlotId) (e : Ecc) (s : State),
    let served : Option (WcLine × Nat) := (s.stream st).lines.findSome? fun l => match l.drain with
      | some (phys, _) => if s.unserved (256 + st) phys then none else some (l, phys)
      | none => none
    (served = none → exec (.wcLineDrain st e) s = .next s) ∧
    (served ≠ none → s.memOn = false → Completes (.wcLineDrain st e) s fun t => t.waking = true ∧ t.streams = s.streams ∧ Only s t []) ∧
    (∀ x, served = some x → s.memOn = true → s.ingestOwns = true → Clean s → s.retiring = none → x.2 % 64 = 0 →
      let word := plateWord 29 (lineWord st x.1.index)
      Completes (.wcLineDrain st e) s fun t => (t.stream st).lines = (s.stream st).lines.erase x.1 ∧ SameViews s t ∧
        (e = .uncorrectable ∨ word ∈ s.platePoison → (∀ a, t.loadByte a = s.loadByte a) ∧ word ∈ t.platePoison ∧
          (s.openSlot st = some x.1.slot → (t.stream st).cause = if (s.stream st).cause = 0 then 3 else (s.stream st).cause)) ∧
        (e ≠ .uncorrectable → word ∉ s.platePoison → (t.stream st).cause = (s.stream st).cause ∧
          (∀ j < 64, t.loadByte (x.2 + j) = if x.1.mask.length = 64 ∨ j ∈ x.1.mask then s.plateByte (word + j) else s.loadByte (x.2 + j)) ∧
          (∀ a, a < x.2 ∨ x.2 + 64 ≤ a → t.loadByte a = s.loadByte a) ∧ (e = .clean → SameRegs s t [])))) ∧
  (∀ (st : SlotId) (s : State), (∀ l ∈ (s.stream st).lines, s.isLocal (s.streamFn st) l.addr .write = true) →
    Completes (.wcIdleTimeout st) s fun t => (t.stream st).lines.length = (s.stream st).lines.length ∧
      (∀ l ∈ (t.stream st).lines, l.at_ + 2000 ≤ s.now → l.drain.isSome = true) ∧
      (∀ l ∈ (s.stream st).lines, l.drain.isSome = true ∨ s.now < l.at_ + 2000 → l ∈ (t.stream st).lines) ∧ Only s t []) ∧
  (∀ (st : SlotId) (s : State), (s.stream st).completions = [] → exec (.ingestCompletion st) s = .next s) ∧
  (∀ (st : SlotId) (c : Completing) (rest : List Completing) (s : State), (s.stream st).completions = c :: rest →
    let waits := ∃ l ∈ (s.stream st).lines, l.slot = c.slot
    let off := s.memOn = false ∧ s.descLocal st c.slot = true
    (waits → exec (.ingestCompletion st) s = .next s) ∧
    (¬ waits → off → Completes (.ingestCompletion st) s fun t => t.waking = true ∧ t.streams = s.streams ∧ Only s t []) ∧
    (¬ waits → ¬ off → (∀ x ∈ (s.stream st).waitOpen, x.1 ≠ c.slot) → c.slot < 256 → s.islandOn 3 = true →
      let check := s.fbit (Reg.ING_CFG st) Bit.ING_CFG_LEN_CHECK
      (c.cause = 0 → check = false ∨ c.accepted = c.want → Completes (.ingestCompletion st) s fun t =>
        t.slot st c.slot = ⟨2, s.replica 3, 0, ((s.stream st).fence + 1) % 2 ^ 64⟩ ∧ t.newestSlot st = some c.slot ∧
        (t.stream st).fence = ((s.stream st).fence + 1) % 2 ^ 64 ∧ (t.stream st).completions = rest ∧
        ⟨st.val, 0, ((s.stream st).fence + 1) % 2 ^ 64 % 2 ^ 32, s.replica 3, 3⟩ ∈ t.occs ∧ SameViews s t) ∧
      (c.cause ≠ 0 → c.cause < 7 → Completes (.ingestCompletion st) s fun t => (t.slot st c.slot).state = 3 ∧
        t.fbit (Reg.ING_STATUS st) Bit.ING_STATUS_INCOMPLETE = true ∧ (t.stream st).completions = rest ∧
        t.fget (Reg.ING_STATUS st) Bit.ING_STATUS_CAUSE = c.cause ∧ (t.stream st).fence = (s.stream st).fence ∧ SameViews s t) ∧
      (c.cause = 0 → check = true → c.accepted ≠ c.want → Completes (.ingestCompletion st) s fun t =>
        (t.slot st c.slot).state = 3 ∧ t.fget (Reg.ING_STATUS st) Bit.ING_STATUS_CAUSE = 4 ∧
        (t.stream st).completions = rest ∧ t.newestSlot st = s.newestSlot st ∧ SameViews s t))) ∧
  (∀ (w : FnId) (st : SlotId) (v : Word) (s : State), s.streamReach w st = true → s.Reaches (Reg.ING_CFG st) → s.ticksDue 0 3 = 0 →
    let en := s.fbit (Reg.ING_CFG st) Bit.ING_CFG_EN
    let feed := if w = 0 then v.getLsbD 1 else s.fbit (Reg.ING_CFG st) Bit.ING_CFG_FEED
    let on := (s.fset (Reg.ING_CFG st) Bit.ING_CFG_EN 1).fset (Reg.ING_CFG st) Bit.ING_CFG_FEED (b2n feed)
    let may := s.ratesHold st = true ∧ s.ingestOwns = true ∧ (feed = true ∨ on.cirFits = true)
    (en = false → v.getLsbD 0 = true → may → Completes (.ingCfgWrite w st v) s fun t => t.fbit (Reg.ING_CFG st) Bit.ING_CFG_EN = true ∧
      t.fget (Reg.ING_CFG st) Bit.ING_CFG_SLOTS = v.toNat / 32 % 256 ∧
      t.fbit (Reg.ING_CFG st) Bit.ING_CFG_FEED = feed ∧ t.fbit (Reg.ING_CFG st) Bit.ING_CFG_RED_ACT = (feed && v.getLsbD 2) ∧
      (t.stream st).tc = s.fget (Reg.ING_CBS st) Bit.ING_CBS_CBS ∧ (t.stream st).tp = s.fget (Reg.ING_PBS st) Bit.ING_PBS_PBS ∧
      (t.stream st).fence = 0 ∧ Only s t [Reg.ING_CFG st]) ∧
    (en = false → v.getLsbD 0 = true → ¬ may → Completes (.ingCfgWrite w st v) s fun t =>
      t.fbit (Reg.ING_CFG st) Bit.ING_CFG_EN = false ∧ t.fbit (Reg.ING_CFG st) Bit.ING_CFG_CFG_REFUSED = true ∧
      t.streams = s.streams ∧ Only s t [Reg.ING_CFG st]) ∧
    (en = true → v.getLsbD 0 = true → Completes (.ingCfgWrite w st v) s fun t => t.fbit (Reg.ING_CFG st) Bit.ING_CFG_EN = true ∧
      t.fget (Reg.ING_CFG st) Bit.ING_CFG_SLOTS = s.fget (Reg.ING_CFG st) Bit.ING_CFG_SLOTS ∧ t.streams = s.streams ∧
      Only s t [Reg.ING_CFG st]) ∧
    (en = true → v.getLsbD 0 = false → s.openSlot st = none → Completes (.ingCfgWrite w st v) s fun t =>
      t.fbit (Reg.ING_CFG st) Bit.ING_CFG_EN = false ∧ t.slots = s.slots ∧ t.holds = s.holds ∧
      t.fget (Reg.ING_CFG st) Bit.ING_CFG_SLOTS = s.fget (Reg.ING_CFG st) Bit.ING_CFG_SLOTS ∧ Only s t [Reg.ING_CFG st])) ∧
  (∀ (st : SlotId) (which : Fin 4) (v : Word) (s : State), s.Reaches (Reg.ING_CIR st) → s.ticksDue 0 3 = 0 →
    let off := Reg.ING_CIR st + 4 * which.val
    let new := s.wr off (v.toNat % if which.val < 2 then 2 ^ 18 else 2 ^ 25)
    let bad := s.fbit (Reg.ING_CFG st) Bit.ING_CFG_EN = true ∧
      (new.ratesHold st = false ∨ (which = 0 ∧ s.cirPcie < new.cirPcie ∧ new.cirFits = false))
    (¬ bad → Completes (.ingRateWrite st which v) s fun t =>
      t.rd off = new.rd off ∧ (t.stream st).tc = min (s.stream st).tc (new.fget (Reg.ING_CBS st) Bit.ING_CBS_CBS) ∧
      (t.stream st).tp = min (s.stream st).tp (new.fget (Reg.ING_PBS st) Bit.ING_PBS_PBS) ∧ Only s t [off]) ∧
    (bad → Completes (.ingRateWrite st which v) s fun t =>
      t.fbit (Reg.ING_CFG st) Bit.ING_CFG_CFG_REFUSED = true ∧ t.streams = s.streams ∧ Only s t [Reg.ING_CFG st])) ∧
  (∀ (st : SlotId) (s : State), s.safe = false → s.islandOn (islandOf (Reg.ING_FENCE_VAL_LO st)) = true →
    Completes (.ingFenceValSnapshot st) s fun t => t.rd (Reg.ING_FENCE_VAL_LO st) = (s.stream st).fence % 2 ^ 32 ∧
      t.rd (Reg.ING_FENCE_VAL_HI st) = (s.stream st).fence / 2 ^ 32 % 2 ^ 32 ∧
      t.hostTx = s.hostTx ++ [.completion 0 (toBytes 4 ((s.stream st).fence % 2 ^ 32)) false] ∧
      Only s t [Reg.ING_FENCE_VAL_LO st, Reg.ING_FENCE_VAL_HI st])

/-- R82, R304 to R312. A beat carries at most 64 bytes and a local write is performed at its acknowledgement (both the model's, in the log entry on DMA). -/
def Obligations.DmaChannelsAndTheMover : Prop :=
  (∀ (w : FnId) (c : ChanId) (s : State), s.chanReach w c = true → s.Reaches (Reg.DMA_CTL c) →
    (s.chanState c = 0 → s.chanSrc c = 2 ∨ s.chanSrc c = 3 → Completes (.dmaStart w c) s fun t =>
      t.chanState c = (if s.chanSrc c = 2 then 5 else 2) ∧ (t.chan c).desc = none ∧ Only s t (chanRegs c)) ∧
    (∀ phys, s.chanState c = 0 → s.chanSrc c < 2 ∨ s.chanSrc c = 4 → s.translate (s.chanFn c) (s.descAddr c) .read = .localMem phys →
      Completes (.dmaStart w c) s fun t => AsksAt s t c phys ∧ t.descAddr c = s.descAddr c ∧ t.chanSrc c = s.chanSrc c ∧
        t.level c = s.level c) ∧
    (s.chanState c ≠ 0 → Completes (.dmaStart w c) s fun t =>
      t.fbit (Reg.DMA_STATUS c) Bit.DMA_STATUS_KICK_LOST = true ∧ t.chanState c = s.chanState c ∧ t.chans = s.chans ∧
      Only s t [Reg.DMA_STATUS c]) ∧
    (s.chanState c ≠ 0 → s.chanState c ≠ 4 →
      (s.moverBurst.map (·.1) ≠ some c.val ∨ s.requests c = false → (s.chan c).acks = [] → Completes (.dmaStop w c) s fun t => Idles t c ∧
        Only s t [Reg.DMA_STATUS c]) ∧
      (s.moverBurst.map (·.1) = some c.val → s.requests c = true → Completes (.dmaStop w c) s fun t =>
        t.chan c = { s.chan c with stopping := true } ∧ t.chanState c = s.chanState c ∧ Only s t [])) ∧
    (s.chanState c = 0 ∨ s.chanState c = 4 → Completes (.dmaStop w c) s fun t => t.chans = s.chans ∧
      t.chanState c = s.chanState c ∧ Only s t [Reg.DMA_CTL c]) ∧
    (s.chanState c ≠ 4 → Completes (.dmaResume w c) s (fun t => t.chans = s.chans ∧ t.chanState c = s.chanState c ∧ Only s t [Reg.DMA_CTL c]) ∧
      Completes (.dmaAbort w c) s fun t => t.chans = s.chans ∧ t.chanState c = s.chanState c ∧ Only s t [Reg.DMA_CTL c]) ∧
    (s.chanState c = 4 →
      (∀ phys, s.chanSrc c < 2 → (s.chan c).desc = none → s.translate (s.chanFn c) (s.descAddr c) .read = .localMem phys →
        Completes (.dmaResume w c) s fun t => AsksAt s t c phys ∧ t.descAddr c = s.descAddr c) ∧
      (s.chanSrc c < 2 → (s.chan c).desc ≠ none → (s.chan c).skip = false → (s.chan c).staged ≠ [] →
        (s.chan c).issued ≠ (s.chan c).total → Completes (.dmaResume w c) s fun t => t.chanState c = 1 ∧
          (t.chan c).staged.head? = (s.chan c).staged.head? ∧ (t.chan c).issued = (s.chan c).issued ∧ t.mem = s.mem) ∧
      ((s.chan c).acks = [] → Completes (.dmaAbort w c) s fun t => Idles t c ∧ Only s t [Reg.DMA_STATUS c]))) ∧
  (∀ (c : ChanId) (a phys at_ late : Nat) (r : ReadResult) (s : State), (s.chan c).descRead = some ⟨a, .localMem phys, at_, late⟩ →
    s.islandOn 3 = true →
    let b := s.loadBytes phys 64
    let d := parseDesc b
    (s.memOn = true → s.unserved (192 + c) phys = true → exec (.dmaDescriptorRead c r) s = .next s) ∧
    (DmaServed s c phys r →
      (s.stagingOwned = true → s.chanSrc c = 0 → (s.chan c).skip = false → descBad 0 (ofBytes (b.take 4)) d = false →
        Completes (.dmaDescriptorRead c r) s fun t =>
          (t.chan c).desc = some { d with down := decide (d.op < 2) && d.meets && decide (d.src < d.dst) } ∧
          (t.chan c).total = d.length * d.lines ∧ t.pair (Reg.DMA_REMAIN_LO c) = d.length * d.lines ∧
          (t.chan c).issued = 0 ∧ (t.chan c).descRead = none ∧ t.mem = s.mem ∧ SameViews s t) ∧
      (s.stagingOwned = true → descBad (s.chanSrc c) (ofBytes (b.take 4)) d = true →
        Completes (.dmaDescriptorRead c r) s fun t => Halts s t c 6 (s.descAddr c) false ∧ Only s t (chanRegs c)) ∧
      (s.stagingOwned = false → Completes (.dmaDescriptorRead c r) s fun t => Halts s t c 7 (s.descAddr c) false ∧
        Only s t (chanRegs c))) ∧
    (DmaPoison s c phys r → Completes (.dmaDescriptorRead c r) s fun t => Halts s t c 2 (s.descAddr c) false ∧ SameViews s t)) ∧
  (∀ (c : ChanId) (a fn x at_ late : Nat) (r : ReadResult) (s : State), (s.chan c).descRead = some ⟨a, .hostWin fn x, at_, late⟩ →
    s.islandOn 3 = true →
    (s.hostAnswer fn x r = .unsupported → Completes (.dmaDescriptorRead c r) s fun t => Halts s t c 3 (s.descAddr c) false ∧
      Only s t (chanRegs c)) ∧
    (s.hostAnswer fn x r = .timeout → Completes (.dmaDescriptorRead c r) s fun t => Halts s t c 4 (s.descAddr c) false ∧
      Only s t (chanRegs c)) ∧
    (s.hostAnswer fn x r = .poisoned → Completes (.dmaDescriptorRead c r) s fun t => Halts s t c 2 (s.descAddr c) false ∧
      Only s t (chanRegs c)) ∧
    (∀ b, s.hostAnswer fn x r = .data b → s.stagingOwned = true → s.chanSrc c = 0 → (s.chan c).skip = false →
      descBad 0 (ofBytes (b.take 4)) (parseDesc b) = false → Completes (.dmaDescriptorRead c r) s fun t =>
        (t.chan c).total = (parseDesc b).length * (parseDesc b).lines ∧ (t.chan c).issued = 0 ∧ (t.chan c).desc.isSome = true ∧
        t.mem = s.mem ∧ SameViews s t)) ∧
  (∀ (c : ChanId) (d : DmaRead) (rest : List DmaRead) (phys : Nat) (r : ReadResult) (s : State),
    (s.chan c).reads = d :: rest → d.src = .localMem phys → d.len ≤ 64 → s.islandOn 3 = true →
    (DmaServed s c phys r → s.stagingOwned = true → Completes (.dmaSourceData c r) s fun t =>
      (t.chan c).staged.take ((s.chan c).staged.length + 1) = (s.chan c).staged ++ [⟨d.pos, d.dst, d.len, d.word, 0, [], 0⟩] ∧
      (∀ j < d.len, t.plateByte (plateWord s.stagingPlate (stagingWord c d.word) + j) = s.loadByte (phys + j)) ∧ t.mem = s.mem ∧
      SameViews s t) ∧
    (DmaServed s c phys r → s.stagingOwned = false → (s.chan c).staged = [] → Completes (.dmaSourceData c r) s fun t =>
      Halts s t c 7 d.addr false ∧ Only s t (chanRegs c)) ∧
    (DmaPoison s c phys r → (s.chan c).staged = [] →
      Completes (.dmaSourceData c r) s fun t => Halts s t c 2 d.addr false ∧ SameViews s t) ∧
    (DmaPoison s c phys r → (s.chan c).staged ≠ [] → Completes (.dmaSourceData c r) s fun t =>
      (t.chan c).readErr = some (2, d.addr) ∧ (t.chan c).staged = (s.chan c).staged ∧ t.chanState c = s.chanState c)) ∧
  (∀ (e : Ecc) (s : State), (s.now < s.moverAt ∨ s.moverPick = none) → exec (.dmaMoverBeat e) s = .next s) ∧
  (∀ (c n : Nat) (s : State), s.moverPick = some (c, n) →
    s.requests c = true ∧ n < 16 ∧ ∀ k < 64, s.requests k = true → s.level c ≤ s.level k) ∧
  (∀ (c : ChanId) (n : Nat) (b : Beat) (rest : List Beat) (e : Ecc) (s : State), s.moverPick = some (c.val, n) → s.moverAt ≤ s.now →
    (s.chan c).staged = b :: rest → (∀ k < 64, (s.chan k).stopping = false) → s.islandOn 3 = true →
    let good := s.stagingOwned = true ∧ e ≠ .uncorrectable ∧ beatWord s c b ∉ s.platePoison
    let plain := s.chanSrc c ≠ 1 ∨ (s.windowOf b.dst = none ∧ s.protectedBy b.dst = none)
    (∀ phys, s.translate (s.chanFn c) b.dst .write = .localMem phys → good → plain → (s.chan c).total ≤ 2 ^ 32 →
      Completes (.dmaMoverBeat e) s fun t =>
      (t.chan c).acks = (s.chan c).acks ++ [{ b with phys := phys, bytes := (s.plateLoad (beatWord s c b)).take b.len, at_ := s.now }] ∧
      (t.chan c).issued = (s.chan c).issued + b.len ∧
      t.pair (Reg.DMA_REMAIN_LO c) = (s.chan c).total - ((s.chan c).issued + b.len) ∧
      t.moverAt = s.now + (if s.throttled = true then 8 else 1) ∧ t.mem = s.mem ∧ SameViews s t) ∧
    (∀ p, s.translate (s.chanFn c) b.dst .write = .refused p → good → plain → Completes (.dmaMoverBeat e) s fun t =>
      Halts s t c 1 b.dst true ∧ t.mem = s.mem ∧ SameViews s t ∧ t.fbit Reg.SYS_PMAP_STATUS Bit.SYS_PMAP_STATUS_REFUSED = true) ∧
    (s.stagingOwned = false → Completes (.dmaMoverBeat e) s fun t => Halts s t c 7 b.dst true ∧ Only s t (chanRegs c)) ∧
    (s.stagingOwned = true → e = .uncorrectable ∨ beatWord s c b ∈ s.platePoison → s.chanSrc c < 2 →
      Completes (.dmaMoverBeat e) s fun t => t.chanState c = 4 ∧ t.fget (Reg.DMA_STATUS c) Bit.DMA_STATUS_ERR_CODE = 2 ∧
        (t.chan c).staged = [] ∧ (t.chan c).fetched = b.pos ∧ beatWord s c b ∈ t.platePoison ∧
        t.fbit (Reg.PST_PLATE_ERR s.stagingPlate) Bit.PST_PLATE_ERR_UE = true ∧ t.mem = s.mem) ∧
    (good → s.chanSrc c = 1 → s.memOn = true → (s.windowOf b.dst).isSome = true →
      e = .clean → s.ingestPath b.dst ((s.plateLoad (beatWord s c b)).take b.len) true id = none → Completes (.dmaMoverBeat e) s fun t =>
        t.chanState c = 3 ∧ (t.chan c).staged = (s.chan c).staged ∧ (t.chan c).issued = (s.chan c).issued)) ∧
  (∀ (c : ChanId) (ok : Bool) (s : State), (s.chan c).acks = [] → ok = false ∨ s.chanSrc c ≠ 1 →
    exec (.dmaWriteAck c ok) s = .next s) ∧
  (∀ (c : ChanId) (d : DmaDesc) (s : State), (s.chan c).acks = [] → s.chanSrc c = 1 → (s.chan c).desc = some d →
    s.islandOn 3 = true → s.chanState c = 1 → (s.chan c).issued = (s.chan c).total → 0 < (s.chan c).total →
    (s.undrained c d = true → exec (.dmaWriteAck c true) s = .next s) ∧
    (s.undrained c d = false → d.ingDone = false → d.last = true → d.fenceWr = false → Completes (.dmaWriteAck c true) s fun t =>
      Idles t c ∧ t.fbit (Reg.DMA_STATUS c) Bit.DMA_STATUS_DONE = true ∧ Only s t [Reg.DMA_STATUS c])) ∧
  (∀ (c : ChanId) (b : Beat) (rest : List Beat) (ok : Bool) (s : State), (s.chan c).acks = b :: rest → s.memOn = true →
    s.unserved (192 + c) b.phys = true → exec (.dmaWriteAck c ok) s = .next s) ∧
  (∀ (c : ChanId) (b : Beat) (rest : List Beat) (d : DmaDesc) (s : State), (s.chan c).acks = b :: rest → s.memOn = true →
    s.unserved (192 + c) b.phys = false → s.islandOn 3 = true → (s.chan c).desc = some d → s.chanSrc c < 2 → s.chanState c = 1 → s.undrained c d = false →
    (rest ≠ [] ∨ (s.chan c).issued ≠ (s.chan c).total → Clean s → b.phys % 64 + b.bytes.length ≤ 64 →
      Completes (.dmaWriteAck c true) s fun t => Wrote s t b.phys b.bytes ∧ t.chan c = { s.chan c with acks := rest } ∧
        SameRegs s t [] ∧ SameViews s t) ∧
    (rest = [] → (s.chan c).issued = (s.chan c).total → 0 < (s.chan c).total → d.ingDone = false → d.last = true →
      (d.fenceWr = false → Clean s → b.phys % 64 + b.bytes.length ≤ 64 → Completes (.dmaWriteAck c true) s fun t =>
        Idles t c ∧ Wrote s t b.phys b.bytes ∧ t.fbit (Reg.DMA_STATUS c) Bit.DMA_STATUS_DONE = true ∧
        t.fget (Reg.DMA_STATUS c) Bit.DMA_STATUS_DONE_COUNT =
          min (s.fget (Reg.DMA_STATUS c) Bit.DMA_STATUS_DONE_COUNT + 1) 65535 ∧
        (d.event = true → ∃ x ∈ t.occs, x.source = 4992 + c.val ∧ x.cause = 0) ∧ Only { s with mem := t.mem } t [Reg.DMA_STATUS c]) ∧
      (∀ phys, d.fenceWr = true → d.fenceAddr % 8 = 0 → Clean s →
        s.translate (s.chanFn c) d.fenceAddr .write = .localMem phys → Completes (.dmaWriteAck c true) s fun t =>
          Idles t c ∧ t.loadBytes phys 8 = toBytes 8 d.fenceValue ∧
          t.fbit (Reg.DMA_STATUS c) Bit.DMA_STATUS_DONE = true)) ∧
    (∀ phys, rest = [] → (s.chan c).issued = (s.chan c).total → 0 < (s.chan c).total → d.ingDone = false → d.last = false →
      d.fenceWr = false → d.next < 2 ^ 37 → d.next % 64 = 0 → s.translate (s.chanFn c) d.next .read = .localMem phys →
      Completes (.dmaWriteAck c true) s fun t => t.chanState c = 1 ∧ t.descAddr c = d.next ∧
        (t.chan c).descRead = some ⟨d.next, .localMem phys, s.now, s.now + s.hostTimeout⟩ ∧
        t.fbit (Reg.DMA_STATUS c) Bit.DMA_STATUS_DONE = true) ∧
    ((s.chan c).issued ≠ (s.chan c).total → (s.chan c).issued ≤ b.pos → Completes (.dmaWriteAck c false) s fun t =>
      t.chan c = { s.chan c with acks := rest } ∧ Only s t []) ∧
    ((s.chan c).issued ≠ (s.chan c).total → b.pos < (s.chan c).issued → Completes (.dmaWriteAck c false) s fun t => t.chanState c = 4 ∧
      t.fget (Reg.DMA_STATUS c) Bit.DMA_STATUS_ERR_CODE = 5 ∧ t.pair (Reg.DMA_ERR_ADDR_LO c) = b.dst % 2 ^ 37 ∧
      (t.chan c).staged = b :: rest ++ (s.chan c).staged ∧ (t.chan c).issued = b.pos ∧ SameMemory s t) ∧
    (rest = [] → (s.chan c).issued = (s.chan c).total → Completes (.dmaWriteAck c false) s fun t =>
      Idles t c ∧ t.fbit (Reg.DMA_STATUS c) Bit.DMA_STATUS_DONE_ERR = true ∧
      t.fget (Reg.DMA_STATUS c) Bit.DMA_STATUS_ERR_CODE = 5 ∧ t.pair (Reg.DMA_ERR_ADDR_LO c) = b.dst % 2 ^ 37 ∧
      t.fbit (Reg.DMA_STATUS c) Bit.DMA_STATUS_DONE = s.fbit (Reg.DMA_STATUS c) Bit.DMA_STATUS_DONE ∧ SameMemory s t)) ∧
  (∀ (h : HeadId) (s : State),
    let m := s.headView h
    let c := hdf m h Hd.WB_CHAN
    ((s.frameRun h).chosen = false → exec (.dmaWbFrameStart h) s = .next s) ∧
    ((s.frameRun h).chosen = true → (s.chan c).wbHead ≠ some (h.val, (s.head h).frame) →
      (∀ phys, s.chanState c = 5 → s.chanSrc c = 2 → (s.frameRun h).rows = [] →
        s.translate (s.chanFn c) (s.descAddr c) .read = .localMem phys → Completes (.dmaWbFrameStart h) s fun t =>
          t.chanState c = 1 ∧ (t.chan c).wbHead = some (h.val, (s.head h).frame) ∧ (t.chan c).total = wbBytes m h ∧
          (t.chan c).descRead = some ⟨s.descAddr c, .localMem phys, s.now, s.now + s.hostTimeout⟩ ∧ (t.frameRun h).chosen = false ∧ SameMemory s t) ∧
      (s.chanState c ≠ 5 ∨ s.chanSrc c ≠ 2 → Completes (.dmaWbFrameStart h) s fun t => (t.frameRun h).chosen = false ∧
        t.chans = s.chans ∧ t.fget (hdOff h Hd.WB_SKIP) ⟨0, 16⟩ = min (s.fget (hdOff h Hd.WB_SKIP) ⟨0, 16⟩ + 1) 65535 ∧
        Only s t [hdOff h Hd.WB_SKIP]))) ∧
  (∀ (q : SeqId) (i : Atcia) (s : State), s.Fetches q i → i.op = .dmakick →
    let c := i.imm.toNat
    let a := ((s.seq q).reg i.a).toNat
    let f := s.seqFn q
    let flags (z c v : Bool) : Seq := { s.seq q with pc := (s.seq q).pc + 1, z := z, c := c, v := v }
    (s.chanFn c ≠ f → exec (.dmakick q) s = .next (s.seqFault q 0x0A true)) ∧
    (s.chanFn c = f → a % 64 ≠ 0 → exec (.dmakick q) s = .next (s.seqFault q 0x03 true)) ∧
    (s.chanFn c = f → a % 64 = 0 → 2 ^ 37 ≤ a → exec (.dmakick q) s = .next (s.seqFault q 0x04 true)) ∧
    (∀ p, s.chanFn c = f → a % 64 = 0 → a < 2 ^ 37 → s.translate f a .read = .refused p →
      exec (.dmakick q) s = .next ((s.refusal p f false 2).seqFault q 0x05 true)) ∧
    (∀ fn x, s.chanFn c = f → a % 64 = 0 → a < 2 ^ 37 → s.translate f a .read = .hostWin fn x → s.linkUp = false →
      32 ≤ q.val → exec (.dmakick q) s = .next (s.seqFault q 0x07 true)) ∧
    (∀ phys, s.chanFn c = f → a % 64 = 0 → a < 2 ^ 37 → s.translate f a .read = .localMem phys → i.x = false →
      (s.seq q).stores = [] →
      (s.chanState c = 0 → s.chanSrc c < 2 ∨ s.chanSrc c = 4 → Completes (.dmakick q) s fun t =>
        t.seq q = flags true false false ∧ AsksAt s t c phys ∧ t.descAddr c = a) ∧
      (s.chanState c ≠ 0 → s.chanState c ≠ 4 → exec (.dmakick q) s = .next (s.setSeq q (flags false true false))) ∧
      (s.chanState c = 4 → exec (.dmakick q) s = .next (s.setSeq q (flags false false true)))) ∧
    (∀ phys, s.chanFn c = f → a % 64 = 0 → a < 2 ^ 37 → s.translate f a .read = .localMem phys → (s.seq q).stores ≠ [] →
      exec (.dmakick q) s = .next s))

/-- R319 (the table of refusal codes; "A refusal changes nothing, sets `PCI_PART_STATUS.REFUSED` and records the code"), R320, R333. -/
def Obligations.PartitionWrites : Prop :=
  (∀ (h : HeadId) (v : Word) (s : State), s.Reaches (Reg.PCI_HEAD_FN h) →
    (s.headBusy h = true → s.headFn h ≠ v.toNat % 32 → exec (.partitionWrite (.head h) v) s = .next (partRefused s 3 (v.toNat % 32))) ∧
    (s.headBusy h = false ∨ s.headFn h = v.toNat % 32 → Completes (.partitionWrite (.head h) v) s fun t =>
      t.headFn h = v.toNat % 32 ∧ (∀ k : HeadId, k ≠ h → t.headFn k = s.headFn k) ∧
      (∀ src ∈ headSources h, s.sourceFn src ≠ v.toNat % 32 → SourceOff t src) ∧
      (∀ src ∈ headSources h, s.sourceFn src = v.toNat % 32 → t.rd (Reg.EVC_SRC_CFG src) = s.rd (Reg.EVC_SRC_CFG src)) ∧
      Only s t (Reg.PCI_HEAD_FN h :: (headSources h).map Reg.EVC_SRC_CFG))) ∧
  (∀ (f : FnId) (v : Word) (s : State), f ≠ 0 → s.Reaches (Reg.PCI_FN_LAYER f) →
    (rangeMeets s Reg.PCI_FN_LAYER f v.toNat = true → exec (.partitionWrite (.layers f) v) s = .next (partRefused s 1 f)) ∧
    (rangeMeets s Reg.PCI_FN_LAYER f v.toNat = false → 4096 < rangeEnd v →
      exec (.partitionWrite (.layers f) v) s = .next (partRefused s 2 f)) ∧
    (rangeMeets s Reg.PCI_FN_LAYER f v.toNat = false → rangeEnd v ≤ 4096 →
      ((∃ m ∈ s.states, ∃ sl ∈ layersIn m, moves (s.slotFn sl) f (rangeHas v sl) = true) →
        exec (.partitionWrite (.layers f) v) s = .next (partRefused s 4 f)) ∧
      ((∀ m ∈ s.states, ∀ sl ∈ layersIn m, moves (s.slotFn sl) f (rangeHas v sl) = false) →
        Completes (.partitionWrite (.layers f) v) s fun t =>
          (∀ sl : SlotId, Gives (s.slotFn sl) (t.slotFn sl) f (rangeHas v sl)) ∧ Only s t [Reg.PCI_FN_LAYER f]))) ∧
  (∀ (f : FnId) (v : Word) (s : State), f ≠ 0 → s.Reaches (Reg.PCI_FN_STREAM f) →
    (rangeMeets s Reg.PCI_FN_STREAM f v.toNat = true → exec (.partitionWrite (.streams f) v) s = .next (partRefused s 1 f)) ∧
    (rangeMeets s Reg.PCI_FN_STREAM f v.toNat = false → 4096 < rangeEnd v →
      exec (.partitionWrite (.streams f) v) s = .next (partRefused s 2 f)) ∧
    (rangeMeets s Reg.PCI_FN_STREAM f v.toNat = false → rangeEnd v ≤ 4096 →
      ((∃ st : SlotId, s.fbit (Reg.ING_CFG st) Bit.ING_CFG_EN = true ∧ moves (s.streamFn st) f (rangeHas v st) = true) →
        exec (.partitionWrite (.streams f) v) s = .next (partRefused s 5 f)) ∧
      ((∀ st : SlotId, s.fbit (Reg.ING_CFG st) Bit.ING_CFG_EN = true → moves (s.streamFn st) f (rangeHas v st) = false) →
        Completes (.partitionWrite (.streams f) v) s fun t =>
          (∀ st : SlotId, Gives (s.streamFn st) (t.streamFn st) f (rangeHas v st) ∧
            (moves (s.streamFn st) f (rangeHas v st) = true → SourceOff t st) ∧
            (moves (s.streamFn st) f (rangeHas v st) = false → t.rd (Reg.EVC_SRC_CFG st) = s.rd (Reg.EVC_SRC_CFG st))) ∧
          Only s t (Reg.PCI_FN_STREAM f :: (List.range 4096).map Reg.EVC_SRC_CFG)))) ∧
  (∀ (f : FnId) (hi : Bool) (v : Word) (s : State),
    let reg : Nat → Nat := if hi then Reg.PCI_FN_DMA_HI else Reg.PCI_FN_DMA_LO
    let cmd : Instr := .partitionWrite (if hi then .dmaHi f else .dmaLo f) v
    let ours : ChanId → Bool := fun c => decide (32 ≤ c.val) == hi
    let named : ChanId → Bool := fun c => v.getLsbD (c.val % 32)
    f ≠ 0 → s.Reaches (reg f) → ((∃ k : FnId, k ≠ 0 ∧ k ≠ f ∧ Nat.land (s.rd (reg k)) v.toNat ≠ 0) → exec cmd s = .next (partRefused s 1 f)) ∧
    ((∀ k : FnId, k ≠ 0 → k ≠ f → Nat.land (s.rd (reg k)) v.toNat = 0) →
      ((∃ c : ChanId, ours c = true ∧ moves (s.chanFn c) f (named c) = true ∧ s.chanState c ≠ 0) →
        exec cmd s = .next (partRefused s 6 f)) ∧
      ((∀ c : ChanId, ours c = true → moves (s.chanFn c) f (named c) = true → s.chanState c = 0) → Completes cmd s fun t =>
        (∀ c : ChanId, (ours c = true → Gives (s.chanFn c) (t.chanFn c) f (named c)) ∧ (ours c = false → t.chanFn c = s.chanFn c) ∧
          (ours c = true → moves (s.chanFn c) f (named c) = true → SourceOff t (srcDmaDone c) ∧ SourceOff t (srcDmaError c)) ∧
          (ours c = false ∨ moves (s.chanFn c) f (named c) = false →
            t.rd (Reg.EVC_SRC_CFG (srcDmaDone c)) = s.rd (Reg.EVC_SRC_CFG (srcDmaDone c)) ∧
            t.rd (Reg.EVC_SRC_CFG (srcDmaError c)) = s.rd (Reg.EVC_SRC_CFG (srcDmaError c)))) ∧
        Only s t (reg f :: (List.range 64).flatMap fun c => [Reg.EVC_SRC_CFG (srcDmaDone c), Reg.EVC_SRC_CFG (srcDmaError c)])))) ∧
  (∀ (r : PartReg) (v : Word) (s : State), r = .layers 0 ∨ r = .streams 0 ∨ r = .dmaLo 0 ∨ r = .dmaHi 0 → s.Reaches (partOff r) →
    exec (.partitionWrite r v) s = .next s) ∧
  (∀ (k : FnId) (s : State), s.Reaches (Reg.PCI_FN_CTL k) →
    (k = 0 → exec (.reclaim k) s = .next s) ∧
    (k ≠ 0 → s.vfOn k = true → (s.fn k).busMaster = true → exec (.reclaim k) s = .next (partRefused s 7 k)) ∧
    (k ≠ 0 → s.vfOn k = false ∨ (s.fn k).busMaster = false → Completes (.reclaim k) s fun t =>
      (∀ h : HeadId, t.headFn h = if s.headFn h = k.val then 0 else s.headFn h) ∧
      (∀ sl : SlotId, t.slotFn sl ≠ k.val ∧ (s.slotFn sl ≠ k.val → t.slotFn sl = s.slotFn sl)) ∧
      (∀ st : SlotId, t.streamFn st ≠ k.val ∧ (s.streamFn st ≠ k.val → t.streamFn st = s.streamFn st)) ∧
      (∀ c : ChanId, t.chanFn c ≠ k.val ∧ (s.chanFn c ≠ k.val → t.chanFn c = s.chanFn c)) ∧
      (∀ g : GroupId, t.groupFn g = if s.groupFn g = k.val then 0 else s.groupFn g) ∧
      (∀ p : PlateId, t.fget (Reg.PST_OWN p) Bit.PST_OWN_FN =
        if s.fget (Reg.PST_OWN p) Bit.PST_OWN_FN = k.val then 0 else s.fget (Reg.PST_OWN p) Bit.PST_OWN_FN) ∧
      (∀ i < 256, ∀ b ∈ [Bit.CLR_TABLE_FN_CSC_FN, Bit.CLR_TABLE_FN_DEGAMMA_FN, Bit.CLR_TABLE_FN_CLUT_FN],
        t.fget (Reg.CLR_TABLE_FN i) b = if s.fget (Reg.CLR_TABLE_FN i) b = k.val then 0 else s.fget (Reg.CLR_TABLE_FN i) b) ∧
      (∀ st : SlotId, s.streamFn st = k.val → SourceOff t st) ∧
      (∀ h : HeadId, s.headFn h = k.val → ∀ src ∈ headSources h, SourceOff t src) ∧
      (∀ c : ChanId, s.chanFn c = k.val → SourceOff t (srcDmaDone c) ∧ SourceOff t (srcDmaError c)) ∧
      Only s t ([Reg.PCI_FN_LAYER k, Reg.PCI_FN_STREAM k, Reg.PCI_FN_DMA_LO k, Reg.PCI_FN_DMA_HI k] ++
        (List.range 128).map Reg.PCI_HEAD_FN ++ (List.range 32).map Reg.EPH_GRP_FN ++ (List.range 32).map Reg.PST_OWN ++
        (List.range 256).map Reg.CLR_TABLE_FN ++ (List.range 5184).map Reg.EVC_SRC_CFG)))

/-- R331 (what a lost link resets and keeps), R23, R330, R326. L0p belongs to PS2 and shallower (R325). -/
def Obligations.LinkWidthAndLoss : Prop :=
  (∀ s : State,
    (s.linkUp = false → exec .pcieLinkDown s = .next s) ∧
    (s.linkUp = true → Completes .pcieLinkDown s fun t =>
      t.linkUp = false ∧ t.fget Reg.PCI_LINK_STATUS Bit.PCI_LINK_STATUS_LINK_LOST = 1 ∧
      (∀ f : FnId, t.fn f = { PciFn.reset f with aer := (s.fn f).aer }) ∧ t.ide = [] ∧
      (∀ off ∈ s.regs.map (·.1), isMsix off = true → t.rd off = resetWord off) ∧ t.fget Reg.SID_CTL Bit.SID_CTL_PTM_VALID = 0 ∧
      (∀ n : FnId, t.seq n = s.seq n) ∧
      t.chans = s.chans ∧ t.admitted = s.admitted ∧ t.commits = s.commits ∧
      (s.islandOn 1 = true → t.occs = s.occs ++ [⟨5523, 0, 0, s.replica 1, 1⟩]) ∧
      Only s t ([Reg.PCI_LINK_STATUS, Reg.SID_CTL, Reg.JRN_STATUS, Reg.JRN_DROPPED] ++ (List.range 128).map Reg.FSQ_STATUS ++ pendRegs s ++
        (s.regs.map (·.1)).filter isMsix))) ∧
  (∀ (width : Fin 3) (rate : Fin 7) (s : State),
    (s.linkUp = true ∨ s.inReset = true ∨ s.perst = true → exec (.pcieLinkUp width rate) s = .next s) ∧
    (s.linkUp = false → s.inReset = false → s.perst = false → Completes (.pcieLinkUp width rate) s fun t =>
      t.linkUp = true ∧ t.fget Reg.PCI_LINK_STATUS Bit.PCI_LINK_STATUS_WIDTH = width.val ∧
      t.fget Reg.PCI_LINK_STATUS Bit.PCI_LINK_STATUS_RATE = rate.val ∧ (s.posting = none → (t.fn 0).ready = true) ∧
      (∀ f : FnId, f ≠ 0 → t.fn f = s.fn f) ∧ Only s t [Reg.PCI_LINK_STATUS, Reg.JRN_STATUS, Reg.JRN_DROPPED])) ∧
  (∀ (width : Fin 3) (rate : Fin 7) (s : State),
    (s.linkUp = false ∨ (width = 0 ∧ rate = 6) → exec (.pcieLinkDegrade width rate) s = .next s) ∧
    (s.linkUp = true → (width ≠ 0 ∨ rate ≠ 6) → Completes (.pcieLinkDegrade width rate) s fun t =>
      t.linkUp = true ∧ t.fget Reg.PCI_LINK_STATUS Bit.PCI_LINK_STATUS_WIDTH = width.val ∧
      t.fget Reg.PCI_LINK_STATUS Bit.PCI_LINK_STATUS_RATE = rate.val ∧
      t.fget Reg.PCI_LINK_STATUS Bit.PCI_LINK_STATUS_DEGRADED = 1 ∧
      (s.islandOn 1 = true → t.occs = s.occs ++ [⟨5524, 0, t.rd Reg.PCI_LINK_STATUS % 64, s.replica 1, 1⟩]) ∧
      Only s t [Reg.PCI_LINK_STATUS])) ∧
  (∀ (width : Fin 3) (s : State),
    (s.linkUp = false ∨ 3 ≤ s.powerState → exec (.l0pRequest width) s = .next s) ∧
    (s.linkUp = true → s.powerState < 3 → exec (.l0pRequest width) s = .next (
      if width.val ≤ s.fget Reg.PCI_LINK_STATUS Bit.PCI_LINK_STATUS_WIDTH ∨ s.widthCarries (lanesOf width) = true then
        s.fset Reg.PCI_LINK_STATUS Bit.PCI_LINK_STATUS_WIDTH width
      else s.fset Reg.PCI_LINK_STATUS Bit.PCI_LINK_STATUS_L0P_DECLINED
        (min (s.fget Reg.PCI_LINK_STATUS Bit.PCI_LINK_STATUS_L0P_DECLINED + 1) 65535)))) ∧
  (∀ (k : Fin 4) (f : FnId) (s : State),
    let x : IdeStream := s.ideStream k
    (s.linkUp = false ∨ x.state ≠ 1 ∨ f.val < x.first ∨ x.last < f.val → exec (.ideCheckFailed k f) s = .next s) ∧
    (s.linkUp = true → x.state = 1 → x.first ≤ f.val → f.val ≤ x.last →
      Completes (.ideCheckFailed k f) s fun t => t.ideStream k = { x with state := 2 } ∧ (t.fn f).aer = (s.fn f).aer ++ [5] ∧
        (∀ j : Fin 4, j ≠ k → t.ideStream j = s.ideStream j) ∧ Quiet s t)) ∧
  (∀ (r : DoeReq) (s : State),
    (s.linkUp = false ∨ (s.fn 0).ready = false → exec (.doeRequest r) s = .next s) ∧
    (s.linkUp = true → (s.fn 0).ready = true → s.stationDown = true →
      exec (.doeRequest r) s = .next { s with doeWait := s.doeWait ++ [r] }) ∧
    (s.linkUp = true → (s.fn 0).ready = true → s.stationDown = false → Completes (.doeRequest r) s fun t =>
      t.hostTx.take s.hostTx.length = s.hostTx ∧ t.hostTx.length = s.hostTx.length + 1 ∧
      (∀ j : Fin 4, t.ideStream j = match r with
        | .keyStream k a b l => if j = k then ⟨1, a, b, l⟩ else s.ideStream j
        | .stopStream k => if j = k then ⟨0, 1, 0, []⟩ else s.ideStream j
        | _ => s.ideStream j) ∧ Quiet s t)) ∧
  (∀ (f : FnId) (addr : Nat) (r : ReadResult) (bytes : List Byte) (s : State),
    let binding : List IdeStream := s.ide.filter fun x => x.binds f addr
    ((∀ x ∈ binding, x.state ≠ 1) → (s.fbit (Reg.PCI_FN_CTL f) Bit.PCI_FN_CTL_IDE_REQUIRED = true ∨ ∃ x ∈ binding, x.state = 2) →
      s.send (.write f addr bytes) = s ∧ s.hostAnswer f addr r = .unsupported) ∧
    (((∃ x ∈ binding, x.state = 1) ∨ (s.fbit (Reg.PCI_FN_CTL f) Bit.PCI_FN_CTL_IDE_REQUIRED = false ∧ ∀ x ∈ binding, x.state ≠ 2)) →
      s.send (.write f addr bytes) = { s with hostTx := s.hostTx ++ [.write f addr bytes] } ∧ s.hostAnswer f addr r = r))

/-- R315, R316, R318, R321, R322, R323. -/
def Obligations.ConfigurationSpace : Prop :=
  (∀ (f : FnId) (a : CfgAccess) (s : State),
    (s.linkUp = false ∨ s.inReset = true → exec (.configurationRequest f a) s = .next s) ∧
    (s.linkUp = true → s.inReset = false → (s.fn f).ready = false → (f = 0 ∨ (s.fn 0).ready = false ∨ s.vfOn f = true) →
      exec (.configurationRequest f a) s = .next { s with hostTx := s.hostTx ++ [.retryStatus f] }) ∧
    (s.linkUp = true → s.inReset = false → f ≠ 0 → (s.fn 0).ready = true → s.vfOn f = false →
      exec (.configurationRequest f a) s =
        .next { s.setFn 0 { s.fn 0 with aer := (s.fn 0).aer ++ [4] } with hostTx := s.hostTx ++ [.unsupported f] })) ∧
  (∀ (f : FnId) (s : State), ConfigOpen s f →
    exec (.configurationRequest f .other) s = .next { s with hostTx := s.hostTx ++ [.configDone f] } ∧
    (∀ en mask, exec (.configurationRequest f (.msix en mask)) s = .next
      { s.setFn f { s.fn f with msixEnable := en, msixMask := mask } with hostTx := s.hostTx ++ [.configDone f] }) ∧
    (∀ code, exec (.configurationRequest f (.timeout code)) s = .next
      { s.setFn f { s.fn f with timeout := timeoutOf code } with hostTx := s.hostTx ++ [.configDone f] }) ∧
    (∀ code, exec (.configurationRequest f (.readSize code)) s = .next
      { s.setFn f { s.fn f with maxRead := 128 * 2 ^ code.val } with hostTx := s.hostTx ++ [.configDone f] }) ∧
    (∀ l1 l11 l12, Completes (.configurationRequest f (.aspm l1 l11 l12)) s fun t =>
      t.hostTx = s.hostTx ++ [.configDone f] ∧ (t.fn 0).aspm = (if f = 0 then (l1, l11, l12) else (s.fn 0).aspm) ∧ Quiet s t) ∧
    (∀ bm mem, Completes (.configurationRequest f (.command bm mem)) s fun t => (t.fn f).busMaster = bm ∧
      (f = 0 → (t.fn 0).memEnable = mem ∧
        (mem = false → ∀ z, (s.fn 0).bar2Next = some z → (t.fn 0).bar2 = z ∧ (t.fn 0).bar2Next = none)) ∧
      (f ≠ 0 → (t.fn f).memEnable = (s.fn f).memEnable) ∧ (∀ k : FnId, k ≠ f → t.fn k = s.fn k) ∧
      t.hostTx = s.hostTx ++ [.configDone f] ∧ Quiet s t) ∧
    (∀ d pme, Completes (.configurationRequest f (.power d pme)) s fun t =>
      t.fn f = { s.fn f with dstate := d.val, pmeEnable := pme } ∧ (∀ k : FnId, k ≠ f → t.fn k = s.fn k) ∧
      t.hostTx = s.hostTx ++ [.configDone f] ∧ Only s t (pendRegs s))) ∧
  (∀ (f : FnId) (v : Word) (s : State), ConfigOpen s f → exec (.configurationRequest f (.severity v)) s = .next
      { s.setFn f { s.fn f with severity := v } with hostTx := s.hostTx ++ [.configDone f] }) ∧
  (∀ (n : BitVec 16) (s : State), ConfigOpen s 0 →
    Completes (.configurationRequest 0 (.numVfs n)) s fun t =>
      (t.fn 0).numVfs = (if (s.fn 0).vfEnable = true ∨ s.safe = true then (s.fn 0).numVfs
        else if (s.fn 0).ari = false ∧ 7 < n.toNat then 7 else min n.toNat 31) ∧
      t.hostTx = s.hostTx ++ [.configDone 0] ∧ (∀ k : FnId, k ≠ 0 → t.fn k = s.fn k) ∧ Quiet s t) ∧
  (∀ (enable memory ari : Bool) (s : State), ConfigOpen s 0 → s.safe = false → (enable = true ∨ (s.fn 0).vfEnable = false) →
    Completes (.configurationRequest 0 (.sriov enable memory ari)) s fun t =>
      (t.fn 0).vfEnable = enable ∧ (t.fn 0).ari = ari ∧ (∀ k : FnId, k ≠ 0 → (t.fn k).memEnable = memory) ∧
      (∀ k : FnId, enable = true → k ≠ 0 → k.val ≤ (s.fn 0).numVfs → (s.fn k).inFlr = false → (t.fn k).ready = true) ∧
      t.hostTx = s.hostTx ++ [.configDone 0] ∧ Quiet s t) ∧
  (∀ (vf : Bool) (size : Fin 64) (s : State),
    let ok : Bool := (if vf then decide (26 ≤ size.val) && decide (size.val ≤ 34) else decide (28 ≤ size.val) && decide (size.val ≤ 37))
      && (s.fn 0).ready && !s.safe
    (ok = false → exec (.resizableBarWrite vf size) s = .next s) ∧
    (ok = true → Completes (.resizableBarWrite vf size) s fun t =>
      (∀ f : FnId, vf = decide (f ≠ 0) →
        ((s.fn f).memEnable = false → (t.fn f).bar2 = size.val ∧ (t.fn f).bar2Next = none) ∧
        ((s.fn f).memEnable = true → (t.fn f).bar2 = (s.fn f).bar2 ∧ (t.fn f).bar2Next = some size.val)) ∧
      (∀ f : FnId, vf = decide (f = 0) → t.fn f = s.fn f) ∧ Quiet s t)) ∧
  (∀ (f : FnId) (why : BadRequest) (posted : Bool) (s : State),
    let who : Nat := if f ≠ 0 ∧ s.vfOn f = false then 0 else f.val
    s.linkUp = true → s.inReset = false →
    (why = .disabledFunction → (s.fn f).memEnable = false ∨ (f ≠ 0 ∧ s.vfOn f = false)) →
    (why = .ideRequired → s.ideBlocked f none = true) →
    exec (.unsupportedRequest f why posted) s = .next
      { s.setFn who { s.fn who with aer := (s.fn who).aer ++ [4] } with
        hostTx := if posted then s.hostTx else s.hostTx ++ [.unsupported f] }) ∧
  (∀ (f : FnId) (s : State),
    ((s.fn f).ready = false ∨ (f ≠ 0 ∧ s.vfOn f = false) → exec (.functionLevelReset f) s = .next s) ∧
    ((s.fn f).ready = true → f ≠ 0 → s.vfOn f = true → (∀ c : ChanId, s.chanFn c = f.val → (s.chan c).acks = []) →
      Completes (.functionLevelReset f) s fun t => FnReset s t f ∧ (∀ k : FnId, k ≠ f → t.fn k = s.fn k) ∧
      (∀ off ∈ fnRegs s (· = f.val), t.rd off = resetWord off) ∧ (∀ c : ChanId, t.chan c = if s.chanFn c = f.val then Chan.reset else s.chan c) ∧
      t.seqState f = 0 ∧ Only s t (fnRegs s (· = f.val) ++ pendRegs s)) ∧
    ((s.fn f).ready = true → f = 0 → (∀ c : ChanId, (s.chan c).acks = []) → Completes (.functionLevelReset f) s fun t => FnReset s t 0 ∧
      (∀ k : FnId, k ≠ 0 → (if (s.fn 0).vfEnable then FnReset s t k else t.fn k = s.fn k)) ∧
      (∀ off ∈ fnRegs s fun k => decide (k = 0) || (s.fn 0).vfEnable, t.rd off = resetWord off) ∧
      Only s t (fnRegs s (fun k => decide (k = 0) || (s.fn 0).vfEnable) ++ pendRegs s))) ∧
  (∀ (f : FnId) (s : State),
    ((s.fn f).inFlr = false → exec (.flrComplete f) s = .next s) ∧
    ((s.fn f).inFlr = true → Completes (.flrComplete f) s fun t => t.fn f = { s.fn f with inFlr := false, ready := true } ∧
      (∀ k : FnId, k ≠ f → t.fn k = s.fn k) ∧ t.hostTx = (if s.linkUp then s.hostTx ++ [.frs f] else s.hostTx) ∧ Quiet s t)) ∧
  (∀ s : State,
    ((s.fn 0).ready = false ∨ (s.fn 0).vfEnable = false → exec .vfEnableClear s = .next s) ∧
    ((s.fn 0).ready = true → (s.fn 0).vfEnable = true → (∀ c : ChanId, (s.chan c).acks = []) →
      Completes .vfEnableClear s fun t => t.fn 0 = { s.fn 0 with vfEnable := false } ∧ (∀ f : FnId, f ≠ 0 → FnReset s t f) ∧
      (∀ off ∈ fnRegs s (· ≠ 0), t.rd off = resetWord off) ∧ Only s t (fnRegs s (· ≠ 0) ++ pendRegs s)))

/-- R334 ("An occurrence is stamped by the replica of the island that raises it"), R14 (±4 ns), R15 (held without power). -/
def Obligations.RaisingAnEvent : Prop :=
  (∀ (s : State) (src cause detail island : Nat), s.islandOn island = true ∨ island ∈ s.reloaded →
    s.raise src cause detail island =
        { s with occs := s.occs ++ [⟨src, cause, detail, s.replica island, island⟩], fresh := s.fresh + 1 } ∧
      s.now - 4 ≤ s.replica island ∧ s.replica island ≤ s.now + 4 ∧ (island = 0 → s.replica island = s.now)) ∧
  (∀ (s : State) (src cause detail island : Nat), s.islandOn island = false → island ∉ s.reloaded →
    s.raise src cause detail island = { s with heldOccs := s.heldOccs ++ [⟨src, cause, detail, s.replica island, island⟩] })

/-- The rows of R332 outside the core, and R334 to R336: "The Event Controller counts the occurrence when the occurrence reaches island 2, whatever the source's routing". -/
def Obligations.EventsAreCountedAndRouted : Prop :=
  (∀ (k : Fin 16) (rise : Bool) (s : State),
    exec (.gpioEdge k rise) s = .next (s.raise (5507 + k) (if rise then 1 else 2) 0 0)) ∧
  (∀ (cause : Fin 3) (s : State), exec (.hostWakeSignal cause) s = .next (
    if (cause = 0 ∧ 1 ≤ s.linkPower) ∨ (cause = 1 ∧ 4 ≤ s.powerState) ∨ (cause = 2 ∧ (s.linkUp = false ∨ 2 ≤ s.linkPower)) then
      s.raise 5525 (cause.val + 1) 0 0 else s)) ∧
  (∀ (src : Fin 6144) (s : State),
    s.safe = true ∨ s.islandOn 2 = false ∨ (∀ o ∈ s.occs, o.source = src.val → s.finderTakes o = true) →
    exec (.eventOccurrence src) s = .next s) ∧
  (∀ (src : Fin 6144) (o : Occ) (s : State), Arrives s src o →
    (s.fbit (Reg.EVC_SRC_CFG src) Bit.EVC_SRC_CFG_EN = false ∨ s.fget (Reg.EVC_SRC_CFG src) Bit.EVC_SRC_CFG_TARGET = 3) →
    exec (.eventOccurrence src) s = .next
      ({ s with occs := dropOcc src s.occs }.wr (Reg.EVC_SRC_COUNT src) (s.rd (Reg.EVC_SRC_COUNT src) + 1))) ∧
  (∀ (src : Fin 6144) (o : Occ) (c : Fin 2) (s : State), Arrives s src o →
    s.fbit (Reg.EVC_SRC_CFG src) Bit.EVC_SRC_CFG_EN = true →
    s.fget (Reg.EVC_SRC_CFG src) Bit.EVC_SRC_CFG_TARGET = c.val + 1 →
    Completes (.eventOccurrence src) s fun t => Pends s t src o ∧
      t.stationRecords = (if (s.stationRecords.filter (·.1 = c.val)).length < 4096 then
        s.stationRecords ++ [(c.val, recordBytes o (32 + c.val ∈ s.ringLost))] else s.stationRecords) ∧
      Only s t [Reg.EVC_SRC_COUNT src, Reg.EVC_SRC_CFG src]) ∧
  (∀ (src : Fin 6144) (o : Occ) (s : State), Arrives s src o →
    s.fbit (Reg.EVC_SRC_CFG src) Bit.EVC_SRC_CFG_EN = true → s.fget (Reg.EVC_SRC_CFG src) Bit.EVC_SRC_CFG_TARGET = 0 →
    s.sourceFn src < 32 → (EvRingOpen s (s.sourceFn src) →
      (∃ code, s.translate (s.sourceFn src) (evRingSlot s (s.sourceFn src)) .write = .refused code)) →
    Completes (.eventOccurrence src) s fun t => Pends s t src o ∧
      t.fget (Reg.EVC_FN_RING_CTL (s.sourceFn src)) Bit.EVC_FN_RING_CTL_OVERFLOW = 1 ∧ s.sourceFn src ∈ t.ringLost ∧
      Only s t [Reg.EVC_SRC_COUNT src, Reg.EVC_SRC_CFG src, Reg.EVC_FN_RING_CTL (s.sourceFn src)]) ∧
  (∀ (src : Fin 6144) (o : Occ) (phys : Nat) (s : State), Arrives s src o →
    s.fbit (Reg.EVC_SRC_CFG src) Bit.EVC_SRC_CFG_EN = true → s.fget (Reg.EVC_SRC_CFG src) Bit.EVC_SRC_CFG_TARGET = 0 →
    s.sourceFn src < 32 → EvRingOpen s (s.sourceFn src) →
    s.translate (s.sourceFn src) (evRingSlot s (s.sourceFn src)) .write = .localMem phys →
    Completes (.eventOccurrence src) s fun t => Pends s t src o ∧
      t.rd (Reg.EVC_FN_RING_WR (s.sourceFn src)) = (s.rd (Reg.EVC_FN_RING_WR (s.sourceFn src)) + 1) % 2 ^ 32 ∧
      Wrote s t phys (recordBytes o (s.sourceFn src ∈ s.ringLost)) ∧
      SameRegs s t [Reg.EVC_SRC_COUNT src, Reg.EVC_SRC_CFG src, Reg.EVC_FN_RING_WR (s.sourceFn src)]) ∧
  (∀ (src : Fin 6144) (o : Occ) (fn addr : Nat) (s : State), Arrives s src o →
    s.fbit (Reg.EVC_SRC_CFG src) Bit.EVC_SRC_CFG_EN = true → s.fget (Reg.EVC_SRC_CFG src) Bit.EVC_SRC_CFG_TARGET = 0 →
    s.sourceFn src < 32 → EvRingOpen s (s.sourceFn src) →
    s.translate (s.sourceFn src) (evRingSlot s (s.sourceFn src)) .write = .hostWin fn addr →
    Completes (.eventOccurrence src) s fun t => Pends s t src o ∧
      (if s.linkUp = true ∧ s.fnAsleep (s.sourceFn src) = false then
        t.rd (Reg.EVC_FN_RING_WR (s.sourceFn src)) = (s.rd (Reg.EVC_FN_RING_WR (s.sourceFn src)) + 1) % 2 ^ 32 ∧
        t.hostTx = (if s.ideBlocked fn (some addr) then s.hostTx
          else s.hostTx ++ [.write fn addr (recordBytes o (s.sourceFn src ∈ s.ringLost))]) ∧
        Only s t [Reg.EVC_SRC_COUNT src, Reg.EVC_SRC_CFG src, Reg.EVC_FN_RING_WR (s.sourceFn src)]
      else t.fget (Reg.EVC_FN_RING_CTL (s.sourceFn src)) Bit.EVC_FN_RING_CTL_OVERFLOW = 1 ∧ t.hostTx = s.hostTx ∧
        Only s t [Reg.EVC_SRC_COUNT src, Reg.EVC_SRC_CFG src, Reg.EVC_FN_RING_CTL (s.sourceFn src)]))

/-- R339 to R343. A delivery clears the pending mark of every source that it covers. -/
def Obligations.EventsAreDelivered : Prop :=
  (∀ (s : State) (key : List Nat) (f v : Nat), s.linkUp = true → leastBy s.launchable = some (key, f, v) → f < 32 → v < 2048 →
    Completes .msixLaunch s fun t =>
      t.hostTx = (if s.ideBlocked f none then s.hostTx else s.hostTx ++
        [.msix f v (s.rd (msixOff f v 0) + s.rd (msixOff f v 1) * 2 ^ 32) (s.rd (msixOff f v 2))]) ∧
      (∀ e ∈ s.deliverable, e.1 < 6144 → e.2.1 = Target.host f v →
        t.fget (Reg.EVC_SRC_CFG e.1) Bit.EVC_SRC_CFG_PENDING = 0 ∧ tabGet t.pendTime e.1 = none) ∧
      t.fget (Reg.EVC_FN_IDLE f) Bit.EVC_FN_IDLE_IDLE = 0 ∧
      t.fget (Reg.EVC_VEC_CFG (vecIndex f v)) Bit.EVC_VEC_CFG_MOD_ACTIVE =
        (if s.fget (Reg.EVC_VEC_CFG (vecIndex f v)) Bit.EVC_VEC_CFG_MOD = 0 then 0 else 1) ∧
      Only s t (Reg.EVC_FN_IDLE f :: Reg.EVC_VEC_CFG (vecIndex f v) ::
        ((s.deliverable.filter fun e => e.2.1 = Target.host f v).map fun e => Reg.EVC_SRC_CFG e.1))) ∧
  (∀ (s : State) (key : List Nat) (f v : Nat), leastBy s.launchable = some (key, f, v) →
    s.vecMasked f v = false ∧ s.vecModerated f v = false ∧ v < vectorsOf f) ∧
  (∀ s : State, s.launchable = [] ∨ s.linkUp = false → exec .msixLaunch s = .next s) ∧
  (∀ (s : State) (c : Fin 2) (key : List Nat) (src : Nat), s.coreAsleep = false → s.stationDown = false →
    (s.levelsOf c).length < 8 → s.coreModerated c = false → leastBy (s.enterable c) = some (key, src) → src < 6144 →
    Completes (.stationHandlerEntry c) s fun t =>
      t.levelsOf c = s.prioOf src :: s.levelsOf c ∧
      t.fget (Reg.EVC_SC_CTL c) Bit.EVC_SC_CTL_DEPTH = (s.levelsOf c).length + 1 ∧
      t.fget (Reg.EVC_SC_CTL c) Bit.EVC_SC_CTL_WAITING = 0 ∧
      t.fget (Reg.EVC_SRC_CFG src) Bit.EVC_SRC_CFG_PENDING = 0 ∧ tabGet t.stationEntry c = some (s.replica 2) ∧
      Only s t [Reg.EVC_SC_CTL c, Reg.EVC_SRC_CFG src]) ∧
  (∀ (s : State) (c : Fin 2), s.coreAsleep = true ∨ s.stationDown = true ∨ 8 ≤ (s.levelsOf c).length ∨ s.coreModerated c = true ∨
    s.enterable c = [] → exec (.stationHandlerEntry c) s = .next s) ∧
  (∀ (s : State) (c : Fin 2) (wait : Bool) (p : Nat) (rest : List Nat), s.levelsOf c = p :: rest → rest.length < 8 →
    Completes (.stationHandlerReturn c wait) s fun t =>
      t.levelsOf c = rest ∧ t.fget (Reg.EVC_SC_CTL c) Bit.EVC_SC_CTL_DEPTH = rest.length ∧
      (t.fget (Reg.EVC_SC_CTL c) Bit.EVC_SC_CTL_WAITING = 1 ↔ wait = true ∧ rest = []) ∧
      t.stationRecords = (s.stationRecords.filter fun x => decide (x.1 ≠ c.val)) ∧ Only s t [Reg.EVC_SC_CTL c]) ∧
  (∀ (c : Fin 2) (wait : Bool) (s : State), s.levelsOf c = [] → exec (.stationHandlerReturn c wait) s = .next s) ∧
  (∀ (s : State) (v : Fin 4032) (e : Nat), tabGet s.modEnd v = some e → e ≤ s.replica 1 →
    exec (.modIntervalEnd v) s = .next
      ({ s with modEnd := tabDel v s.modEnd }.fset (Reg.EVC_VEC_CFG v) Bit.EVC_VEC_CFG_MOD_ACTIVE 0)) ∧
  (∀ (s : State) (v : Fin 4032), (∀ e, tabGet s.modEnd v = some e → s.replica 1 < e) → exec (.modIntervalEnd v) s = .next s)

/-- R335 ("A VF write of `TARGET` 1 or 2, or of a `VECTOR` of 64 or more, leaves the field unchanged"), R343, R321, R344. -/
def Obligations.EventRoutingWrites : Prop :=
  (∀ (src : Fin 6144) (v : Word) (s : State), s.Reaches (Reg.EVC_SRC_CFG src) → src.val < 5539 →
    Completes (.evcSrcCfgWrite 0 src v) s fun t =>
      t.fget (Reg.EVC_SRC_CFG src) Bit.EVC_SRC_CFG_EN = v.toNat % 2 ∧
      t.fget (Reg.EVC_SRC_CFG src) Bit.EVC_SRC_CFG_TARGET = v.toNat / 2 % 4 ∧
      t.fget (Reg.EVC_SRC_CFG src) Bit.EVC_SRC_CFG_VECTOR = v.toNat / 8 % 2048 ∧
      t.fget (Reg.EVC_SRC_CFG src) Bit.EVC_SRC_CFG_PRIO = v.toNat / 2 ^ 16 % 256 ∧
      t.fget (Reg.EVC_SRC_CFG src) Bit.EVC_SRC_CFG_FN = (if 5184 ≤ src.val ∧ src.val < 5440 then v.toNat / 2 ^ 24 % 32
        else s.fget (Reg.EVC_SRC_CFG src) Bit.EVC_SRC_CFG_FN) ∧
      (v.toNat % 2 = 0 ∨ v.toNat / 2 % 4 = 3 ∨ t.fget (Reg.EVC_SRC_CFG src) Bit.EVC_SRC_CFG_FN ≠ s.fget (Reg.EVC_SRC_CFG src) Bit.EVC_SRC_CFG_FN →
        t.fget (Reg.EVC_SRC_CFG src) Bit.EVC_SRC_CFG_PENDING = 0 ∧
        t.fget (Reg.EVC_SRC_CFG src) Bit.EVC_SRC_CFG_HELD = 0 ∧ tabGet t.pendTime src = none) ∧
      Only s t [Reg.EVC_SRC_CFG src]) ∧
  (∀ (w : FnId) (src : Fin 6144) (v : Word) (s : State), s.Reaches (Reg.EVC_SRC_CFG src) → src.val < 5539 → w ≠ 0 →
    s.sourceFn src = w.val →
    Completes (.evcSrcCfgWrite w src v) s fun t =>
      t.fget (Reg.EVC_SRC_CFG src) Bit.EVC_SRC_CFG_EN = v.toNat % 2 ∧
      t.fget (Reg.EVC_SRC_CFG src) Bit.EVC_SRC_CFG_PRIO = v.toNat / 2 ^ 16 % 256 ∧
      t.fget (Reg.EVC_SRC_CFG src) Bit.EVC_SRC_CFG_FN = s.fget (Reg.EVC_SRC_CFG src) Bit.EVC_SRC_CFG_FN ∧
      t.fget (Reg.EVC_SRC_CFG src) Bit.EVC_SRC_CFG_TARGET =
        (if v.toNat / 2 % 4 = 1 ∨ v.toNat / 2 % 4 = 2 then s.fget (Reg.EVC_SRC_CFG src) Bit.EVC_SRC_CFG_TARGET
         else v.toNat / 2 % 4) ∧
      t.fget (Reg.EVC_SRC_CFG src) Bit.EVC_SRC_CFG_VECTOR =
        (if 64 ≤ v.toNat / 8 % 2048 then s.fget (Reg.EVC_SRC_CFG src) Bit.EVC_SRC_CFG_VECTOR else v.toNat / 8 % 2048) ∧
      (v.toNat % 2 = 0 ∨ t.fget (Reg.EVC_SRC_CFG src) Bit.EVC_SRC_CFG_TARGET = 3 →
        t.fget (Reg.EVC_SRC_CFG src) Bit.EVC_SRC_CFG_PENDING = 0 ∧
        t.fget (Reg.EVC_SRC_CFG src) Bit.EVC_SRC_CFG_HELD = 0 ∧ tabGet t.pendTime src = none) ∧
      Only s t [Reg.EVC_SRC_CFG src]) ∧
  (∀ (w : FnId) (src : Fin 6144) (v : Word) (s : State), s.Reaches (Reg.EVC_SRC_CFG src) →
    (5539 ≤ src.val ∨ (w ≠ 0 ∧ s.sourceFn src ≠ w.val)) → exec (.evcSrcCfgWrite w src v) s = .next s) ∧
  (∀ (w f : FnId) (v : Word) (s : State), s.Reaches (Reg.EVC_FN_IDLE f) →
    exec (.evcFnIdleWrite w f v) s =
      .next (if v.toNat % 2 = 1 ∧ (w = 0 ∨ w = f) then s.fset (Reg.EVC_FN_IDLE f) Bit.EVC_FN_IDLE_IDLE 1 else s)) ∧
  (∀ (f : FnId) (v : Fin 2048) (k : Fin 4) (x : Word) (s : State), s.Reaches (Reg.MSIX_ADDR_LO 0) →
    exec (.msixTableWrite f v k x) s = .next (if v.val < vectorsOf f then
      s.wr (msixOff f v k) (if k = 3 then x.toNat % 2 else x.toNat) else s))

/-- R345 (fallback), R346 (watch list), R347 (the Finder's steps), R383 (order). -/
def Obligations.SleepingTargetsAndTheFinder : Prop :=
  (∀ (src : Fin 6144) (s : State), tabGet s.heldSince src = none ∨ s.watched src = true ∨ src.val ∈ s.redirected ∨
      s.now < (tabGet s.heldSince src).getD 0 + 1000000 * s.fget Reg.EVC_CTL Bit.EVC_CTL_HOLD_MS →
    exec (.eventHoldTimeout src) s = .next s) ∧
  (∀ (src : Fin 6144) (since : Nat) (s : State), tabGet s.heldSince src = some since → s.watched src = false →
    since + 1000000 * s.fget Reg.EVC_CTL Bit.EVC_CTL_HOLD_MS ≤ s.now → src.val ∉ s.redirected →
    s.fbit (Reg.EVC_SRC_CFG src) Bit.EVC_SRC_CFG_PENDING = true → s.fbit (Reg.EVC_SRC_CFG src) Bit.EVC_SRC_CFG_HELD = true →
    s.asleep (s.ownTarget src) = true →
    (s.asleep s.fallback = false → Completes (.eventHoldTimeout src) s fun t =>
      t.targetOf src = s.fallback ∧ t.fget (Reg.EVC_SRC_CFG src) Bit.EVC_SRC_CFG_HELD = 0 ∧
      t.fget (Reg.EVC_SRC_CFG src) Bit.EVC_SRC_CFG_PENDING = 1 ∧ Only s t [Reg.EVC_SRC_CFG src]) ∧
    (s.asleep s.fallback = true → exec (.eventHoldTimeout src) s = .next { s with timedOut := setAdd src s.timedOut })) ∧
  (∀ (k : Fin 64) (v : Word) (s : State), s.Reaches (Reg.AON_WATCH k) →
    exec (.aonWatchWrite k v) s = .next (
      let src := v.toNat % 8192
      if (4352 ≤ src ∧ src < 4480) ∨ (5497 ≤ src ∧ src < 5529) then s.wr (Reg.AON_WATCH k) (v.toNat % 16384)
      else (s.fset Reg.AON_STATUS Bit.AON_STATUS_WATCH_REFUSED 1).fset Reg.AON_STATUS Bit.AON_STATUS_ENTRY k)) ∧
  (∀ (src : Fin 6144) (o : Occ) (s : State), s.occs.find? (·.source = src.val) = some o → s.finderTakes o = true →
    o.time < 2 ^ 64 →
    (s.finder ≠ [] → exec (.finderWake src) s = .next
      { s with finder := s.finder ++ [{ o with island := 0 }], occs := dropOcc src s.occs }) ∧
    (s.finder = [] → Completes (.finderWake src) s fun t =>
      t.waking = true ∧ t.exitTo = 0 ∧ t.finder = [{ o with island := 0 }] ∧ t.occs = dropOcc src s.occs ∧
      (s.fbit Reg.AON_WAKE_CAUSE Bit.AON_WAKE_CAUSE_VALID = false →
        t.fget Reg.AON_WAKE_CAUSE Bit.AON_WAKE_CAUSE_SOURCE = src.val ∧
        t.fget Reg.AON_WAKE_CAUSE Bit.AON_WAKE_CAUSE_VALID = 1 ∧
        t.rd Reg.AON_WAKE_TIME_LO + t.rd Reg.AON_WAKE_TIME_HI * 2 ^ 32 = o.time) ∧
      (s.fbit Reg.AON_WAKE_CAUSE Bit.AON_WAKE_CAUSE_VALID = true → SameRegs s t []) ∧
      (∀ f : FnId, s.fbit (Reg.EVC_SRC_CFG src) Bit.EVC_SRC_CFG_EN = true → s.fget (Reg.EVC_SRC_CFG src) Bit.EVC_SRC_CFG_TARGET = 0 →
        s.sourceFn src = f.val →
        (((s.fn f).dstate = 3 ∧ (s.fn f).pmeEnable = true) → (if s.linkUp then t.hostTx = s.hostTx ++ [.pme f] else f.val ∈ t.pmeWait)) ∧
        ((s.fn f).dstate = 4 → t.wakeN = true)) ∧
      Only s t [Reg.AON_WAKE_CAUSE, Reg.AON_WAKE_TIME_LO, Reg.AON_WAKE_TIME_HI])) ∧
  (∀ (src : Fin 6144) (s : State), (∀ o ∈ s.occs, o.source = src.val → s.finderTakes o = false) →
    exec (.finderWake src) s = .next s) ∧
  (∀ s : State, s.finder = [] ∨ s.islandOn 2 = false → exec .finderHandover s = .next s) ∧
  (∀ s : State, s.islandOn 2 = true → (∀ o ∈ s.finder, o.source < 6144 ∧ s.fbit (Reg.EVC_SRC_CFG o.source) Bit.EVC_SRC_CFG_EN = false) →
    Completes .finderHandover s fun t => t.finder = [] ∧
      (∀ src : Fin 6144, t.rd (Reg.EVC_SRC_COUNT src) =
        (s.rd (Reg.EVC_SRC_COUNT src) + (s.finder.filter fun o => o.source = src.val).length) % 2 ^ 32) ∧
      Only s t (s.finder.map fun o => Reg.EVC_SRC_COUNT o.source)) ∧
  (∀ l : List Occ, (occSort l).Perm l ∧ (occSort l).Pairwise fun a b => occBefore b a = false)

/-- R349: "sets the target state as the deepest state that meets all of the following", with the exit latencies 0, 2, 15, 150, 5,000 and 100,000 µs of R348. -/
def Obligations.TargetPowerStateIsTheDeepest : Prop :=
  ∀ s : State,
    let meets : Nat → Prop := fun n => n ≤ 5 ∧ s.entryOk n = true ∧
      (∀ f : FnId, f = 0 ∨ s.vfOn f = true → [0, 2, 15, 150, 5000, 100000].getD n 0 ≤ s.fget (Reg.PWR_LAT f) Bit.PWR_LAT_LAT) ∧
      n ≤ s.fget Reg.PWR_CTL Bit.PWR_CTL_MAX_STATE
    meets s.targetState ∧ ∀ n : Fin 6, meets n → n.val ≤ s.targetState

/-- R349 ("It moves to a shallower target at once. It moves to a deeper target only after the target has stood unchanged for 1 ms."), R348, R351, R15. -/
def Obligations.PowerStateChanges : Prop :=
  (∀ s : State,
    (s.inReset = true ∨ s.posting ≠ none → Completes .pwrTargetEval s fun t => t.waking = s.waking ∧ t.exitTo = s.exitTo ∧
      t.pwrTarget = s.pwrTarget ∧ Only s t []) ∧
    (s.inReset = false → s.posting = none → Completes .pwrTargetEval s fun t => Only s t [] ∧
      (s.waking = true → t.waking = true ∧ t.exitTo = min s.exitTo s.targetState ∧ t.pwrTarget = s.pwrTarget) ∧
      (s.waking = false → s.targetState < s.powerState → t.waking = true ∧ t.exitTo = s.targetState ∧ t.pwrTarget = none) ∧
      (s.waking = false → s.powerState < s.targetState → t.waking = false ∧
        t.pwrTarget = (if s.pwrTarget.map (·.1) = some s.targetState then s.pwrTarget else some (s.targetState, s.now))) ∧
      (s.waking = false → s.targetState = s.powerState → t.waking = false ∧ t.pwrTarget = none))) ∧
  (∀ (w f : FnId) (v : Word) (s : State),
    let u : State := s.wr (Reg.PWR_LAT f) (v.toNat % 2 ^ 24)
    s.Reaches (Reg.PWR_LAT f) → (w ≠ 0 → w ≠ f → exec (.pwrLatWrite w f v) s = .next s) ∧
    (w = 0 ∨ w = f → exec (.pwrLatWrite w f v) s = exec .pwrTargetEval u ∧
      Completes (.pwrLatWrite w f v) s fun t => t.rd (Reg.PWR_LAT f) = v.toNat % 2 ^ 24 ∧ Only s t [Reg.PWR_LAT f])) ∧
  (∀ s : State,
    (s.pwrTarget = none ∨ s.waking = true ∨ s.inReset = true ∨ s.now < (s.pwrTarget.getD (0, 0)).2 + 1000000 →
      exec .pwrDeeperTimer s = .next s) ∧
    (s.waking = false → s.inReset = false → s.pwrTarget ≠ none → (s.pwrTarget.getD (0, 0)).2 + 1000000 ≤ s.now →
      (s.pwrTarget.getD (0, 0)).1 ≠ s.targetState → exec .pwrDeeperTimer s = exec .pwrTargetEval s)) ∧
  (∀ (n since : Nat) (s : State), s.pwrTarget = some (n, since) → s.waking = false → s.inReset = false →
    since + 1000000 ≤ s.now → n = s.targetState → n ≤ 3 →
    Completes .pwrDeeperTimer s fun t => StandsIn t n ∧ Only s t (powerRegs s)) ∧
  (∀ (n since : Nat) (s : State), s.pwrTarget = some (n, since) → s.waking = false → s.inReset = false →
    since + 1000000 ≤ s.now → n = s.targetState → 4 ≤ n →
    Completes .pwrDeeperTimer s fun t => StandsIn t n ∧ t.mem = s.mem ∧
      (s.powerState < 4 → (∀ e ∈ t.plateMem, e.1 / 2 ^ 23 = 30) ∧ t.plateEpoch = s.plateEpoch + 1) ∧
      (4 ≤ s.powerState → Only s t (powerRegs s))) ∧
  (∀ s : State,
    (s.waking = false ∨ s.inReset = true ∨ s.powerState = 5 ∨ (s.powerState = 4 ∧ s.islandOn 2 = false) →
      exec .pwrExitDone s = .next s) ∧
    (s.waking = true → s.inReset = false → s.powerState ≤ 3 ∨ (s.powerState = 4 ∧ s.islandOn 2 = true) → s.held = [] →
      s.thermal.driveWait = none →
      Completes .pwrExitDone s fun t => t.waking = false ∧ t.powerState = min s.exitTo s.powerState ∧
        (∀ i : IslandId, t.islandOn i = islandPowered (min s.exitTo s.powerState) i) ∧ SameViews s t ∧ SameMemory s t ∧
        (s.exitTo = 0 → t.thermal.shedWait = 0 ∧ t.thermal.swapWait = [] ∧ t.swaps.length = s.swaps.length + s.thermal.swapWait.length) ∧
        (s.powerState ≤ 3 → SameRegs s t (powerRegs s ++ if s.exitTo = 0 ∧ s.thermal.swapWait ≠ [] then
          [Reg.SYS_PIPE_SWAP_STATUS, Reg.SYS_SPARE_STATUS, Reg.SYS_SELFTEST] else [])))) ∧
  (∀ (i : IslandId) (s : State),
    (s.waking = false ∨ s.islandOn i = true ∨ i.val ∈ s.reloaded → exec (.replicaReloadDone i) s = .next s) ∧
    (s.waking = true → s.islandOn i = false → i.val ∉ s.reloaded → exec (.replicaReloadDone i) s = .next { s with
      reloaded := i.val :: s.reloaded, fresh := s.fresh + 1,
      heldOccs := s.heldOccs.filter (fun o => decide (o.island ≠ i.val)),
      occs := s.occs ++ (s.heldOccs.filter (fun o => decide (o.island = i.val))).map
        fun o => { o with time := s.replica o.island } }))

/-- R355, R356, R358, R359, R360. The truncation of the ageing sum is the model's (its log entry). -/
def Obligations.ThermalAndLifetime : Prop :=
  (∀ (v : BitVec 192) (s : State),
    (s.tripped = true → exec (.thermalSample v) s = .next s) ∧
    (s.tripped = false → Completes (.thermalSample v) s fun t =>
      (∀ i : Fin 16, t.rd (Reg.THM_SENSOR i) = v.toNat / 2 ^ (12 * i.val) % 2 ^ 12) ∧
      (∃ k : Fin 16, t.fget Reg.THM_STATUS Bit.THM_STATUS_TJ = v.toNat / 2 ^ (12 * k.val) % 2 ^ 12 ∧
        (∀ j : Fin 16, tempOf v j ≤ tempOf v k) ∧ (t.tripped = true ↔ 8 * 115 ≤ tempOf v k) ∧
        (8 * 95 ≤ tempOf v k → tempOf v k < 8 * 115 → t.thermal.hot = true)) ∧
      (t.tripped = false → Only s t (Reg.THM_STATUS :: (List.range 16).map Reg.THM_SENSOR)))) ∧
  (∀ (v : BitVec 192) (s : State),
    let T : Int := tempOf v (hottest v)
    let x : Thermal := s.thermal
    let step : List Nat := (List.range 128).filter fun h => s.headRunning h && !s.isShed h &&
      ((List.range 128).all fun k => !s.headRunning k || s.isShed k || decide (hdf s.active h Hd.SHED_RANK ≤ hdf s.active k Hd.SHED_RANK))
    let shed : Bool := decide (8 * 105 ≤ T) && stood x.hot105 s.now 100000000
    let back : Bool := decide (T < 8 * 100) && s.fbit Reg.THM_CTL Bit.THM_CTL_AUTO_RESTORE && stood x.cool100 s.now 1000000000
    s.tripped = false → T < 8 * 115 → Completes (.thermalSample v) s fun t =>
      (T < 8 * 95 → t.thermal.hot = (x.hot && !(decide (T < 8 * 92) && stood x.cool92 s.now 10000000))) ∧
      (shed = true → s.powerState < 2 → t.shedSteps = (if step = [] then s.shedSteps else step :: s.shedSteps)) ∧
      (shed = true → 2 ≤ s.powerState → t.shedSteps = s.shedSteps ∧ t.thermal.shedWait = x.shedWait + 1 ∧ t.waking = true ∧ t.exitTo = 0) ∧
      (shed = false → back = true → t.shedSteps = s.shedSteps.tail) ∧ (shed = false → back = false → t.shedSteps = s.shedSteps)) ∧
  (∀ (v : BitVec 192) (s : State),
    let T : Int := tempOf v (hottest v)
    let a : Int := 8 * (s.fget Reg.THM_CTL Bit.THM_CTL_ALARM_C : Nat)
    s.tripped = false → T < 8 * 115 → s.islandOn 0 = true → Completes (.thermalSample v) s fun t =>
      t.occs = s.occs ++ (if s.junction < a ∧ a ≤ T then [⟨5527, 1, hottest v, s.now, 0⟩] else []) ++
        (if a - 24 < s.junction ∧ T ≤ a - 24 then [⟨5527, 2, hottest v, s.now, 0⟩] else []) ∧
      (s.junction < a → a ≤ T → t.fget Reg.THM_STATUS Bit.THM_STATUS_ALARM = 1)) ∧
  (∀ s : State,
    (s.fbit Reg.THM_STATUS Bit.THM_STATUS_IMON = true ∨ s.inReset = true → exec .imonAlertAssert s = .next s) ∧
    (s.fbit Reg.THM_STATUS Bit.THM_STATUS_IMON = false → s.inReset = false →
      exec .imonAlertAssert s = .next ((s.fset Reg.THM_STATUS Bit.THM_STATUS_IMON 1).raise 5528 1 0 0))) ∧
  (∀ s : State,
    (s.fbit Reg.THM_STATUS Bit.THM_STATUS_IMON = false → exec .imonAlertDeassert s = .next s) ∧
    (s.fbit Reg.THM_STATUS Bit.THM_STATUS_IMON = true →
      exec .imonAlertDeassert s = .next (
        let t := (s.fset Reg.THM_STATUS Bit.THM_STATUS_IMON 0).raise 5528 2 0 0
        { t with thermal := { t.thermal with imonEnd := t.now + 1000000 } }))) ∧
  (∀ s : State, s.Reaches Reg.THM_SHED →
    exec .restore s = .next { s with shedSteps := s.shedSteps.tail } ∧ exec .restoreAll s = .next { s with shedSteps := [] }) ∧
  (∀ s : State,
    (s.inReset = true → exec .lifeTick s = .next s) ∧
    (s.inReset = false → Completes .lifeTick s fun t =>
      t.thermal.life = s.thermal.life + ageing s.junction ∧ t.thermal.seconds = s.thermal.seconds + 1 ∧
      t.rd Reg.THM_LIFE = min (t.thermal.life / (3600 * 2 ^ 32)) (2 ^ 32 - 1) ∧
      t.thermal.saved = (if t.thermal.seconds % 3600 = 0 then t.rd Reg.THM_LIFE else s.thermal.saved) ∧
      Only s t [Reg.THM_LIFE]))

/-- R362 (how a swap starts and is refused), R363 step 3, R364. Codes 8 and 9 are those of R123. -/
def Obligations.SparePipes : Prop :=
  (∀ (p : PipeId) (h : HeadId) (y x : Fin 16384) (s : State),
    let n : Nat := (tabGet s.pipeCe p).getD 0 + 1
    let limit : Nat := s.fget Reg.SYS_PIPE_CTL Bit.SYS_PIPE_CTL_CE_THRESHOLD
    let allowed : Bool := s.maySwap p
    (limit = 0 ∨ n < limit ∨ allowed = false → exec (.pipeCheckFail p h y x false) s = .next { s with pipeCe := tabPut p n s.pipeCe }) ∧
    (limit ≠ 0 → limit ≤ n → allowed = true → Completes (.pipeCheckFail p h y x false) s fun t =>
      (s.powerState < 2 → SwapStarted s t p 0) ∧ (2 ≤ s.powerState → SwapWaits s t p false)) ∧
    (allowed = true ↔ p.val % 9 ≠ 8 ∧ s.pipeRole p = 0 ∧ s.spareUsed_ (p / 9 * 9 + 8) = false ∧ s.testing ≠ some (p / 9 * 9 + 8) ∧
      ∀ e ∈ s.thermal.swapWait, e.1 / 9 ≠ p / 9)) ∧
  (∀ (p : PipeId) (h : HeadId) (y x : Fin 16384) (s : State),
    (SwapFree s p → Completes (.pipeCheckFail p h y x true) s fun t =>
      (s.powerState < 2 → SwapStarted s t p 1) ∧ (2 ≤ s.powerState → SwapWaits s t p true)) ∧
    (p.val % 9 = 8 ∨ ((∀ z ∈ s.swaps, z.pipe ≠ p) ∧ s.thermal.swapWait = [] ∧ s.spareUsed_ (p / 9 * 9 + 8) = true) →
      Completes (.pipeCheckFail p h y x true) s fun t => t.pipeRole p = 2 ∧ t.swaps = s.swaps ∧ Only s t []) ∧
    (p.val % 9 ≠ 8 → (∃ z ∈ s.swaps, z.pipe = p) → Completes (.pipeCheckFail p h y x true) s fun t =>
      (∀ z ∈ t.swaps, z.pipe = p → z.fault = true) ∧ t.swaps.length = s.swaps.length ∧
      t.fget Reg.SYS_PIPE_SWAP_STATUS Bit.SYS_PIPE_SWAP_STATUS_FAULT = 1 ∧ Only s t [Reg.SYS_PIPE_SWAP_STATUS])) ∧
  (∀ (p : PipeId) (h : HeadId) (y x : Fin 16384) (s : State),
    Completes (.pipeCheckFail p h y x true) s fun t => t.frameRun h =
      if s.headRunning h = true ∧ s.pipeServes s.active h p = true then
        { s.frameRun h with patches := (y.val, x.val / 2 * 2) :: (s.frameRun h).patches, flags := (s.frameRun h).flags ||| 1 }
      else s.frameRun h) ∧
  (∀ (p : Fin 64) (s : State),
    let bad : Bool := decide (36 ≤ p.val ∨ p.val % 9 = 8 ∨ s.pipeRole p ≠ 0)
    let busy : Bool := decide ((∃ z ∈ s.swaps, z.spare = p.val / 9 * 9 + 8) ∨ (∃ e ∈ s.thermal.swapWait, e.1 / 9 = p.val / 9) ∨
      s.testing = some (p.val / 9 * 9 + 8))
    s.Reaches Reg.SYS_PIPE_SWAP_REQ →
    (bad = true → exec (.pipeSwapReq p) s = .next (swapRefused s 9)) ∧
    (bad = false → busy = true → exec (.pipeSwapReq p) s = .next (swapRefused s 8)) ∧
    (bad = false → busy = false → s.spareUsed_ (p.val / 9 * 9 + 8) = true → exec (.pipeSwapReq p) s = .next (swapRefused s 9)) ∧
    (bad = false → busy = false → s.spareUsed_ (p.val / 9 * 9 + 8) = false → Completes (.pipeSwapReq p) s fun t =>
      (s.powerState < 2 → SwapStarted s t p 0) ∧ (2 ≤ s.powerState → SwapWaits s t p false))) ∧
  (∀ (p : PipeId) (z : Swap) (s : State), s.swaps = [z] → z.pipe = p.val → s.islandOn 0 = true →
    (∀ h : HeadId, s.headRunning h = false ∨ p.val ∉ pipesOf s.active h) →
    Completes (.pipeSpareLoaded p) s fun t =>
      t.swaps = [] ∧ tabGet t.pipeSubst p = some z.spare ∧ t.pipeRole p = (if z.fault then 3 else s.pipeRole p) ∧
      t.fget Reg.SYS_PIPE_SWAP_STATUS Bit.SYS_PIPE_SWAP_STATUS_DONE = 1 ∧
      t.fget Reg.SYS_PIPE_SWAP_STATUS Bit.SYS_PIPE_SWAP_STATUS_BUSY = 0 ∧
      t.occs = s.occs ++ [⟨5538, 1, 0, s.now, 0⟩] ∧ Only s t [Reg.SYS_PIPE_SWAP_STATUS]) ∧
  (∀ (p : PipeId) (s : State),
    (∀ z ∈ s.swaps, (z.loaded = false ∧ z.pipe ≠ p.val) ∨ ∃ h : HeadId, s.headRunning h = true ∧ z.pipe ∈ pipesOf s.active h ∧ h.val ∉ z.moved) →
    exec (.pipeSpareLoaded p) s =
      .next { s with swaps := s.swaps.map fun z => if z.pipe = p.val then { z with loaded := true } else z })

/-- R119, R368, R371, R372, R374, R376, R378, R379, R381, R382, R397, R398. What Safe Station answers past the words of R379 is the model's. -/
def Obligations.StartUpAndSafeStation : Prop :=
  (∀ (t0 : Nat) (r : PostReport) (s : State), s.posting = some t0 → s.inReset = false → s.perst = false →
    (∀ f, postFailure r (s.rd Reg.SYS_STRAP) (rollbackOf s) = some f → Completes (.postEnd r) s fun t =>
      Failed t (recordOf f) ∧ t.posting = none ∧ (t.fn 0).ready = true ∧ Only s t (Reg.SYS_POST :: failRegs))) ∧
  (∀ (r : PostReport) (strap counter : Nat),
    let told : List PostFail := r.failures.filter fun f => decide (f.stage ∈ [1, 2, 4, 5, 6, 7, 9])
    (2 ≤ strap % 4 → (∀ f ∈ told, f.stage ≠ 1) → postFailure r strap counter = some ⟨8, 1, 0, 0⟩) ∧
    (2 ≤ strap % 4 → ∀ f, postFailure r strap counter = some f → f.stage = 1 ∨ f.stage = 8) ∧
    (strap % 4 < 2 → (postFailure r strap counter = none ↔
      told = [] ∧ (r.imageA.cause counter = 0 ∨ r.imageB.cause counter = 0))) ∧
    (strap % 4 < 2 → ∀ f, postFailure r strap counter = some f → (∀ g ∈ told, f.stage ≤ g.stage) ∧
      (f ∈ told ∨ f = ⟨3, BitVec.ofNat 8 (if strap % 2 = 1 then r.imageA.cause counter else r.imageB.cause counter), 0,
        BitVec.ofNat 32 (r.imageA.cause counter + 256 * r.imageB.cause counter)⟩))) ∧
  (∀ (t0 : Nat) (r : PostReport) (s : State), s.posting = some t0 → s.inReset = false → s.perst = false →
    postFailure r (s.rd Reg.SYS_STRAP) (rollbackOf s) = none → r.lost = [] → s.flashLog = [] → r.found = [] → r.fused = [] →
    r.quads = [] → r.fmax = [] → s.thermal.saved < 2 ^ 32 →
    Completes (.postEnd r) s fun t => t.posting = none ∧ (t.fn 0).ready = true ∧ t.safe = s.safe ∧ t.rd Reg.THM_LIFE = s.thermal.saved ∧
      (t.fbit Reg.SYS_POST Bit.SYS_POST_IMAGE = true ↔
        (if s.rd Reg.SYS_STRAP % 2 = 1 then r.imageB.cause (rollbackOf s) = 0 else r.imageA.cause (rollbackOf s) ≠ 0)) ∧
      (∀ p : PlateId, t.fget (Reg.PST_OWN p) Bit.PST_OWN_OWNER = firstOwner p) ∧
      t.fbit Reg.SYS_MEM_CFG Bit.SYS_MEM_CFG_ECC_EN = r.ecc ∧ t.fbit Reg.SYS_MEM_CFG Bit.SYS_MEM_CFG_DENSITY = r.density ∧
      t.fbit Reg.SYS_MEM_CFG Bit.SYS_MEM_CFG_CLAMSHELL = r.clamshell ∧ t.fget Reg.SYS_MEM_CFG Bit.SYS_MEM_CFG_RATE = r.rate.toNat ∧
      t.fget Reg.SYS_MEM_CFG Bit.SYS_MEM_CFG_VALID_PAGES = validCount r.density r.clamshell r.ecc ∧
      Only s t ([Reg.SYS_POST, Reg.THM_LIFE, Reg.SYS_FW_VER, Reg.SYS_MEM_CFG, Reg.JRN_SEAL_STATUS, Reg.SYS_SPARE_STATUS,
        Reg.SYS_RETIRE_STATUS, Reg.PST_SUBST_STATUS] ++ (List.range 32).map Reg.PST_OWN)) ∧
  (∀ (r : PostReport) (s : State),
    (s.posting = none ∨ s.inReset = true ∨ s.perst = true → exec (.postEnd r) s = .next s) ∧
    (s.posting ≠ none → s.inReset = false → s.perst = false →
      postFailure r (s.rd Reg.SYS_STRAP) (rollbackOf s) = none → Completes (.postEnd r) s fun t => t.posting = none ∧ (t.fn 0).ready = true)) ∧
  (∀ (found : List (Fin 16 × Nat)) (s : State), s.waking = true → s.powerState = 4 → s.islandOn 2 = false → s.inReset = false →
    Completes (.shortPost none found) s fun t => (∀ i : IslandId, t.islandOn i = true) ∧ t.powerState = 4 ∧ t.waking = true ∧
      t.exitTo = (if found = [] then s.exitTo else 0) ∧ t.flashLog = s.flashLog ++ found.map (fun e => (e.1.val, e.2)) ∧
      t.jrn = s.jrn ∧ t.fns = s.fns ∧ t.sid = s.sid ∧ t.mem = s.mem ∧ t.poison = s.poison ∧
      (∀ q : SeqId, t.seq q = Seq.reset) ∧ (∀ h : HeadId, t.head h = State.reset.head h) ∧ t.active = [] ∧ t.shadow = [] ∧
      (∀ p : PlateId, t.fget (Reg.PST_OWN p) Bit.PST_OWN_OWNER = firstOwner p) ∧
      (∀ f : FnId, ∀ off ∈ [Reg.PCI_FN_LAYER f, Reg.PCI_FN_STREAM f, Reg.PCI_FN_DMA_LO f, Reg.PCI_FN_DMA_HI f, Reg.PCI_APT_BASE_LO f],
        t.rd off = s.rd off) ∧ (∀ h : HeadId, t.headFn h = s.headFn h)) ∧
  (∀ (f : PostFail) (found : List (Fin 16 × Nat)) (s : State), s.waking = true → s.powerState = 4 → s.islandOn 2 = false →
    s.inReset = false → Completes (.shortPost (some f) found) s fun t => Failed t (recordOf f) ∧ t.fns = s.fns ∧ t.sid = s.sid) ∧
  (∀ (f : Option PostFail) (found : List (Fin 16 × Nat)) (s : State),
    s.waking = false ∨ s.powerState ≠ 4 ∨ s.islandOn 2 = true ∨ s.inReset = true → exec (.shortPost f found) s = .next s) ∧
  (∀ (bus : Option SmBus) (u s : State) (op tag len : Nat), Takes s bus u op tag len →
    (op = 1 → Completes (.ssIdentify bus) s fun t => AnswersOnly u t bus tag 0 ∧
      t.ssData 16 = toBytes 4 (u.rd 0) ++ toBytes 4 (u.rd 4) ++ toBytes 4 (u.rd 8) ++ toBytes 4 (u.rd 12)) ∧
    (op = 2 → Completes (.ssReadFail bus) s fun t => AnswersOnly u t bus tag 0 ∧
      t.ssData 16 = toBytes 4 (u.rd 0x100) ++ toBytes 4 (u.rd 0x104) ++ toBytes 4 (u.rd 0x108) ++ toBytes 4 (u.rd 0x10C)) ∧
    (op = 6 → Completes (.ssReadSensors bus) s fun t => AnswersOnly u t bus tag 0 ∧
      t.fget Reg.SYS_SS_STATUS Bit.SYS_SS_STATUS_OUT_LEN = 68 ∧
      t.ssData 68 = (List.range 16).flatMap (fun k => toBytes 4 (u.rd (Reg.THM_SENSOR k))) ++ toBytes 4 (u.rd Reg.THM_LIFE)) ∧
    (op = 8 → Completes (.ssMemReport bus) s fun t => AnswersOnly u t bus tag (if u.rd Reg.SYS_SS_ARG0 ≤ 15 then 0 else 2)) ∧
    (op = 0 ∨ 8 < op → Completes (.ssBadOpcode bus) s fun t => AnswersOnly u t bus tag 1 ∧ t.flash = u.flash)) ∧
  (∀ (bus : Option SmBus) (u s : State) (op tag len : Nat), Takes s bus u op tag len → op = 3 →
    (u.rd Reg.SYS_SS_ARG1 ≤ 1024 → u.rd Reg.SYS_SS_ARG0 + u.rd Reg.SYS_SS_ARG1 ≤ 0x400000 → Completes (.ssReadFlash bus) s fun t =>
      AnswersOnly u t bus tag 0 ∧ t.fget Reg.SYS_SS_STATUS Bit.SYS_SS_STATUS_OUT_LEN = u.rd Reg.SYS_SS_ARG1 ∧
      t.ssData (u.rd Reg.SYS_SS_ARG1) = (List.range (u.rd Reg.SYS_SS_ARG1)).map fun k => u.flashByte (u.rd Reg.SYS_SS_ARG0 + k)) ∧
    (1024 < u.rd Reg.SYS_SS_ARG1 → Completes (.ssReadFlash bus) s fun t => AnswersOnly u t bus tag 2)) ∧
  (∀ (ok : Bool) (bus : Option SmBus) (u s : State) (op tag len : Nat),
    let a : Nat := u.rd Reg.SYS_SS_ARG0
    let ring : Bool := decide (0x200000 ≤ a) && decide (a < 0x300000)
    Takes s bus u op tag len → op = 4 →
    (ring = true → Completes (.ssEraseSector bus ok) s fun t => AnswersOnly u t bus tag 3 ∧ t.flash = u.flash) ∧
    (ring = false → a % 4096 ≠ 0 → Completes (.ssEraseSector bus ok) s fun t => AnswersOnly u t bus tag 2 ∧ t.flash = u.flash) ∧
    (ring = false → a % 4096 = 0 → a + 4096 ≤ 0x400000 → Completes (.ssEraseSector bus ok) s fun t =>
      AnswersOnly u t bus tag (if ok then 0 else 4) ∧ (ok = false → t.flash = u.flash) ∧
      (ok = true → FlashOutside u t a 4096 ∧ ∀ k < 4096, t.flashByte (a + k) = 0xFF))) ∧
  (∀ (ok : Bool) (bus : Option SmBus) (u s : State) (op tag len : Nat),
    let a : Nat := u.rd Reg.SYS_SS_ARG0
    let ring : Bool := decide (0x200000 ≤ a) && decide (a < 0x300000)
    Takes s bus u op tag len → op = 5 →
    (ring = true → Completes (.ssProgramFlash bus ok) s fun t => AnswersOnly u t bus tag 3 ∧ t.flash = u.flash) ∧
    (ring = false → 256 < a % 256 + len → Completes (.ssProgramFlash bus ok) s fun t => AnswersOnly u t bus tag 2 ∧ t.flash = u.flash) ∧
    (ring = false → a % 256 + len ≤ 256 → a + len ≤ 0x400000 → Completes (.ssProgramFlash bus ok) s fun t =>
      AnswersOnly u t bus tag (if ok then 0 else 4) ∧ (ok = false → t.flash = u.flash) ∧
      (ok = true → FlashOutside u t a len ∧
        ∀ k < len, t.flashByte (a + k) = (u.ssData len).getD k 0 &&& u.flashByte (a + k)))) ∧
  (∀ (faults : Fin 65536) (rows : List (Fin 16 × Fin 256)) (bus : Option SmBus) (u s : State) (op tag len : Nat),
    let site : Nat := u.rd Reg.SYS_SS_ARG0
    let alg : Nat := u.rd Reg.SYS_SS_ARG1
    Takes s bus u op tag len → op = 7 →
    (site ≤ 33 → alg ≤ 2 → Completes (.ssPlateMarch bus faults rows) s fun t => Answers u t bus tag 0 ∧
      t.ssData 8 = toBytes 4 faults.val ++ toBytes 4 (u.repairAll site (rows.map fun e => (e.1.val, e.2.val))).2 ∧
      (rows = [] → SameRegs u t (Reg.SYS_SS_STATUS :: (List.range 256).map Reg.SYS_SS_DATA)) ∧
      (∀ p : PlateId, u.fget (Reg.PST_OWN p) Bit.PST_OWN_SITE = site → ∀ k < 2 ^ 23,
        t.plateByte (p.val * 2 ^ 23 + k) = finalByte alg (k / 64)) ∧
      ((∀ p : PlateId, u.fget (Reg.PST_OWN p) Bit.PST_OWN_SITE ≠ site) → t.plateMem = u.plateMem ∧ t.platePoison = u.platePoison)) ∧
    (33 < site ∨ 2 < alg → Completes (.ssPlateMarch bus faults rows) s fun t => AnswersOnly u t bus tag 2)) ∧
  (∀ (bus : Option SmBus) (ok : Bool) (faults : Fin 65536) (rows : List (Fin 16 × Fin 256)) (s : State),
    (s.safe = false ∨ s.inReset = true ∨ (bus = none ∧ s.ssCmd = none) ∨
      (bus ≠ none ∧ (s.ssCmd ≠ none ∨ 1024 < (bus.map (·.data.length)).getD 0))) →
    exec (.ssIdentify bus) s = .next s ∧ exec (.ssReadFail bus) s = .next s ∧ exec (.ssReadFlash bus) s = .next s ∧
    exec (.ssEraseSector bus ok) s = .next s ∧ exec (.ssProgramFlash bus ok) s = .next s ∧ exec (.ssReadSensors bus) s = .next s ∧
    exec (.ssPlateMarch bus faults rows) s = .next s ∧ exec (.ssMemReport bus) s = .next s ∧ exec (.ssBadOpcode bus) s = .next s) ∧
  (∀ (ok : Bool) (faults : Fin 65536) (rows : List (Fin 16 × Fin 256)) (bus : Option SmBus) (u s : State) (op tag len : Nat),
    Takes s bus u op tag len →
    (op ≠ 1 → exec (.ssIdentify bus) s = .next s) ∧ (op ≠ 2 → exec (.ssReadFail bus) s = .next s) ∧
    (op ≠ 3 → exec (.ssReadFlash bus) s = .next s) ∧ (op ≠ 4 → exec (.ssEraseSector bus ok) s = .next s) ∧
    (op ≠ 5 → exec (.ssProgramFlash bus ok) s = .next s) ∧ (op ≠ 6 → exec (.ssReadSensors bus) s = .next s) ∧
    (op ≠ 7 → exec (.ssPlateMarch bus faults rows) s = .next s) ∧ (op ≠ 8 → exec (.ssMemReport bus) s = .next s) ∧
    (1 ≤ op → op ≤ 8 → exec (.ssBadOpcode bus) s = .next s)) ∧
  (∀ (w : Fin 131072) (code : Bool) (s : State),
    (31 * 2 ^ 23 + 64 * w.val ∈ s.platePoison → s.islandOn 5 = true → Completes (.stationPoisonRead w code) s fun t =>
      t.platePoison = s.platePoison.erase (31 * 2 ^ 23 + 64 * w.val) ∧ t.plateMem = s.plateMem ∧ t.mem = s.mem ∧
      t.stationDown = (code || s.stationDown) ∧
      t.fget Reg.SYS_POST Bit.SYS_POST_STATION_RESTARTS = (if code = true then
        min (s.fget Reg.SYS_POST Bit.SYS_POST_STATION_RESTARTS + 1) 255 else s.fget Reg.SYS_POST Bit.SYS_POST_STATION_RESTARTS) ∧
      SameRegs s t [Reg.SYS_POST] ∧ SameViews s t) ∧
    (31 * 2 ^ 23 + 64 * w.val ∉ s.platePoison ∨ s.islandOn 5 = false → exec (.stationPoisonRead w code) s = .next s)) ∧
  (∀ s : State, (s.stationDown = false → exec .stationRestartDone s = .next s) ∧
    (s.stationDown = true → Completes .stationRestartDone s fun t => t.stationDown = false ∧ t.doeWait = [] ∧
      t.hostTx.length = s.hostTx.length + s.doeWait.length ∧ Quiet s t)) ∧
  (∀ (p : Fin 64) (s : State),
    let bad : Bool := decide (36 ≤ p.val ∨ 2 ≤ s.pipeRole p)
    let serves : Bool := decide (Serves s p)
    s.Reaches Reg.SYS_SELFTEST →
    (bad = true → Completes (.selftestGo p) s fun t => TestRefused s t 9) ∧
    (bad = false → serves = true → Completes (.selftestGo p) s fun t => TestRefused s t 3) ∧
    (bad = false → serves = false → s.testing ≠ none → Completes (.selftestGo p) s fun t => TestRefused s t 7) ∧
    (bad = false → serves = false → s.testing = none → (∃ x ∈ s.swaps, x.spare = p.val / 9 * 9 + 8) →
      Completes (.selftestGo p) s fun t => TestRefused s t 8) ∧
    (bad = false → serves = false → s.testing = none → (∀ x ∈ s.swaps, x.spare ≠ p.val / 9 * 9 + 8) →
      Completes (.selftestGo p) s fun t => t.testing = some p.val ∧ t.fbit Reg.SYS_SELFTEST Bit.SYS_SELFTEST_BUSY = true ∧
        t.fget Reg.SYS_SELFTEST Bit.SYS_SELFTEST_PIPE = p.val ∧ Only s t [Reg.SYS_SELFTEST])) ∧
  (∀ (pass : Bool) (s : State), s.testing = none → exec (.selftestDone pass) s = .next s) ∧
  (∀ (pass : Bool) (p : Nat) (s : State), s.testing = some p → Completes (.selftestDone pass) s fun t => t.testing = none ∧
    t.fbit Reg.SYS_SELFTEST Bit.SYS_SELFTEST_BUSY = false ∧ t.fbit Reg.SYS_SELFTEST Bit.SYS_SELFTEST_DONE = true ∧
    t.fbit Reg.SYS_SELFTEST Bit.SYS_SELFTEST_PASS = pass ∧ (pass = true → t.pipeRoles = s.pipeRoles) ∧
    (pass = false → t.pipeRole p = 2) ∧
    (if pass = false ∧ p % 9 = 8 ∧ s.spareUsed_ p = false then
      t.fget Reg.SYS_SPARE_STATUS Bit.SYS_SPARE_STATUS_PIPES_FREE = s.fget Reg.SYS_SPARE_STATUS Bit.SYS_SPARE_STATUS_PIPES_FREE - 1
    else t.rd Reg.SYS_SPARE_STATUS = s.rd Reg.SYS_SPARE_STATUS) ∧
    Only s t [Reg.SYS_SELFTEST, Reg.SYS_SPARE_STATUS]) ∧
  (∀ (v : Word) (s : State), s.Reaches Reg.SYS_LOCK → Completes (.sysLockWrite v) s fun t =>
    t.fbit Reg.SYS_LOCK Bit.SYS_LOCK_LOCK = (v.getLsbD 0 || s.fbit Reg.SYS_LOCK Bit.SYS_LOCK_LOCK) ∧ Only s t [Reg.SYS_LOCK]) ∧
  (∀ (k : FnId) (s : State),
    let p : Nat := s.rd (Reg.VF_PMAP_SEL k)
    let mine : Bool := decide (s.fget (Reg.PMAP_ENTRY_LO p) Bit.PMAP_ENTRY_LO_FN = k.val)
    k ≠ 0 → s.safe = false → s.islandOn (islandOf (Reg.VF_PMAP_LO k)) = true →
    (s.earlierPending p = true → exec (.vfPmapSnapshot k) s = .next s) ∧
    (s.earlierPending p = false → Completes (.vfPmapSnapshot k) s fun t =>
      t.rd (Reg.VF_PMAP_LO k) = (if mine then s.pmapLo p else 0) % 2 ^ 32 ∧
      t.rd (Reg.VF_PMAP_HI k) = (if mine then s.rd (Reg.PMAP_ENTRY_HI p) else 0) ∧
      t.hostTx = s.hostTx ++ [.completion k (toBytes 4 (if mine then s.pmapLo p else 0)) false] ∧
      Only s t [Reg.VF_PMAP_LO k, Reg.VF_PMAP_HI k]))

/-- Every step keeps the canonical form of the three byte memories, which is the model's own (log entry 5): GDDR6 and the Plate Store list each address at most once in rising order, board flash moreover lists no erased byte. -/
def Obligations.EveryStepKeepsTheByteMemoriesCanonical : Prop :=
  ∀ s t : State, MemoriesCanonical s → step s = .next t → MemoriesCanonical t
end

