-- ==== Sys2Proof/Laws/Tables.lean ====
section
/-! SUPPORT. Laws of the sparse tables: reading after a write and after a deletion, and the canonical form, which both keep. -/

namespace Sys2Proof.Machine

variable {α : Type}

/-- The entry just set is read. -/
@[simp] theorem tabGet_tabPut_same (k : Nat) (v : α) (l : List (Nat × α)) : tabGet (tabPut k v l) k = some v := by
  induction l with
  | nil => simp [tabPut, tabGet]
  | cons e rest ih =>
    obtain ⟨k', v'⟩ := e
    simp only [tabPut]
    split
    · simp [tabGet]
    · split
      · simp [tabGet]
      · rename_i h; simp [tabGet, h, ih]

/-- Setting one entry leaves every other. -/
theorem tabGet_tabPut_other {k k' : Nat} (h : k' ≠ k) (v : α) (l : List (Nat × α)) :
    tabGet (tabPut k v l) k' = tabGet l k' := by
  induction l with
  | nil => simp [tabPut, tabGet, h.symm]
  | cons e rest ih =>
    obtain ⟨j, w⟩ := e
    simp only [tabPut]
    split
    · simp [tabGet, h.symm]
    · split
      · rename_i hj; simp [tabGet, hj, h.symm]
      · simp [tabGet, ih]

/-- A deleted entry is not read. -/
@[simp] theorem tabGet_tabDel_same (k : Nat) (l : List (Nat × α)) : tabGet (tabDel k l) k = none := by
  induction l with
  | nil => simp [tabDel, tabGet]
  | cons e rest ih =>
    obtain ⟨j, w⟩ := e
    by_cases hj : j = k
    · simpa [tabDel, hj] using ih
    · simp only [tabDel, List.filter, ne_eq, hj, not_false_eq_true, decide_true, tabGet, if_false]
      exact ih

/-- Deleting one entry leaves every other. -/
theorem tabGet_tabDel_other {k k' : Nat} (h : k' ≠ k) (l : List (Nat × α)) : tabGet (tabDel k l) k' = tabGet l k' := by
  induction l with
  | nil => simp [tabDel]
  | cons e rest ih =>
    obtain ⟨j, w⟩ := e
    by_cases hj : j = k
    · simp only [tabDel, List.filter, ne_eq, hj, not_true_eq_false, decide_false, tabGet, h.symm, if_false]
      exact ih
    · simp only [tabDel, List.filter, ne_eq, hj, not_false_eq_true, decide_true, tabGet]
      split
      · rfl
      · exact ih

/-- Keys of a table that rises, above a bound. -/
theorem tabSorted_cons (e : Nat × α) (l : List (Nat × α)) :
    tabSorted (e :: l) = true ↔ (∀ x ∈ l, e.1 < x.1) ∧ tabSorted l = true := by
  induction l generalizing e with
  | nil => simp [tabSorted]
  | cons x rest ih =>
    obtain ⟨k, v⟩ := e
    obtain ⟨j, w⟩ := x
    constructor
    · intro h
      simp only [tabSorted, Bool.and_eq_true, decide_eq_true_eq] at h
      obtain ⟨hkj, hrest⟩ := h
      have h2 := (ih (j, w)).1 (by simpa [tabSorted] using hrest)
      refine ⟨?_, by simpa [tabSorted] using hrest⟩
      intro y hy
      rcases List.mem_cons.1 hy with rfl | hy
      · exact hkj
      · exact Nat.lt_trans hkj (h2.1 y hy)
    · intro h
      simp only [tabSorted, Bool.and_eq_true, decide_eq_true_eq]
      refine ⟨h.1 (j, w) (by simp), by simpa [tabSorted] using h.2⟩

/-- Members of a table with an entry set. -/
theorem mem_tabPut {k : Nat} {v : α} {l : List (Nat × α)} {x : Nat × α} (h : x ∈ tabPut k v l) :
    x = (k, v) ∨ x ∈ l := by
  induction l with
  | nil => simpa [tabPut] using h
  | cons e rest ih =>
    obtain ⟨j, w⟩ := e
    simp only [tabPut] at h
    split at h
    · simpa using h
    · split at h
      · rcases List.mem_cons.1 h with h | h
        · exact .inl h
        · exact .inr (List.mem_cons_of_mem _ h)
      · rcases List.mem_cons.1 h with h | h
        · exact .inr (h ▸ List.mem_cons_self)
        · rcases ih h with h | h
          · exact .inl h
          · exact .inr (List.mem_cons_of_mem _ h)

/-- Setting an entry keeps the canonical form. -/
theorem tabPut_sorted (k : Nat) (v : α) {l : List (Nat × α)} (h : tabSorted l = true) : tabSorted (tabPut k v l) = true := by
  induction l with
  | nil => rfl
  | cons e rest ih =>
    obtain ⟨j, w⟩ := e
    obtain ⟨hall, hrest⟩ := (tabSorted_cons _ _).1 h
    simp only [tabPut]
    split
    · rename_i hk
      refine (tabSorted_cons _ _).2 ⟨?_, h⟩
      intro x hx
      rcases List.mem_cons.1 hx with rfl | hx
      · exact hk
      · exact Nat.lt_trans hk (hall x hx)
    · split
      · rename_i hk
        exact (tabSorted_cons _ _).2 ⟨fun x hx => hk ▸ hall x hx, hrest⟩
      · rename_i hn hk
        refine (tabSorted_cons _ _).2 ⟨?_, ih hrest⟩
        intro x hx
        rcases mem_tabPut hx with rfl | hx
        · exact Nat.lt_of_le_of_ne (Nat.le_of_not_lt hn) hk
        · exact hall x hx

/-- Deleting an entry keeps the canonical form. -/
theorem tabDel_sorted (k : Nat) {l : List (Nat × α)} (h : tabSorted l = true) : tabSorted (tabDel k l) = true := by
  induction l with
  | nil => rfl
  | cons e rest ih =>
    obtain ⟨hall, hrest⟩ := (tabSorted_cons _ _).1 h
    by_cases he : e.1 = k
    · simpa [tabDel, he] using ih hrest
    · have : tabDel k (e :: rest) = e :: tabDel k rest := by simp [tabDel, he]
      rw [this]
      refine (tabSorted_cons _ _).2 ⟨fun x hx => hall x ?_, ih hrest⟩
      exact (List.mem_filter.1 hx).1

end Sys2Proof.Machine
end

