-- ==== Sys2Proof/Laws/Memory.lean ====
section
/-! SUPPORT. The byte memories (GDDR6, the Plate Store, board flash) stay in canonical form: one lemma for each operation of the
machine that answers a state. -/

namespace Sys2Proof.Machine

set_option linter.all false
set_option Elab.async false

/-- The byte memories of the machine are in canonical form. -/
def MemOk (s : State) : Prop := Memory.wf s.mem = true ∧ Memory.wf s.plateMem = true ∧ flashWf s.flash = true
/-- What an outcome leaves is in canonical form. -/
def OutOk (r : Result) : Prop := ∀ t, r = .next t → MemOk t

theorem next_ok {s : State} (h : MemOk s) : OutOk (.next s) := by
  intro t e; cases e; exact h
theorem ok_of {s t : State} (h1 : t.mem = s.mem) (h2 : t.plateMem = s.plateMem) (h3 : t.flash = s.flash) (h : MemOk s) :
    MemOk t := by
  unfold MemOk at *; rw [h1, h2, h3]; exact h
/-- A state given field by field: only its byte memories count. -/
theorem mk_ok {v0 v1 v2 v3 v4 v5 v6 v7 v8 v9 v10 v11 v12 v13 v14 v15 v16 v17 v18 v19 v20 v21 v22 v23 v24 v25 v26 v27 v28 v29 v30 v31
    v32 v33 v34 v35 v36 v37 v38 v39 v40 v41 v42 v43 v44 v45 v46 v47 v48 v49 v50 v51 v52 v53 v54 v55 v56 v57 v58 v59 v60
    v61 v62 v63 v64 v65 v66 v67 v68 v69 v70 v71 v72 v73 v74 v75 v76 v77 v78 v79 v80 v81 v82 v83 v84 v85 v86 v87 v88 v89
    v90 v91 v92 v93 v94 v95 v96 v97 v98 v99 v100 v101 v102 v103 v104 v105 v106 v107 v108 v109 v110 v111 v112 v113 v114
    v115 v116 v117 v118 v119 v120 v121}
    (h : Memory.wf v5 = true ∧ Memory.wf v81 = true ∧ flashWf v80 = true) :
    MemOk (State.mk v0 v1 v2 v3 v4 v5 v6 v7 v8 v9 v10 v11 v12 v13 v14 v15 v16 v17 v18 v19 v20 v21 v22 v23 v24 v25 v26 v27 v28 v29 v30 v31
    v32 v33 v34 v35 v36 v37 v38 v39 v40 v41 v42 v43 v44 v45 v46 v47 v48 v49 v50 v51 v52 v53 v54 v55 v56 v57 v58 v59 v60
    v61 v62 v63 v64 v65 v66 v67 v68 v69 v70 v71 v72 v73 v74 v75 v76 v77 v78 v79 v80 v81 v82 v83 v84 v85 v86 v87 v88 v89
    v90 v91 v92 v93 v94 v95 v96 v97 v98 v99 v100 v101 v102 v103 v104 v105 v106 v107 v108 v109 v110 v111 v112 v113 v114
    v115 v116 v117 v118 v119 v120 v121) := h
/-- A state given field by field is canonical as its byte memories are. -/
theorem mk_ok_iff {v0 v1 v2 v3 v4 v5 v6 v7 v8 v9 v10 v11 v12 v13 v14 v15 v16 v17 v18 v19 v20 v21 v22 v23 v24 v25 v26 v27 v28 v29 v30 v31
    v32 v33 v34 v35 v36 v37 v38 v39 v40 v41 v42 v43 v44 v45 v46 v47 v48 v49 v50 v51 v52 v53 v54 v55 v56 v57 v58 v59 v60
    v61 v62 v63 v64 v65 v66 v67 v68 v69 v70 v71 v72 v73 v74 v75 v76 v77 v78 v79 v80 v81 v82 v83 v84 v85 v86 v87 v88 v89
    v90 v91 v92 v93 v94 v95 v96 v97 v98 v99 v100 v101 v102 v103 v104 v105 v106 v107 v108 v109 v110 v111 v112 v113 v114
    v115 v116 v117 v118 v119 v120 v121}
    : MemOk (State.mk v0 v1 v2 v3 v4 v5 v6 v7 v8 v9 v10 v11 v12 v13 v14 v15 v16 v17 v18 v19 v20 v21 v22 v23 v24 v25 v26 v27 v28 v29 v30 v31
    v32 v33 v34 v35 v36 v37 v38 v39 v40 v41 v42 v43 v44 v45 v46 v47 v48 v49 v50 v51 v52 v53 v54 v55 v56 v57 v58 v59 v60
    v61 v62 v63 v64 v65 v66 v67 v68 v69 v70 v71 v72 v73 v74 v75 v76 v77 v78 v79 v80 v81 v82 v83 v84 v85 v86 v87 v88 v89
    v90 v91 v92 v93 v94 v95 v96 v97 v98 v99 v100 v101 v102 v103 v104 v105 v106 v107 v108 v109 v110 v111 v112 v113 v114
    v115 v116 v117 v118 v119 v120 v121) = (Memory.wf v5 = true ∧ Memory.wf v81 = true ∧ flashWf v80 = true) := rfl
/-- The byte memories of a state, taken from it. -/
theorem MemOk.parts {s : State} (h : MemOk s) :
    Memory.wf s.mem = true ∧ Memory.wf s.plateMem = true ∧ flashWf s.flash = true := h
theorem ite_ok {c : Prop} [Decidable c] {a b : State} (ha : MemOk a) (hb : MemOk b) : MemOk (if c then a else b) := by
  split <;> assumption
theorem elim_ok {α : Type} {o : Option α} {s : State} {f : α → State} (h : MemOk s) (hf : ∀ a, MemOk (f a)) :
    MemOk (o.elim s f) := by
  cases o
  · exact h
  · exact hf _
theorem getD_ok {o : Option State} {s : State} (h : MemOk s) (ho : ∀ t, o = some t → MemOk t) : MemOk (o.getD s) := by
  cases o
  · exact h
  · exact ho _ rfl
theorem foldl_ok {β : Type} {f : State → β → State} (h : ∀ s b, MemOk s → MemOk (f s b)) (l : List β) {s : State}
    (hs : MemOk s) : MemOk (l.foldl f s) := by
  induction l generalizing s with
  | nil => exact hs
  | cons b l ih => exact ih (h s b hs)
theorem memWrite_wf {m : List Host.Cell} (h : Memory.wf m = true) (a : Nat) (b : List Byte) :
    Memory.wf (memWrite m a b) = true := by
  induction b generalizing m a with
  | nil => exact h
  | cons x b ih => exact ih (tabPut_sorted a x h) (a + 1)
/-- Bytes written leave every address outside them. -/
theorem memWrite_outside (m : List Host.Cell) (a : Nat) (b : List Byte) {x : Nat} (h : x < a ∨ a + b.length ≤ x) :
    tabGet (memWrite m a b) x = tabGet m x := by
  induction b generalizing m a with
  | nil => rfl
  | cons v b ih =>
    rw [List.length_cons] at h
    exact (ih (tabPut a v m) (a + 1) (by omega)).trans (tabGet_tabPut_other (by omega) v m)
/-- Bytes written are read back. -/
theorem memWrite_inside (m : List Host.Cell) (a : Nat) (b : List Byte) {k : Nat} (h : k < b.length) :
    tabGet (memWrite m a b) (a + k) = some b[k] := by
  induction b generalizing m a k with
  | nil => exact absurd h (Nat.not_lt_zero _)
  | cons v b ih =>
    cases k with
    | zero => exact (memWrite_outside _ _ b (by omega)).trans (tabGet_tabPut_same a v m)
    | succ k =>
      have := ih (tabPut a v m) (a + 1) (k := k) (Nat.lt_of_succ_lt_succ h)
      rw [show a + (k + 1) = a + 1 + k by omega]
      exact this
theorem State.putBytes_ok {s : State} (h : MemOk s) (p : Nat) (b : List Byte) : MemOk (s.putBytes p b) := by
  unfold putBytes
  dsimp only
  split
  · exact ⟨memWrite_wf (memWrite_wf h.1 _ _) _ _, h.2⟩
  · exact ⟨memWrite_wf h.1 _ _, h.2⟩
theorem filter_sorted {m : List Host.Cell} (f : Host.Cell → Bool) (h : tabSorted m = true) : tabSorted (m.filter f) = true := by
  induction m with
  | nil => rfl
  | cons e rest ih =>
    obtain ⟨hall, hrest⟩ := (tabSorted_cons _ _).1 h
    rw [List.filter_cons]
    split
    · exact (tabSorted_cons _ _).2 ⟨fun x hx => hall x (List.mem_filter.1 hx).1, ih hrest⟩
    · exact ih hrest
theorem flashWf_iff {m : List Host.Cell} : flashWf m = true ↔ tabSorted m = true ∧ ∀ e ∈ m, e.2 ≠ (0xFF : Byte) := by
  simp [flashWf, List.all_eq_true]
theorem flashErase_wf {m : List Host.Cell} (h : flashWf m = true) (a n : Nat) : flashWf (flashErase m a n) = true := by
  rw [flashWf_iff] at *
  exact ⟨filter_sorted _ h.1, fun e he => h.2 e (List.mem_filter.1 he).1⟩
theorem flashPut_wf {m : List Host.Cell} (h : flashWf m = true) (a : Nat) (b : Byte) : flashWf (flashPut m a b) = true := by
  rw [flashWf_iff] at *
  unfold flashPut
  split
  · exact ⟨tabDel_sorted a h.1, fun e he => h.2 e (List.mem_filter.1 he).1⟩
  · rename_i hb
    refine ⟨tabPut_sorted a b h.1, fun e he => ?_⟩
    rcases mem_tabPut he with rfl | he
    · exact hb
    · exact h.2 e he
theorem flashProgram_wf {m : List Host.Cell} (h : flashWf m = true) (a : Nat) (b : List Byte) :
    flashWf (flashProgram m a b) = true := by
  induction b generalizing m a with
  | nil => exact h
  | cons x b ih => exact ih (flashPut_wf h a _) (a + 1)
theorem foldl_wf {β : Type} {f : List Host.Cell → β → List Host.Cell} (hf : ∀ m b, Memory.wf m = true → Memory.wf (f m b) = true)
    (l : List β) {m : List Host.Cell} (hm : Memory.wf m = true) : Memory.wf (l.foldl f m) = true := by
  induction l generalizing m with
  | nil => exact hm
  | cons x l ih => exact ih (hf m x hm)
theorem setPlateMem_ok {s t : State} (h : MemOk s) (h1 : t.mem = s.mem) (h2 : Memory.wf t.plateMem = true) (h3 : t.flash = s.flash) :
    MemOk t := by
  unfold MemOk
  rw [h1, h3]
  exact ⟨h.1, h2, h.2.2⟩
/-- What an optional state leaves is in canonical form. -/
def OptOk (o : Option State) : Prop := ∀ t, o = some t → MemOk t
theorem some_ok {s : State} (h : MemOk s) : OptOk (some s) := by
  intro t e; cases e; exact h
theorem none_ok : OptOk none := fun _ e => (Option.some_ne_none _ e.symm).elim
theorem iteOpt_ok {c : Prop} [Decidable c] {a b : Option State} (ha : OptOk a) (hb : OptOk b) : OptOk (if c then a else b) := by
  split <;> assumption
theorem diteOpt_ok {c : Prop} [Decidable c] {a : c → Option State} {b : ¬c → Option State} (ha : ∀ h, OptOk (a h))
    (hb : ∀ h, OptOk (b h)) : OptOk (dite c a b) := by
  split
  · exact ha _
  · exact hb _
theorem State.wr_ok {s : State} {a0} {a1} (h : MemOk s) : MemOk (State.wr s a0 a1) := by
  unfold State.wr; repeat' first
    | with_reducible assumption | with_reducible apply ite_ok | (with_reducible refine foldl_ok (fun _ _ _ => ?_) _ ?_)
    | intro _ | split | (with_reducible apply mk_ok) | (with_reducible apply MemOk.parts) | dsimp only
theorem State.fset_ok {s : State} {a0} {a1} {a2} (h : MemOk s) : MemOk (State.fset s a0 a1 a2) := by
  unfold State.fset; with_reducible first | exact h | exact mk_ok h | exact State.wr_ok h
theorem State.fsat_ok {s : State} {a0} {a1} (h : MemOk s) : MemOk (State.fsat s a0 a1) := by
  unfold State.fsat; repeat' first
    | with_reducible assumption | with_reducible apply State.fset_ok | with_reducible apply ite_ok
    | (with_reducible refine foldl_ok (fun _ _ _ => ?_) _ ?_) | intro _ | split | (with_reducible apply mk_ok)
    | (with_reducible apply MemOk.parts) | dsimp only
theorem State.finc_ok {s : State} {a0} {a1} (h : MemOk s) : MemOk (State.finc s a0 a1) := by
  unfold State.finc; repeat' first
    | with_reducible assumption | with_reducible apply State.fset_ok | with_reducible apply ite_ok
    | (with_reducible refine foldl_ok (fun _ _ _ => ?_) _ ?_) | intro _ | split | (with_reducible apply mk_ok)
    | (with_reducible apply MemOk.parts) | dsimp only
theorem State.markTick_ok {s : State} {a0} {a1} (h : MemOk s) : MemOk (State.markTick s a0 a1) := by
  unfold State.markTick; repeat' first
    | with_reducible assumption | with_reducible apply ite_ok | with_reducible apply elim_ok
    | (with_reducible refine foldl_ok (fun _ _ _ => ?_) _ ?_) | intro _
    | (simp only [↓mk_ok_iff]; with_reducible refine MemOk.parts ?_) | split | dsimp only
theorem State.draw_ok {s : State} (h : MemOk s) : MemOk (State.draw s) := by
  unfold State.draw; repeat' first
    | with_reducible assumption | with_reducible apply ite_ok | (with_reducible refine foldl_ok (fun _ _ _ => ?_) _ ?_)
    | intro _ | split | (with_reducible apply mk_ok) | (with_reducible apply MemOk.parts) | dsimp only
theorem State.raiseAt_ok {s : State} {a0} {a1} {a2} {a3} {a4} (h : MemOk s) : MemOk (State.raiseAt s a0 a1 a2 a3 a4) := by
  unfold State.raiseAt; repeat' first
    | with_reducible assumption | with_reducible apply ite_ok | (with_reducible refine foldl_ok (fun _ _ _ => ?_) _ ?_)
    | intro _ | split | (with_reducible apply mk_ok) | (with_reducible apply MemOk.parts) | dsimp only
theorem State.raise_ok {s : State} {a0} {a1} {a2} {a3} (h : MemOk s) : MemOk (State.raise s a0 a1 a2 a3) := by
  unfold State.raise; repeat' first
    | with_reducible assumption | with_reducible apply State.raiseAt_ok | with_reducible apply ite_ok
    | (with_reducible refine foldl_ok (fun _ _ _ => ?_) _ ?_) | intro _ | split | (with_reducible apply mk_ok)
    | (with_reducible apply MemOk.parts) | dsimp only
theorem State.sleepAccess_ok {s : State} {a0} (h : MemOk s) : MemOk (State.sleepAccess s a0) := by
  unfold State.sleepAccess; repeat' first
    | with_reducible assumption | with_reducible apply State.fset_ok | with_reducible apply ite_ok
    | (with_reducible refine foldl_ok (fun _ _ _ => ?_) _ ?_) | intro _ | split | (with_reducible apply mk_ok)
    | (with_reducible apply MemOk.parts) | dsimp only
theorem State.access_ok {s : State} {off : Nat} {effect : State → State} (h : MemOk s) (he : ∀ s, MemOk s → MemOk (effect s)) :
    MemOk (s.access off effect) := by
  unfold State.access
  split
  · exact h
  · split
    · exact he s h
    · exact State.sleepAccess_ok h
theorem State.regStatus_ok {s : State} {a0} {a1} {a2} (h : MemOk s) : MemOk (State.regStatus s a0 a1 a2) := by
  unfold State.regStatus; repeat' first
    | with_reducible assumption | with_reducible apply State.fset_ok | with_reducible apply ite_ok
    | with_reducible apply elim_ok | (with_reducible refine foldl_ok (fun _ _ _ => ?_) _ ?_) | intro _
    | (simp only [↓mk_ok_iff]; with_reducible refine MemOk.parts ?_) | split | dsimp only
theorem State.crossingLoss_ok {s : State} {a0} {a1} (h : MemOk s) : MemOk (State.crossingLoss s a0 a1) := by
  unfold State.crossingLoss; repeat' first
    | with_reducible assumption | with_reducible apply State.regStatus_ok | with_reducible apply State.raise_ok
    | with_reducible apply State.fsat_ok | with_reducible apply State.fset_ok | with_reducible apply ite_ok
    | with_reducible apply elim_ok | (with_reducible refine foldl_ok (fun _ _ _ => ?_) _ ?_) | intro _
    | (simp only [↓mk_ok_iff]; with_reducible refine MemOk.parts ?_) | split | dsimp only
theorem State.setFn_ok {s : State} {a0} {a1} (h : MemOk s) : MemOk (State.setFn s a0 a1) := by
  unfold State.setFn; repeat' first
    | with_reducible assumption | with_reducible apply ite_ok | (with_reducible refine foldl_ok (fun _ _ _ => ?_) _ ?_)
    | intro _ | split | (with_reducible apply mk_ok) | (with_reducible apply MemOk.parts) | dsimp only
theorem State.refusal_ok {s : State} {a0} {a1} {a2} {a3} (h : MemOk s) : MemOk (State.refusal s a0 a1 a2 a3) := by
  unfold State.refusal; repeat' first
    | with_reducible assumption | with_reducible apply State.raise_ok | with_reducible apply State.fsat_ok
    | with_reducible apply State.fset_ok | with_reducible apply ite_ok
    | (with_reducible refine foldl_ok (fun _ _ _ => ?_) _ ?_) | intro _ | split | (with_reducible apply mk_ok)
    | (with_reducible apply MemOk.parts) | dsimp only
theorem State.candidate_ok {s : State} {a0} (h : MemOk s) : MemOk (State.candidate s a0) := by
  unfold State.candidate; repeat' first
    | with_reducible assumption | with_reducible apply State.raise_ok | with_reducible apply State.fset_ok
    | with_reducible apply ite_ok | (with_reducible refine foldl_ok (fun _ _ _ => ?_) _ ?_) | intro _ | split
    | (with_reducible apply mk_ok) | (with_reducible apply MemOk.parts) | dsimp only
theorem State.uncorrectable_ok {s : State} {a0} (h : MemOk s) : MemOk (State.uncorrectable s a0) := by
  unfold State.uncorrectable; repeat' first
    | with_reducible assumption | with_reducible apply State.candidate_ok | with_reducible apply State.raise_ok
    | with_reducible apply State.fsat_ok | with_reducible apply State.fset_ok | with_reducible apply State.wr_ok
    | with_reducible apply ite_ok | (with_reducible refine foldl_ok (fun _ _ _ => ?_) _ ?_) | intro _ | split
    | (with_reducible apply mk_ok) | (with_reducible apply MemOk.parts) | dsimp only
theorem State.correctable_ok {s : State} {a0} (h : MemOk s) : MemOk (State.correctable s a0) := by
  unfold State.correctable; repeat' first
    | with_reducible assumption | with_reducible apply State.candidate_ok | with_reducible apply State.fsat_ok
    | with_reducible apply State.fset_ok | with_reducible apply ite_ok
    | (with_reducible refine foldl_ok (fun _ _ _ => ?_) _ ?_) | intro _ | split | (with_reducible apply mk_ok)
    | (with_reducible apply MemOk.parts) | dsimp only
theorem State.freshError_ok {s : State} {a0} (h : MemOk s) : MemOk (State.freshError s a0) := by
  unfold State.freshError; repeat' first
    | with_reducible assumption | with_reducible apply State.uncorrectable_ok | with_reducible apply ite_ok
    | with_reducible apply elim_ok | (with_reducible refine foldl_ok (fun _ _ _ => ?_) _ ?_) | intro _
    | (simp only [↓mk_ok_iff]; with_reducible refine MemOk.parts ?_) | split | dsimp only
theorem State.clearFinding_ok {s : State} {a0} (h : MemOk s) : MemOk (State.clearFinding s a0) := by
  unfold State.clearFinding; repeat' first
    | with_reducible assumption | with_reducible apply ite_ok | with_reducible apply elim_ok
    | (with_reducible refine foldl_ok (fun _ _ _ => ?_) _ ?_) | intro _
    | (simp only [↓mk_ok_iff]; with_reducible refine MemOk.parts ?_) | split | dsimp only
theorem State.mergeWord_ok {s : State} {phys : Nat} {write : State → State} (h : MemOk s)
    (hw : ∀ t, MemOk t → MemOk (write t)) : MemOk (s.mergeWord phys write) := by
  unfold State.mergeWord
  refine ite_ok (State.uncorrectable_ok h) ?_
  dsimp only
  have ht : MemOk (s.clearFinding phys) := State.clearFinding_ok h
  split
  · exact hw _ ht
  · exact hw _ (State.correctable_ok ht)
  · exact State.freshError_ok ht
  · exact hw _ (State.draw_ok (State.putBytes_ok (State.correctable_ok ht) _ _))
theorem State.storeWord_ok {s : State} {phys bytes} (h : MemOk s) : MemOk (s.storeWord phys bytes) := by
  unfold State.storeWord
  split
  · exact State.putBytes_ok (State.clearFinding_ok (mk_ok h.parts)) _ _
  · exact State.mergeWord_ok h fun t ht => State.putBytes_ok ht _ _
theorem State.storeBytes_ok {s : State} {p b n} (h : MemOk s) : MemOk (s.storeBytes p b n) := by
  induction n generalizing s p b with
  | zero => exact h
  | succ n ih =>
    unfold State.storeBytes
    split
    · exact h
    · exact ih (State.storeWord_ok h)
theorem State.store_ok {s : State} {a0} {a1} (h : MemOk s) : MemOk (State.store s a0 a1) := by
  unfold State.store; repeat' first
    | with_reducible assumption | with_reducible apply State.storeBytes_ok | with_reducible apply ite_ok
    | with_reducible apply elim_ok | (with_reducible refine foldl_ok (fun _ _ _ => ?_) _ ?_) | intro _
    | (simp only [↓mk_ok_iff]; with_reducible refine MemOk.parts ?_) | split | dsimp only
theorem State.wordRead_ok {s : State} {a0} {a1} {a2} {t r} (e : State.wordRead s a0 a1 a2 = (t, r)) (h : MemOk s) : MemOk t := by
  unfold State.wordRead at e; (try dsimp only at e);
    (repeat' split at e) <;> (try simp only [Option.some.injEq, Prod.mk.injEq, reduceCtorEq] at e) <;> (try obtain ⟨e, _⟩ := e) <;> (try subst e) <;> (try contradiction) <;> (repeat' first
    | with_reducible assumption | with_reducible apply State.freshError_ok | with_reducible apply State.correctable_ok
    | with_reducible apply State.uncorrectable_ok | with_reducible apply State.draw_ok | with_reducible apply ite_ok
    | with_reducible apply elim_ok | (with_reducible refine foldl_ok (fun _ _ _ => ?_) _ ?_) | intro _
    | (simp only [↓mk_ok_iff]; with_reducible refine MemOk.parts ?_) | split | dsimp only)
theorem State.wordRead_ok1 {s : State} {a0} {a1} {a2}  (h : MemOk s) : MemOk (State.wordRead s a0 a1 a2).1 :=
  State.wordRead_ok rfl h
theorem State.localRead_ok {s : State} {a0} {a1} {a2} {t r} (e : State.localRead s a0 a1 a2 = (t, r)) (h : MemOk s) : MemOk t := by
  unfold State.localRead at e; (try dsimp only at e);
    (repeat' split at e) <;> (try simp only [Option.some.injEq, Prod.mk.injEq, reduceCtorEq] at e) <;> (try obtain ⟨e, _⟩ := e) <;> (try subst e) <;> (try contradiction) <;> (repeat' first
    | with_reducible assumption | (with_reducible refine State.wordRead_ok (by assumption) ?_)
    | with_reducible apply State.wordRead_ok1 | with_reducible apply State.clearFinding_ok | with_reducible apply ite_ok
    | with_reducible apply elim_ok | (with_reducible refine foldl_ok (fun _ _ _ => ?_) _ ?_) | intro _
    | (simp only [↓mk_ok_iff]; with_reducible refine MemOk.parts ?_) | split | dsimp only)
theorem State.localRead_ok1 {s : State} {a0} {a1} {a2}  (h : MemOk s) : MemOk (State.localRead s a0 a1 a2).1 :=
  State.localRead_ok rfl h
theorem State.touchMem_ok {s : State} (h : MemOk s) : MemOk (State.touchMem s) := by
  unfold State.touchMem; repeat' first
    | with_reducible assumption | with_reducible apply ite_ok | (with_reducible refine foldl_ok (fun _ _ _ => ?_) _ ?_)
    | intro _ | split | (with_reducible apply mk_ok) | (with_reducible apply MemOk.parts) | dsimp only
theorem State.gcRefill_ok {s : State} (h : MemOk s) : MemOk (State.gcRefill s) := by
  unfold State.gcRefill; repeat' first
    | with_reducible assumption | with_reducible apply State.markTick_ok | with_reducible apply ite_ok
    | with_reducible apply elim_ok | (with_reducible refine foldl_ok (fun _ _ _ => ?_) _ ?_) | intro _
    | (simp only [↓mk_ok_iff]; with_reducible refine MemOk.parts ?_) | split | dsimp only
theorem State.gcTake_ok {s : State} {a0} (h : MemOk s) : MemOk (State.gcTake s a0) := by
  unfold State.gcTake; repeat' first
    | with_reducible assumption | with_reducible apply State.gcRefill_ok | with_reducible apply State.touchMem_ok
    | with_reducible apply ite_ok | with_reducible apply elim_ok
    | (with_reducible refine foldl_ok (fun _ _ _ => ?_) _ ?_) | intro _
    | (simp only [↓mk_ok_iff]; with_reducible refine MemOk.parts ?_) | split | dsimp only
theorem State.askMc_ok {s : State} {a0} {a1} {a2} (h : MemOk s) : MemOk (State.askMc s a0 a1 a2) := by
  unfold State.askMc; repeat' first
    | with_reducible assumption | with_reducible apply State.gcTake_ok | with_reducible apply State.gcRefill_ok
    | with_reducible apply ite_ok | with_reducible apply elim_ok
    | (with_reducible refine foldl_ok (fun _ _ _ => ?_) _ ?_) | intro _
    | (simp only [↓mk_ok_iff]; with_reducible refine MemOk.parts ?_) | split | dsimp only
theorem State.askBe_ok {s : State} {a0} {a1} (h : MemOk s) : MemOk (State.askBe s a0 a1) := by
  unfold State.askBe; repeat' first
    | with_reducible assumption | with_reducible apply State.touchMem_ok | with_reducible apply ite_ok
    | with_reducible apply elim_ok | (with_reducible refine foldl_ok (fun _ _ _ => ?_) _ ?_) | intro _
    | (simp only [↓mk_ok_iff]; with_reducible refine MemOk.parts ?_) | split | dsimp only
theorem State.aerLog_ok {s : State} {a0} {a1} (h : MemOk s) : MemOk (State.aerLog s a0 a1) := by
  unfold State.aerLog; repeat' first
    | with_reducible assumption | with_reducible apply State.setFn_ok | with_reducible apply ite_ok
    | (with_reducible refine foldl_ok (fun _ _ _ => ?_) _ ?_) | intro _ | split | (with_reducible apply mk_ok)
    | (with_reducible apply MemOk.parts) | dsimp only
theorem State.send_ok {s : State} {a0} (h : MemOk s) : MemOk (State.send s a0) := by
  unfold State.send; repeat' first
    | with_reducible assumption | with_reducible apply ite_ok | (with_reducible refine foldl_ok (fun _ _ _ => ?_) _ ?_)
    | intro _ | split | (with_reducible apply mk_ok) | (with_reducible apply MemOk.parts) | dsimp only
theorem State.deviceWrite_ok {s : State} {a0} {a1} {a2} {a3} (h : MemOk s) : MemOk (State.deviceWrite s a0 a1 a2 a3) := by
  unfold State.deviceWrite; repeat' first
    | with_reducible assumption | with_reducible apply State.send_ok | with_reducible apply State.touchMem_ok
    | with_reducible apply State.store_ok | with_reducible apply State.refusal_ok | with_reducible apply ite_ok
    | with_reducible apply elim_ok | (with_reducible refine foldl_ok (fun _ _ _ => ?_) _ ?_) | intro _
    | (simp only [↓mk_ok_iff]; with_reducible refine MemOk.parts ?_) | split | dsimp only
theorem State.setSeq_ok {s : State} {a0} {a1} (h : MemOk s) : MemOk (State.setSeq s a0 a1) := by
  unfold State.setSeq; repeat' first
    | with_reducible assumption | with_reducible apply ite_ok | (with_reducible refine foldl_ok (fun _ _ _ => ?_) _ ?_)
    | intro _ | split | (with_reducible apply mk_ok) | (with_reducible apply MemOk.parts) | dsimp only
theorem State.setSeqState_ok {s : State} {a0} {a1} (h : MemOk s) : MemOk (State.setSeqState s a0 a1) := by
  unfold State.setSeqState; repeat' first
    | with_reducible assumption | with_reducible apply State.fset_ok | with_reducible apply ite_ok
    | (with_reducible refine foldl_ok (fun _ _ _ => ?_) _ ?_) | intro _ | split | (with_reducible apply mk_ok)
    | (with_reducible apply MemOk.parts) | dsimp only
theorem State.seqFault_ok {s : State} {a0} {a1} {a2} (h : MemOk s) : MemOk (State.seqFault s a0 a1 a2) := by
  unfold State.seqFault; repeat' first
    | with_reducible assumption | with_reducible apply State.setSeqState_ok | with_reducible apply State.setSeq_ok
    | with_reducible apply State.raise_ok | with_reducible apply State.fset_ok | with_reducible apply State.wr_ok
    | with_reducible apply ite_ok | (with_reducible refine foldl_ok (fun _ _ _ => ?_) _ ?_) | intro _ | split
    | (with_reducible apply mk_ok) | (with_reducible apply MemOk.parts) | dsimp only
theorem State.hostDown_ok {s : State} {a0} (h : MemOk s) : MemOk (State.hostDown s a0) := by
  unfold State.hostDown; repeat' first
    | with_reducible assumption | with_reducible apply State.seqFault_ok | with_reducible apply State.setSeqState_ok
    | with_reducible apply State.setSeq_ok | with_reducible apply ite_ok
    | (with_reducible refine foldl_ok (fun _ _ _ => ?_) _ ?_) | intro _ | split | (with_reducible apply mk_ok)
    | (with_reducible apply MemOk.parts) | dsimp only
theorem State.startFetch_ok {s : State} {a0} {a1} (h : MemOk s) : MemOk (State.startFetch s a0 a1) := by
  unfold State.startFetch; repeat' first
    | with_reducible assumption | with_reducible apply State.hostDown_ok | with_reducible apply State.seqFault_ok
    | with_reducible apply State.setSeq_ok | with_reducible apply State.send_ok | with_reducible apply State.askMc_ok
    | with_reducible apply State.refusal_ok | with_reducible apply ite_ok | with_reducible apply elim_ok
    | (with_reducible refine foldl_ok (fun _ _ _ => ?_) _ ?_) | intro _
    | (simp only [↓mk_ok_iff]; with_reducible refine MemOk.parts ?_) | split | dsimp only
theorem State.issue_ok {s : State} {q : Nat} {op : Op} {body : Atcia → State} (h : MemOk s) (hb : ∀ i, MemOk (body i)) :
    MemOk (s.issue q op body) := by
  unfold State.issue
  repeat' first | with_reducible assumption | exact hb _ | with_reducible apply State.seqFault_ok | with_reducible apply State.startFetch_ok | split
theorem State.retire_ok {s : State} {a0} {a1} {a2} (h : MemOk s) : MemOk (State.retire s a0 a1 a2) := by
  unfold State.retire; repeat' first
    | with_reducible assumption | with_reducible apply State.setSeq_ok | with_reducible apply ite_ok
    | (with_reducible refine foldl_ok (fun _ _ _ => ?_) _ ?_) | intro _ | split | (with_reducible apply mk_ok)
    | (with_reducible apply MemOk.parts) | dsimp only
theorem State.setHead_ok {s : State} {a0} {a1} (h : MemOk s) : MemOk (State.setHead s a0 a1) := by
  unfold State.setHead; repeat' first
    | with_reducible assumption | with_reducible apply ite_ok | (with_reducible refine foldl_ok (fun _ _ _ => ?_) _ ?_)
    | intro _ | split | (with_reducible apply mk_ok) | (with_reducible apply MemOk.parts) | dsimp only
theorem State.branch_ok {s : State} {a0} {a1} {a2} {a3} (h : MemOk s) : MemOk (State.branch s a0 a1 a2 a3) := by
  unfold State.branch; repeat' first
    | with_reducible assumption | with_reducible apply State.seqFault_ok | with_reducible apply State.setSeq_ok
    | with_reducible apply ite_ok | (with_reducible refine foldl_ok (fun _ _ _ => ?_) _ ?_) | intro _ | split
    | (with_reducible apply mk_ok) | (with_reducible apply MemOk.parts) | dsimp only
theorem State.endRun_ok {s : State} {a0} (h : MemOk s) : MemOk (State.endRun s a0) := by
  unfold State.endRun; repeat' first
    | with_reducible assumption | with_reducible apply State.setSeqState_ok | with_reducible apply State.setSeq_ok
    | with_reducible apply State.fset_ok | with_reducible apply State.wr_ok | with_reducible apply ite_ok
    | (with_reducible refine foldl_ok (fun _ _ _ => ?_) _ ?_) | intro _ | split | (with_reducible apply mk_ok)
    | (with_reducible apply MemOk.parts) | dsimp only
theorem State.arith_ok {s : State} {q : Nat} {i : Atcia} {f : Seq → DWord → DWord → DWord × Seq} (h : MemOk s) :
    MemOk (s.arith q i f) := State.retire_ok h
theorem State.setDrive_ok {s : State} {a0} {a1} (h : MemOk s) : MemOk (State.setDrive s a0 a1) := by
  unfold State.setDrive; repeat' first
    | with_reducible assumption | with_reducible apply ite_ok | (with_reducible refine foldl_ok (fun _ _ _ => ?_) _ ?_)
    | intro _ | split | (with_reducible apply mk_ok) | (with_reducible apply MemOk.parts) | dsimp only
theorem State.dataPlace_ok {s : State} {q addr : Nat} {reg : Bool} {r : Right} {go : StoreDest → State} (h : MemOk s)
    (hg : ∀ d, MemOk (go d)) : MemOk (s.dataPlace q addr reg r go) := by
  unfold State.dataPlace
  dsimp only
  repeat' first | with_reducible assumption | exact hg _ | with_reducible apply State.seqFault_ok | with_reducible apply State.refusal_ok | with_reducible apply State.hostDown_ok | split
theorem State.programFill_ok {s : State} {a0} {a1} (h : MemOk s) : MemOk (State.programFill s a0 a1) := by
  unfold State.programFill; repeat' first
    | with_reducible assumption | with_reducible apply State.seqFault_ok | with_reducible apply State.setSeqState_ok
    | with_reducible apply State.setSeq_ok | with_reducible apply State.aerLog_ok
    | with_reducible apply State.touchMem_ok | (with_reducible refine State.localRead_ok (by assumption) ?_)
    | with_reducible apply ite_ok | (with_reducible refine foldl_ok (fun _ _ _ => ?_) _ ?_) | intro _ | split
    | (with_reducible apply mk_ok) | (with_reducible apply MemOk.parts) | dsimp only
theorem State.resume_ok {s : State} {a0} {a1} (h : MemOk s) : MemOk (State.resume s a0 a1) := by
  unfold State.resume; repeat' first
    | with_reducible assumption | with_reducible apply State.setSeqState_ok | with_reducible apply State.setSeq_ok
    | with_reducible apply ite_ok | (with_reducible refine foldl_ok (fun _ _ _ => ?_) _ ?_) | intro _ | split
    | (with_reducible apply mk_ok) | (with_reducible apply MemOk.parts) | dsimp only
theorem State.stateInstr_ok {s : State} {a0} {a1} {a2} (h : MemOk s) : MemOk (State.stateInstr s a0 a1 a2) := by
  unfold State.stateInstr; repeat' first
    | with_reducible assumption | with_reducible apply State.retire_ok | with_reducible apply State.seqFault_ok
    | with_reducible apply ite_ok | (with_reducible refine foldl_ok (fun _ _ _ => ?_) _ ?_) | intro _ | split
    | (with_reducible apply mk_ok) | (with_reducible apply MemOk.parts) | dsimp only
theorem State.shadowPut_ok {s : State} {a0} (h : MemOk s) : MemOk (State.shadowPut s a0) := by
  unfold State.shadowPut; repeat' first
    | with_reducible assumption | with_reducible apply ite_ok | (with_reducible refine foldl_ok (fun _ _ _ => ?_) _ ?_)
    | intro _ | split | (with_reducible apply mk_ok) | (with_reducible apply MemOk.parts) | dsimp only
theorem State.shadowApply_ok {s : State} {a0} (h : MemOk s) : MemOk (State.shadowApply s a0) := by
  unfold State.shadowApply; repeat' first
    | with_reducible assumption | with_reducible apply State.shadowPut_ok | with_reducible apply ite_ok
    | (with_reducible refine foldl_ok (fun _ _ _ => ?_) _ ?_) | intro _ | split | (with_reducible apply mk_ok)
    | (with_reducible apply MemOk.parts) | dsimp only
theorem State.popQueue_ok {s : State} {a0} (h : MemOk s) : MemOk (State.popQueue s a0) := by
  unfold State.popQueue; repeat' first
    | with_reducible assumption | with_reducible apply State.setSeq_ok | with_reducible apply ite_ok
    | (with_reducible refine foldl_ok (fun _ _ _ => ?_) _ ?_) | intro _ | split | (with_reducible apply mk_ok)
    | (with_reducible apply MemOk.parts) | dsimp only
theorem State.nextEntry_ok {s : State} {a0} (h : MemOk s) : MemOk (State.nextEntry s a0) := by
  unfold State.nextEntry; repeat' first
    | with_reducible assumption | with_reducible apply State.seqFault_ok | with_reducible apply State.setSeqState_ok
    | with_reducible apply State.setSeq_ok | with_reducible apply ite_ok
    | (with_reducible refine foldl_ok (fun _ _ _ => ?_) _ ?_) | intro _ | split | (with_reducible apply mk_ok)
    | (with_reducible apply MemOk.parts) | dsimp only
theorem State.ringLinkWait_ok {s : State} {a0} (h : MemOk s) : MemOk (State.ringLinkWait s a0) := by
  unfold State.ringLinkWait; repeat' first
    | with_reducible assumption | with_reducible apply State.setSeqState_ok | with_reducible apply State.setSeq_ok
    | with_reducible apply ite_ok | (with_reducible refine foldl_ok (fun _ _ _ => ?_) _ ?_) | intro _ | split
    | (with_reducible apply mk_ok) | (with_reducible apply MemOk.parts) | dsimp only
theorem State.ringTake_ok {s : State} {a0} {a1} {a2} (h : MemOk s) : MemOk (State.ringTake s a0 a1 a2) := by
  unfold State.ringTake; repeat' first
    | with_reducible assumption | with_reducible apply State.nextEntry_ok | with_reducible apply State.setSeq_ok
    | with_reducible apply ite_ok | with_reducible apply elim_ok
    | (with_reducible refine foldl_ok (fun _ _ _ => ?_) _ ?_) | intro _
    | (simp only [↓mk_ok_iff]; with_reducible refine MemOk.parts ?_) | split | dsimp only
theorem State.ringAsk_ok {s : State} {a0} (h : MemOk s) : MemOk (State.ringAsk s a0) := by
  unfold State.ringAsk; repeat' first
    | with_reducible assumption | with_reducible apply State.ringTake_ok | with_reducible apply State.ringLinkWait_ok
    | with_reducible apply State.setSeq_ok | with_reducible apply State.send_ok | with_reducible apply State.askMc_ok
    | with_reducible apply State.refusal_ok | with_reducible apply ite_ok | with_reducible apply elim_ok
    | (with_reducible refine foldl_ok (fun _ _ _ => ?_) _ ?_) | intro _
    | (simp only [↓mk_ok_iff]; with_reducible refine MemOk.parts ?_) | split | dsimp only
theorem State.ringFetched_ok {s : State} {a0} {a1} (h : MemOk s) : MemOk (State.ringFetched s a0 a1) := by
  unfold State.ringFetched; repeat' first
    | with_reducible assumption | with_reducible apply State.ringAsk_ok | with_reducible apply State.ringTake_ok
    | with_reducible apply State.ringLinkWait_ok | with_reducible apply State.setSeq_ok
    | with_reducible apply State.aerLog_ok | with_reducible apply State.touchMem_ok
    | (with_reducible refine State.localRead_ok (by assumption) ?_) | with_reducible apply State.localRead_ok1
    | with_reducible apply ite_ok | with_reducible apply elim_ok
    | (with_reducible refine foldl_ok (fun _ _ _ => ?_) _ ?_) | intro _
    | (simp only [↓mk_ok_iff]; with_reducible refine MemOk.parts ?_) | split | dsimp only
theorem State.doorbell_ok {s : State} {a0} {a1} (h : MemOk s) : MemOk (State.doorbell s a0 a1) := by
  unfold State.doorbell; repeat' first
    | with_reducible assumption | with_reducible apply State.ringAsk_ok | with_reducible apply State.raise_ok
    | with_reducible apply State.fset_ok | with_reducible apply State.wr_ok | with_reducible apply ite_ok
    | with_reducible apply elim_ok | (with_reducible refine foldl_ok (fun _ _ _ => ?_) _ ?_) | intro _
    | (simp only [↓mk_ok_iff]; with_reducible refine MemOk.parts ?_) | split | dsimp only
theorem State.entryDone_ok {s : State} {a0} (h : MemOk s) : MemOk (State.entryDone s a0) := by
  unfold State.entryDone; repeat' first
    | with_reducible assumption | with_reducible apply State.setSeqState_ok | with_reducible apply State.setSeq_ok
    | with_reducible apply ite_ok | (with_reducible refine foldl_ok (fun _ _ _ => ?_) _ ?_) | intro _ | split
    | (with_reducible apply mk_ok) | (with_reducible apply MemOk.parts) | dsimp only
theorem State.pollAsk_ok {s : State} {a0} {a1} (h : MemOk s) : MemOk (State.pollAsk s a0 a1) := by
  unfold State.pollAsk; repeat' first
    | with_reducible assumption | with_reducible apply State.seqFault_ok | with_reducible apply State.setSeqState_ok
    | with_reducible apply State.setSeq_ok | with_reducible apply State.send_ok | with_reducible apply State.askMc_ok
    | with_reducible apply State.refusal_ok | with_reducible apply ite_ok | with_reducible apply elim_ok
    | (with_reducible refine foldl_ok (fun _ _ _ => ?_) _ ?_) | intro _
    | (simp only [↓mk_ok_iff]; with_reducible refine MemOk.parts ?_) | split | dsimp only
theorem State.pollCompare_ok {s : State} {a0} {a1} {a2} (h : MemOk s) : MemOk (State.pollCompare s a0 a1 a2) := by
  unfold State.pollCompare; repeat' first
    | with_reducible assumption | with_reducible apply State.entryDone_ok | with_reducible apply ite_ok
    | with_reducible apply elim_ok | (with_reducible refine foldl_ok (fun _ _ _ => ?_) _ ?_) | intro _
    | (simp only [↓mk_ok_iff]; with_reducible refine MemOk.parts ?_) | split | dsimp only
theorem State.pollReturn_ok {s : State} {a0} {a1} (h : MemOk s) : MemOk (State.pollReturn s a0 a1) := by
  unfold State.pollReturn; repeat' first
    | with_reducible assumption | with_reducible apply State.pollCompare_ok | with_reducible apply State.seqFault_ok
    | with_reducible apply State.setSeqState_ok | with_reducible apply State.setSeq_ok
    | with_reducible apply State.aerLog_ok | with_reducible apply State.touchMem_ok
    | (with_reducible refine State.localRead_ok (by assumption) ?_) | with_reducible apply State.localRead_ok1
    | with_reducible apply ite_ok | with_reducible apply elim_ok
    | (with_reducible refine foldl_ok (fun _ _ _ => ?_) _ ?_) | intro _
    | (simp only [↓mk_ok_iff]; with_reducible refine MemOk.parts ?_) | split | dsimp only
theorem State.stopSeq_ok {s : State} {a0} (h : MemOk s) : MemOk (State.stopSeq s a0) := by
  unfold State.stopSeq; repeat' first
    | with_reducible assumption | with_reducible apply State.setSeqState_ok | with_reducible apply State.setSeq_ok
    | with_reducible apply ite_ok | (with_reducible refine foldl_ok (fun _ _ _ => ?_) _ ?_) | intro _ | split
    | (with_reducible apply mk_ok) | (with_reducible apply MemOk.parts) | dsimp only
theorem State.startSeq_ok {s : State} {a0} (h : MemOk s) : MemOk (State.startSeq s a0) := by
  unfold State.startSeq; repeat' first
    | with_reducible assumption | with_reducible apply State.setSeqState_ok | with_reducible apply State.setSeq_ok
    | with_reducible apply ite_ok | (with_reducible refine foldl_ok (fun _ _ _ => ?_) _ ?_) | intro _ | split
    | (with_reducible apply mk_ok) | (with_reducible apply MemOk.parts) | dsimp only
theorem State.cpResume_ok {s : State} {a0} {a1} (h : MemOk s) : MemOk (State.cpResume s a0 a1) := by
  unfold State.cpResume; repeat' first
    | with_reducible assumption | with_reducible apply State.ringAsk_ok | with_reducible apply State.setSeqState_ok
    | with_reducible apply State.setSeq_ok | with_reducible apply ite_ok | with_reducible apply elim_ok
    | (with_reducible refine foldl_ok (fun _ _ _ => ?_) _ ?_) | intro _
    | (simp only [↓mk_ok_iff]; with_reducible refine MemOk.parts ?_) | split | dsimp only
theorem State.cpCtlWrite_ok {s : State} {a0} {a1} (h : MemOk s) : MemOk (State.cpCtlWrite s a0 a1) := by
  unfold State.cpCtlWrite; repeat' first
    | with_reducible assumption | with_reducible apply State.cpResume_ok | with_reducible apply State.startSeq_ok
    | with_reducible apply State.stopSeq_ok | with_reducible apply State.wr_ok | with_reducible apply ite_ok
    | (with_reducible refine foldl_ok (fun _ _ _ => ?_) _ ?_) | intro _ | split | (with_reducible apply mk_ok)
    | (with_reducible apply MemOk.parts) | dsimp only
theorem State.startRun_ok {s : State} {a0} (h : MemOk s) : MemOk (State.startRun s a0) := by
  unfold State.startRun; repeat' first
    | with_reducible assumption | with_reducible apply State.setSeqState_ok | with_reducible apply State.setSeq_ok
    | with_reducible apply ite_ok | (with_reducible refine foldl_ok (fun _ _ _ => ?_) _ ?_) | intro _ | split
    | (with_reducible apply mk_ok) | (with_reducible apply MemOk.parts) | dsimp only
theorem State.fsqCtlWrite_ok {s : State} {a0} {a1} (h : MemOk s) : MemOk (State.fsqCtlWrite s a0 a1) := by
  unfold State.fsqCtlWrite; repeat' first
    | with_reducible assumption | with_reducible apply State.startSeq_ok | with_reducible apply State.stopSeq_ok
    | with_reducible apply State.setSeqState_ok | with_reducible apply State.setSeq_ok
    | with_reducible apply State.fset_ok | with_reducible apply State.wr_ok | with_reducible apply ite_ok
    | (with_reducible refine foldl_ok (fun _ _ _ => ?_) _ ?_) | intro _ | split | (with_reducible apply mk_ok)
    | (with_reducible apply MemOk.parts) | dsimp only
theorem State.fsqEntryWrite_ok {s : State} {a0} {a1} {a2} (h : MemOk s) : MemOk (State.fsqEntryWrite s a0 a1 a2) := by
  unfold State.fsqEntryWrite; repeat' first
    | with_reducible assumption | with_reducible apply State.setSeq_ok | with_reducible apply State.wr_ok
    | with_reducible apply ite_ok | (with_reducible refine foldl_ok (fun _ _ _ => ?_) _ ?_) | intro _ | split
    | (with_reducible apply mk_ok) | (with_reducible apply MemOk.parts) | dsimp only
theorem State.addCommit_ok {s : State} {a0} {a1} {a2} {a3} {a4} {a5} {a6} {a7} (h : MemOk s) :
    MemOk (State.addCommit s a0 a1 a2 a3 a4 a5 a6 a7) := by
  unfold State.addCommit; repeat' first
    | with_reducible assumption | with_reducible apply ite_ok | (with_reducible refine foldl_ok (fun _ _ _ => ?_) _ ?_)
    | intro _ | split | (with_reducible apply mk_ok) | (with_reducible apply MemOk.parts) | dsimp only
theorem State.told_ok {s : State} {a0} (h : MemOk s) : MemOk (State.told s a0) := by
  unfold State.told; repeat' first
    | with_reducible assumption | with_reducible apply ite_ok | (with_reducible refine foldl_ok (fun _ _ _ => ?_) _ ?_)
    | intro _ | split | (with_reducible apply mk_ok) | (with_reducible apply MemOk.parts) | dsimp only
theorem State.resultRefused_ok {s : State} {a0} {a1} {t} (e : State.resultRefused s a0 a1 = some t) (h : MemOk s) : MemOk t := by
  unfold State.resultRefused at e; (try dsimp only at e);
    (repeat' split at e) <;> (try simp only [Option.some.injEq, Prod.mk.injEq, reduceCtorEq] at e) <;> (try obtain ⟨e, _⟩ := e) <;> (try subst e) <;> (try contradiction) <;> (repeat' first
    | with_reducible assumption | with_reducible apply State.hostDown_ok | with_reducible apply State.seqFault_ok
    | with_reducible apply State.refusal_ok | with_reducible apply ite_ok
    | (with_reducible refine foldl_ok (fun _ _ _ => ?_) _ ?_) | intro _ | split | (with_reducible apply mk_ok)
    | (with_reducible apply MemOk.parts) | dsimp only)
theorem State.commitInstr_ok {s : State} {a0} {a1} {a2} (h : MemOk s) : MemOk (State.commitInstr s a0 a1 a2) := by
  unfold State.commitInstr; repeat' first
    | with_reducible assumption | (with_reducible refine State.resultRefused_ok (by assumption) ?_)
    | with_reducible apply State.addCommit_ok | with_reducible apply State.retire_ok
    | with_reducible apply State.seqFault_ok | with_reducible apply State.setSeqState_ok
    | with_reducible apply State.setSeq_ok | with_reducible apply ite_ok
    | (with_reducible refine foldl_ok (fun _ _ _ => ?_) _ ?_) | intro _ | split | (with_reducible apply mk_ok)
    | (with_reducible apply MemOk.parts) | dsimp only
theorem State.putCommit_ok {s : State} {a0} (h : MemOk s) : MemOk (State.putCommit s a0) := by
  unfold State.putCommit; repeat' first
    | with_reducible assumption | with_reducible apply ite_ok | (with_reducible refine foldl_ok (fun _ _ _ => ?_) _ ?_)
    | intro _ | split | (with_reducible apply mk_ok) | (with_reducible apply MemOk.parts) | dsimp only
theorem State.benchEn_ok {s : State} {a0} (h : MemOk s) : MemOk (State.benchEn s a0) := by
  unfold State.benchEn; repeat' first
    | with_reducible assumption | with_reducible apply State.fset_ok | with_reducible apply ite_ok
    | (with_reducible refine foldl_ok (fun _ _ _ => ?_) _ ?_) | intro _ | split | (with_reducible apply mk_ok)
    | (with_reducible apply MemOk.parts) | dsimp only
theorem State.benchCommit_ok {s : State} {a0} (h : MemOk s) : MemOk (State.benchCommit s a0) := by
  unfold State.benchCommit; repeat' first
    | with_reducible assumption | with_reducible apply State.addCommit_ok | with_reducible apply State.fset_ok
    | with_reducible apply ite_ok | (with_reducible refine foldl_ok (fun _ _ _ => ?_) _ ?_) | intro _ | split
    | (with_reducible apply mk_ok) | (with_reducible apply MemOk.parts) | dsimp only
theorem State.ephQueue_ok {s : State} (h : MemOk s) : MemOk (State.ephQueue s) := by
  unfold State.ephQueue; repeat' first
    | with_reducible assumption | with_reducible apply State.fset_ok | with_reducible apply ite_ok
    | (with_reducible refine foldl_ok (fun _ _ _ => ?_) _ ?_) | intro _ | split | (with_reducible apply mk_ok)
    | (with_reducible apply MemOk.parts) | dsimp only
theorem State.showHeld_ok {s : State} (h : MemOk s) : MemOk (State.showHeld s) := by
  unfold State.showHeld; repeat' first
    | with_reducible assumption | with_reducible apply State.fset_ok | with_reducible apply State.wr_ok
    | with_reducible apply ite_ok | (with_reducible refine foldl_ok (fun _ _ _ => ?_) _ ?_) | intro _ | split
    | (with_reducible apply mk_ok) | (with_reducible apply MemOk.parts) | dsimp only
theorem State.atSampling_ok {s : State} {a0} (h : MemOk s) : MemOk (State.atSampling s a0) := by
  unfold State.atSampling; repeat' first
    | with_reducible assumption | with_reducible apply ite_ok | with_reducible apply elim_ok
    | (with_reducible refine foldl_ok (fun _ _ _ => ?_) _ ?_) | intro _
    | (simp only [↓mk_ok_iff]; with_reducible refine MemOk.parts ?_) | split | dsimp only
theorem State.ltrCheck_ok {s : State} (h : MemOk s) : MemOk (State.ltrCheck s) := by
  unfold State.ltrCheck; repeat' first
    | with_reducible assumption | with_reducible apply State.send_ok | with_reducible apply ite_ok
    | (with_reducible refine foldl_ok (fun _ _ _ => ?_) _ ?_) | intro _ | split | (with_reducible apply mk_ok)
    | (with_reducible apply MemOk.parts) | dsimp only
theorem State.setCdState_ok {s : State} {a0} {a1} (h : MemOk s) : MemOk (State.setCdState s a0 a1) := by
  unfold State.setCdState; repeat' first
    | with_reducible assumption | with_reducible apply State.fset_ok | with_reducible apply ite_ok
    | (with_reducible refine foldl_ok (fun _ _ _ => ?_) _ ?_) | intro _ | split | (with_reducible apply mk_ok)
    | (with_reducible apply MemOk.parts) | dsimp only
theorem State.rampTo_ok {s : State} {a0} {a1} (h : MemOk s) : MemOk (State.rampTo s a0 a1) := by
  unfold State.rampTo; repeat' first
    | with_reducible assumption | with_reducible apply State.setDrive_ok | with_reducible apply ite_ok
    | (with_reducible refine foldl_ok (fun _ _ _ => ?_) _ ?_) | intro _ | split | (with_reducible apply mk_ok)
    | (with_reducible apply MemOk.parts) | dsimp only
theorem State.settle_ok {s : State} (h : MemOk s) : MemOk (State.settle s) := by
  unfold State.settle; repeat' first
    | with_reducible assumption | with_reducible apply State.rampTo_ok | with_reducible apply ite_ok
    | with_reducible apply elim_ok | (with_reducible refine foldl_ok (fun _ _ _ => ?_) _ ?_) | intro _
    | (simp only [↓mk_ok_iff]; with_reducible refine MemOk.parts ?_) | split | dsimp only
theorem State.setPortState_ok {s : State} {a0} {a1} (h : MemOk s) : MemOk (State.setPortState s a0 a1) := by
  unfold State.setPortState; repeat' first
    | with_reducible assumption | with_reducible apply State.fset_ok | with_reducible apply ite_ok
    | (with_reducible refine foldl_ok (fun _ _ _ => ?_) _ ?_) | intro _ | split | (with_reducible apply mk_ok)
    | (with_reducible apply MemOk.parts) | dsimp only
theorem State.idlePorts_ok {s : State} {a0} (h : MemOk s) : MemOk (State.idlePorts s a0) := by
  unfold State.idlePorts; repeat' first
    | with_reducible assumption | with_reducible apply State.setPortState_ok | with_reducible apply ite_ok
    | (with_reducible refine foldl_ok (fun _ _ _ => ?_) _ ?_) | intro _ | split | (with_reducible apply mk_ok)
    | (with_reducible apply MemOk.parts) | dsimp only
theorem State.relock_ok {s : State} {a0} (h : MemOk s) : MemOk (State.relock s a0) := by
  unfold State.relock; repeat' first
    | with_reducible assumption | with_reducible apply State.idlePorts_ok | with_reducible apply State.setCdState_ok
    | with_reducible apply State.setDrive_ok | with_reducible apply State.fsat_ok | with_reducible apply State.fset_ok
    | with_reducible apply ite_ok | (with_reducible refine foldl_ok (fun _ _ _ => ?_) _ ?_) | intro _ | split
    | (with_reducible apply mk_ok) | (with_reducible apply MemOk.parts) | dsimp only
theorem State.driveOff_ok {s : State} {a0} (h : MemOk s) : MemOk (State.driveOff s a0) := by
  unfold State.driveOff; repeat' first
    | with_reducible assumption | with_reducible apply State.idlePorts_ok | with_reducible apply State.setCdState_ok
    | with_reducible apply State.setDrive_ok | with_reducible apply State.fset_ok | with_reducible apply ite_ok
    | with_reducible apply elim_ok | (with_reducible refine foldl_ok (fun _ _ _ => ?_) _ ?_) | intro _
    | (simp only [↓mk_ok_iff]; with_reducible refine MemOk.parts ?_) | split | dsimp only
theorem State.drivesSleep_ok {s : State} (h : MemOk s) : MemOk (State.drivesSleep s) := by
  unfold State.drivesSleep; repeat' first
    | with_reducible assumption | with_reducible apply State.driveOff_ok | with_reducible apply ite_ok
    | with_reducible apply elim_ok | (with_reducible refine foldl_ok (fun _ _ _ => ?_) _ ?_) | intro _
    | (simp only [↓mk_ok_iff]; with_reducible refine MemOk.parts ?_) | split | dsimp only
theorem State.drivesWake_ok {s : State} (h : MemOk s) : MemOk (State.drivesWake s) := by
  unfold State.drivesWake; repeat' first
    | with_reducible assumption | with_reducible apply State.relock_ok | with_reducible apply ite_ok
    | with_reducible apply elim_ok | (with_reducible refine foldl_ok (fun _ _ _ => ?_) _ ?_) | intro _
    | (simp only [↓mk_ok_iff]; with_reducible refine MemOk.parts ?_) | split | dsimp only
theorem State.refLost_ok {s : State} {a0} (h : MemOk s) : MemOk (State.refLost s a0) := by
  unfold State.refLost; repeat' first
    | with_reducible assumption | with_reducible apply State.rampTo_ok | with_reducible apply State.setCdState_ok
    | with_reducible apply State.setDrive_ok | with_reducible apply State.fset_ok | with_reducible apply ite_ok
    | with_reducible apply elim_ok | (with_reducible refine foldl_ok (fun _ _ _ => ?_) _ ?_) | intro _
    | (simp only [↓mk_ok_iff]; with_reducible refine MemOk.parts ?_) | split | dsimp only
theorem State.dropRef_ok {s : State} {a0} (h : MemOk s) : MemOk (State.dropRef s a0) := by
  unfold State.dropRef; repeat' first
    | with_reducible assumption | with_reducible apply State.refLost_ok | with_reducible apply State.raise_ok
    | with_reducible apply ite_ok | with_reducible apply elim_ok
    | (with_reducible refine foldl_ok (fun _ _ _ => ?_) _ ?_) | intro _
    | (simp only [↓mk_ok_iff]; with_reducible refine MemOk.parts ?_) | split | dsimp only
theorem State.steer_ok {s : State} {a0} (h : MemOk s) : MemOk (State.steer s a0) := by
  unfold State.steer; repeat' first
    | with_reducible assumption | with_reducible apply State.dropRef_ok | with_reducible apply State.rampTo_ok
    | with_reducible apply State.setDrive_ok | with_reducible apply ite_ok | with_reducible apply elim_ok
    | (with_reducible refine foldl_ok (fun _ _ _ => ?_) _ ?_) | intro _
    | (simp only [↓mk_ok_iff]; with_reducible refine MemOk.parts ?_) | split | dsimp only
theorem State.acquire_ok {s : State} {a0} (h : MemOk s) : MemOk (State.acquire s a0) := by
  unfold State.acquire; repeat' first
    | with_reducible assumption | with_reducible apply State.steer_ok | with_reducible apply State.dropRef_ok
    | with_reducible apply State.setCdState_ok | with_reducible apply State.setDrive_ok
    | with_reducible apply State.fset_ok | with_reducible apply ite_ok | with_reducible apply elim_ok
    | (with_reducible refine foldl_ok (fun _ _ _ => ?_) _ ?_) | intro _
    | (simp only [↓mk_ok_iff]; with_reducible refine MemOk.parts ?_) | split | dsimp only
theorem State.releaseRef_ok {s : State} {a0} (h : MemOk s) : MemOk (State.releaseRef s a0) := by
  unfold State.releaseRef; repeat' first
    | with_reducible assumption | with_reducible apply State.setCdState_ok | with_reducible apply State.setDrive_ok
    | with_reducible apply State.fset_ok | with_reducible apply ite_ok | with_reducible apply elim_ok
    | (with_reducible refine foldl_ok (fun _ _ _ => ?_) _ ?_) | intro _
    | (simp only [↓mk_ok_iff]; with_reducible refine MemOk.parts ?_) | split | dsimp only
theorem State.refChanged_ok {s : State} {a0} (h : MemOk s) : MemOk (State.refChanged s a0) := by
  unfold State.refChanged; repeat' first
    | with_reducible assumption | with_reducible apply State.steer_ok | with_reducible apply ite_ok
    | with_reducible apply elim_ok | (with_reducible refine foldl_ok (fun _ _ _ => ?_) _ ?_) | intro _
    | (simp only [↓mk_ok_iff]; with_reducible refine MemOk.parts ?_) | split | dsimp only
theorem State.profStop_ok {s : State} {a0} (h : MemOk s) : MemOk (State.profStop s a0) := by
  unfold State.profStop; repeat' first
    | with_reducible assumption | with_reducible apply State.rampTo_ok | with_reducible apply State.fset_ok
    | with_reducible apply ite_ok | with_reducible apply elim_ok
    | (with_reducible refine foldl_ok (fun _ _ _ => ?_) _ ?_) | intro _
    | (simp only [↓mk_ok_iff]; with_reducible refine MemOk.parts ?_) | split | dsimp only
theorem State.framePulse_ok {s : State} {a0} {a1} (h : MemOk s) : MemOk (State.framePulse s a0 a1) := by
  unfold State.framePulse; repeat' first
    | with_reducible assumption | with_reducible apply ite_ok | with_reducible apply elim_ok
    | (with_reducible refine foldl_ok (fun _ _ _ => ?_) _ ?_) | intro _
    | (simp only [↓mk_ok_iff]; with_reducible refine MemOk.parts ?_) | split | dsimp only
theorem State.outCheck_ok {s : State} {a0} (h : MemOk s) : MemOk (State.outCheck s a0) := by
  unfold State.outCheck; repeat' first
    | with_reducible assumption | with_reducible apply State.fset_ok | with_reducible apply ite_ok
    | (with_reducible refine foldl_ok (fun _ _ _ => ?_) _ ?_) | intro _ | split | (with_reducible apply mk_ok)
    | (with_reducible apply MemOk.parts) | dsimp only
theorem State.outChecks_ok {s : State} {a0} (h : MemOk s) : MemOk (State.outChecks s a0) := by
  unfold State.outChecks; repeat' first
    | with_reducible assumption | with_reducible apply State.outCheck_ok | with_reducible apply ite_ok
    | with_reducible apply elim_ok | (with_reducible refine foldl_ok (fun _ _ _ => ?_) _ ?_) | intro _
    | (simp only [↓mk_ok_iff]; with_reducible refine MemOk.parts ?_) | split | dsimp only
theorem State.cdApply_ok {s : State} {a0} (h : MemOk s) : MemOk (State.cdApply s a0) := by
  unfold State.cdApply; repeat' first
    | with_reducible assumption | with_reducible apply State.outChecks_ok | with_reducible apply State.refChanged_ok
    | with_reducible apply State.relock_ok | with_reducible apply State.rampTo_ok
    | with_reducible apply State.setDrive_ok | with_reducible apply State.raise_ok | with_reducible apply State.fset_ok
    | with_reducible apply ite_ok | with_reducible apply elim_ok
    | (with_reducible refine foldl_ok (fun _ _ _ => ?_) _ ?_) | intro _
    | (simp only [↓mk_ok_iff]; with_reducible refine MemOk.parts ?_) | split | dsimp only
theorem State.cdCtlWrite_ok {s : State} {a0} {a1} (h : MemOk s) : MemOk (State.cdCtlWrite s a0 a1) := by
  unfold State.cdCtlWrite; repeat' first
    | with_reducible assumption | with_reducible apply State.cdApply_ok | with_reducible apply State.profStop_ok
    | with_reducible apply State.releaseRef_ok | with_reducible apply State.acquire_ok
    | with_reducible apply State.driveOff_ok | with_reducible apply State.relock_ok | with_reducible apply State.wr_ok
    | with_reducible apply ite_ok | with_reducible apply elim_ok
    | (with_reducible refine foldl_ok (fun _ _ _ => ?_) _ ?_) | intro _
    | (simp only [↓mk_ok_iff]; with_reducible refine MemOk.parts ?_) | split | dsimp only
theorem State.lockDeclared_ok {s : State} {a0} (h : MemOk s) : MemOk (State.lockDeclared s a0) := by
  unfold State.lockDeclared; repeat' first
    | with_reducible assumption | with_reducible apply State.acquire_ok | with_reducible apply State.setCdState_ok
    | with_reducible apply State.setDrive_ok | with_reducible apply ite_ok | with_reducible apply elim_ok
    | (with_reducible refine foldl_ok (fun _ _ _ => ?_) _ ?_) | intro _
    | (simp only [↓mk_ok_iff]; with_reducible refine MemOk.parts ?_) | split | dsimp only
theorem State.spareBegin_ok {s : State} {a0} (h : MemOk s) : MemOk (State.spareBegin s a0) := by
  unfold State.spareBegin; repeat' first
    | with_reducible assumption | with_reducible apply State.relock_ok | with_reducible apply State.setDrive_ok
    | with_reducible apply State.fset_ok | with_reducible apply State.wr_ok | with_reducible apply ite_ok
    | with_reducible apply elim_ok | (with_reducible refine foldl_ok (fun _ _ _ => ?_) _ ?_) | intro _
    | (simp only [↓mk_ok_iff]; with_reducible refine MemOk.parts ?_) | split | dsimp only
theorem State.spareSoon_ok {s : State} {a0} (h : MemOk s) : MemOk (State.spareSoon s a0) := by
  unfold State.spareSoon; repeat' first
    | with_reducible assumption | with_reducible apply State.spareBegin_ok | with_reducible apply State.touchMem_ok
    | with_reducible apply State.fset_ok | with_reducible apply ite_ok | with_reducible apply elim_ok
    | (with_reducible refine foldl_ok (fun _ _ _ => ?_) _ ?_) | intro _
    | (simp only [↓mk_ok_iff]; with_reducible refine MemOk.parts ?_) | split | dsimp only
theorem State.enterSegment_ok {s : State} {a0} {a1} (h : MemOk s) : MemOk (State.enterSegment s a0 a1) := by
  unfold State.enterSegment; repeat' first
    | with_reducible assumption | with_reducible apply State.rampTo_ok | with_reducible apply State.fset_ok
    | with_reducible apply ite_ok | (with_reducible refine foldl_ok (fun _ _ _ => ?_) _ ?_) | intro _ | split
    | (with_reducible apply mk_ok) | (with_reducible apply MemOk.parts) | dsimp only
theorem State.profWrite_ok {s : State} {a0} {a1} (h : MemOk s) : MemOk (State.profWrite s a0 a1) := by
  unfold State.profWrite; repeat' first
    | with_reducible assumption | with_reducible apply State.enterSegment_ok | with_reducible apply State.rampTo_ok
    | with_reducible apply State.fset_ok | with_reducible apply ite_ok
    | (with_reducible refine foldl_ok (fun _ _ _ => ?_) _ ?_) | intro _ | split | (with_reducible apply mk_ok)
    | (with_reducible apply MemOk.parts) | dsimp only
theorem State.refReturns_ok {s : State} {a0} {a1} (h : MemOk s) : MemOk (State.refReturns s a0 a1) := by
  unfold State.refReturns; repeat' first
    | with_reducible assumption | with_reducible apply State.acquire_ok | with_reducible apply State.setDrive_ok
    | with_reducible apply State.fset_ok | with_reducible apply ite_ok | with_reducible apply elim_ok
    | (with_reducible refine foldl_ok (fun _ _ _ => ?_) _ ?_) | intro _
    | (simp only [↓mk_ok_iff]; with_reducible refine MemOk.parts ?_) | split | dsimp only
theorem State.slew_ok {s : State} {a0} {a1} (h : MemOk s) : MemOk (State.slew s a0 a1) := by
  unfold State.slew; repeat' first
    | with_reducible assumption | with_reducible apply State.rampTo_ok | with_reducible apply State.draw_ok
    | with_reducible apply ite_ok | with_reducible apply elim_ok
    | (with_reducible refine foldl_ok (fun _ _ _ => ?_) _ ?_) | intro _
    | (simp only [↓mk_ok_iff]; with_reducible refine MemOk.parts ?_) | split | dsimp only
theorem State.measure_ok {s : State} {a0} (h : MemOk s) : MemOk (State.measure s a0) := by
  unfold State.measure; repeat' first
    | with_reducible assumption | with_reducible apply State.slew_ok | with_reducible apply State.rampTo_ok
    | with_reducible apply State.setCdState_ok | with_reducible apply State.setDrive_ok
    | with_reducible apply State.fset_ok | with_reducible apply State.wr_ok | with_reducible apply ite_ok
    | with_reducible apply elim_ok | (with_reducible refine foldl_ok (fun _ _ _ => ?_) _ ?_) | intro _
    | (simp only [↓mk_ok_iff]; with_reducible refine MemOk.parts ?_) | split | dsimp only
theorem State.spareReq_ok {s : State} {a0} (h : MemOk s) : MemOk (State.spareReq s a0) := by
  unfold State.spareReq; repeat' first
    | with_reducible assumption | with_reducible apply State.spareSoon_ok | with_reducible apply State.fset_ok
    | with_reducible apply ite_ok | with_reducible apply elim_ok
    | (with_reducible refine foldl_ok (fun _ _ _ => ?_) _ ?_) | intro _
    | (simp only [↓mk_ok_iff]; with_reducible refine MemOk.parts ?_) | split | dsimp only
theorem State.outCtlWrite_ok {s : State} {a0} {a1} (h : MemOk s) : MemOk (State.outCtlWrite s a0 a1) := by
  unfold State.outCtlWrite; repeat' first
    | with_reducible assumption | with_reducible apply State.outCheck_ok | with_reducible apply State.wr_ok
    | with_reducible apply ite_ok | (with_reducible refine foldl_ok (fun _ _ _ => ?_) _ ?_) | intro _ | split
    | (with_reducible apply mk_ok) | (with_reducible apply MemOk.parts) | dsimp only
theorem State.cdNowSnap_ok {s : State} {a0} (h : MemOk s) : MemOk (State.cdNowSnap s a0) := by
  unfold State.cdNowSnap; repeat' first
    | with_reducible assumption | with_reducible apply State.wr_ok | with_reducible apply ite_ok
    | (with_reducible refine foldl_ok (fun _ _ _ => ?_) _ ?_) | intro _ | split | (with_reducible apply mk_ok)
    | (with_reducible apply MemOk.parts) | dsimp only
theorem State.sidSet_ok {s : State} {a0} (h : MemOk s) : MemOk (State.sidSet s a0) := by
  unfold State.sidSet; repeat' first
    | with_reducible assumption | with_reducible apply State.fset_ok | with_reducible apply State.wr_ok
    | with_reducible apply ite_ok | (with_reducible refine foldl_ok (fun _ _ _ => ?_) _ ?_) | intro _ | split
    | (with_reducible apply mk_ok) | (with_reducible apply MemOk.parts) | dsimp only
theorem State.avsStep_ok {s : State} (h : MemOk s) : MemOk (State.avsStep s) := by
  unfold State.avsStep; repeat' first
    | with_reducible assumption | with_reducible apply ite_ok | with_reducible apply elim_ok
    | (with_reducible refine foldl_ok (fun _ _ _ => ?_) _ ?_) | intro _
    | (simp only [↓mk_ok_iff]; with_reducible refine MemOk.parts ?_) | split | dsimp only
theorem State.tick_ok {s : State} (h : MemOk s) : MemOk (State.tick s) := by
  unfold State.tick; repeat' first
    | with_reducible assumption | with_reducible apply State.avsStep_ok | with_reducible apply ite_ok
    | with_reducible apply elim_ok | (with_reducible refine foldl_ok (fun _ _ _ => ?_) _ ?_) | intro _
    | (simp only [↓mk_ok_iff]; with_reducible refine MemOk.parts ?_) | split | dsimp only
theorem State.ptmSnap_ok {s : State} (h : MemOk s) : MemOk (State.ptmSnap s) := by
  unfold State.ptmSnap; repeat' first
    | with_reducible assumption | with_reducible apply State.wr_ok | with_reducible apply ite_ok
    | (with_reducible refine foldl_ok (fun _ _ _ => ?_) _ ?_) | intro _ | split | (with_reducible apply mk_ok)
    | (with_reducible apply MemOk.parts) | dsimp only
theorem State.sidSnap_ok {s : State} (h : MemOk s) : MemOk (State.sidSnap s) := by
  unfold State.sidSnap; repeat' first
    | with_reducible assumption | with_reducible apply State.wr_ok | with_reducible apply ite_ok
    | (with_reducible refine foldl_ok (fun _ _ _ => ?_) _ ?_) | intro _ | split | (with_reducible apply mk_ok)
    | (with_reducible apply MemOk.parts) | dsimp only
theorem State.alarmFire_ok {s : State} {a0} (h : MemOk s) : MemOk (State.alarmFire s a0) := by
  unfold State.alarmFire; repeat' first
    | with_reducible assumption | with_reducible apply State.raiseAt_ok | with_reducible apply State.fset_ok
    | with_reducible apply State.wr_ok | with_reducible apply ite_ok
    | (with_reducible refine foldl_ok (fun _ _ _ => ?_) _ ?_) | intro _ | split | (with_reducible apply mk_ok)
    | (with_reducible apply MemOk.parts) | dsimp only
theorem State.alarmSet_ok {s : State} {a0} (h : MemOk s) : MemOk (State.alarmSet s a0) := by
  unfold State.alarmSet; repeat' first
    | with_reducible assumption | with_reducible apply ite_ok | with_reducible apply elim_ok
    | (with_reducible refine foldl_ok (fun _ _ _ => ?_) _ ?_) | intro _
    | (simp only [↓mk_ok_iff]; with_reducible refine MemOk.parts ?_) | split | dsimp only
theorem State.ptmOff_ok {s : State} (h : MemOk s) : MemOk (State.ptmOff s) := by
  unfold State.ptmOff; repeat' first
    | with_reducible assumption | with_reducible apply State.fset_ok | with_reducible apply ite_ok
    | with_reducible apply elim_ok | (with_reducible refine foldl_ok (fun _ _ _ => ?_) _ ?_) | intro _
    | (simp only [↓mk_ok_iff]; with_reducible refine MemOk.parts ?_) | split | dsimp only
theorem State.alarmCtl_ok {s : State} {a0} {a1} (h : MemOk s) : MemOk (State.alarmCtl s a0 a1) := by
  unfold State.alarmCtl; repeat' first
    | with_reducible assumption | with_reducible apply State.alarmFire_ok | with_reducible apply State.wr_ok
    | with_reducible apply ite_ok | (with_reducible refine foldl_ok (fun _ _ _ => ?_) _ ?_) | intro _ | split
    | (with_reducible apply mk_ok) | (with_reducible apply MemOk.parts) | dsimp only
theorem State.nonOwner_ok {s : State} {a0} {a1} (h : MemOk s) : MemOk (State.nonOwner s a0 a1) := by
  unfold State.nonOwner; repeat' first
    | with_reducible assumption | with_reducible apply State.raise_ok | with_reducible apply State.fsat_ok
    | with_reducible apply State.fset_ok | with_reducible apply ite_ok | with_reducible apply elim_ok
    | (with_reducible refine foldl_ok (fun _ _ _ => ?_) _ ?_) | intro _
    | (simp only [↓mk_ok_iff]; with_reducible refine MemOk.parts ?_) | split | dsimp only
theorem State.ceRow_ok {s : State} {a0} {a1} {a2} (h : MemOk s) : MemOk (State.ceRow s a0 a1 a2) := by
  unfold State.ceRow; repeat' first
    | with_reducible assumption | with_reducible apply State.raise_ok | with_reducible apply State.fsat_ok
    | with_reducible apply State.fset_ok | with_reducible apply State.wr_ok | with_reducible apply ite_ok
    | with_reducible apply elim_ok | (with_reducible refine foldl_ok (fun _ _ _ => ?_) _ ?_) | intro _
    | (simp only [↓mk_ok_iff]; with_reducible refine MemOk.parts ?_) | split | dsimp only
theorem State.plateReads_ok {s : State} {p w uses ecc} (h : MemOk s) : MemOk (s.plateReads p w uses ecc) := by
  unfold State.plateReads
  dsimp only
  have k : ∀ {u : State}, MemOk u → ∀ {r : Prop} [Decidable r] (y z : Nat), MemOk (if r then u.ceRow p y z else u) :=
    fun hu _ _ _ _ => ite_ok (State.ceRow_ok hu) hu
  refine ite_ok ?_ (k ?_ _ _)
  · simp only [↓mk_ok_iff]
    exact MemOk.parts (State.fset_ok (foldl_ok (fun _ _ hs => State.nonOwner_ok hs) _ (mk_ok (MemOk.parts h))))
  · exact foldl_ok (fun _ _ hs => State.nonOwner_ok hs) _ (mk_ok (MemOk.parts h))
theorem State.plateWrites_ok {s : State} {p w l} (h : MemOk s) : MemOk (s.plateWrites p w l) := by
  unfold State.plateWrites
  dsimp only
  have k : MemOk { s with plateMem := memWrite s.plateMem (plateWord p w) (mergeWrites (s.plateLoad (plateWord p w)) l),
                          platePoison := if l.any fun x => (List.range 64).all fun k => x.2.any fun y => y.1.val = k
                            then s.platePoison.erase (plateWord p w) else s.platePoison } :=
    mk_ok ⟨h.1, memWrite_wf h.2.1 _ _, h.2.2⟩
  exact ite_ok k (State.raise_ok (State.fset_ok (State.fset_ok (State.fset_ok (foldl_ok (fun _ _ hs => State.fsat_ok hs) _ k)))))
theorem State.plateAccess_ok {s : State} {p w uses ecc} (h : MemOk s) : MemOk (s.plateAccess p w uses ecc) :=
  ite_ok (State.plateReads_ok h) (State.plateWrites_ok (State.plateReads_ok h))
theorem State.plateTake_ok {s : State} {a0} {a1} {a2} {a3} {t r} (e : State.plateTake s a0 a1 a2 a3 = (t, r)) (h : MemOk s) :
    MemOk t := by
  unfold State.plateTake at e; (try dsimp only at e);
    (repeat' split at e) <;> (try simp only [Option.some.injEq, Prod.mk.injEq, reduceCtorEq] at e) <;> (try obtain ⟨e, _⟩ := e) <;> (try subst e) <;> (try contradiction) <;> (repeat' first
    | with_reducible assumption | with_reducible apply State.plateReads_ok | with_reducible apply ite_ok
    | with_reducible apply elim_ok | (with_reducible refine foldl_ok (fun _ _ _ => ?_) _ ?_) | intro _
    | (simp only [↓mk_ok_iff]; with_reducible refine MemOk.parts ?_) | split | dsimp only)
theorem State.plateTake_ok1 {s : State} {a0} {a1} {a2} {a3}  (h : MemOk s) : MemOk (State.plateTake s a0 a1 a2 a3).1 :=
  State.plateTake_ok rfl h
theorem State.platePatch_ok {s : State} {a0} {a1} {a2} {a3} (h : MemOk s) : MemOk (State.platePatch s a0 a1 a2 a3) := by
  unfold State.platePatch; repeat' first
    | with_reducible assumption | with_reducible apply State.plateWrites_ok | with_reducible apply State.nonOwner_ok
    | with_reducible apply ite_ok | with_reducible apply elim_ok
    | (with_reducible refine foldl_ok (fun _ _ _ => ?_) _ ?_) | intro _
    | (simp only [↓mk_ok_iff]; with_reducible refine MemOk.parts ?_) | split | dsimp only
theorem State.platePut_ok {s : State} {a0} {a1} {a2} {a3} (h : MemOk s) : MemOk (State.platePut s a0 a1 a2 a3) := by
  unfold State.platePut; repeat' first
    | with_reducible assumption | with_reducible apply State.platePatch_ok | with_reducible apply ite_ok
    | with_reducible apply elim_ok | (with_reducible refine foldl_ok (fun _ _ _ => ?_) _ ?_) | intro _
    | (simp only [↓mk_ok_iff]; with_reducible refine MemOk.parts ?_) | split | dsimp only
theorem State.setFrameRun_ok {s : State} {a0} {a1} (h : MemOk s) : MemOk (State.setFrameRun s a0 a1) := by
  unfold State.setFrameRun; repeat' first
    | with_reducible assumption | with_reducible apply ite_ok | (with_reducible refine foldl_ok (fun _ _ _ => ?_) _ ?_)
    | intro _ | split | (with_reducible apply mk_ok) | (with_reducible apply MemOk.parts) | dsimp only
theorem State.putLanded_ok {s : State} {a0} (h : MemOk s) : MemOk (State.putLanded s a0) := by
  unfold State.putLanded; repeat' first
    | with_reducible assumption | with_reducible apply ite_ok | (with_reducible refine foldl_ok (fun _ _ _ => ?_) _ ?_)
    | intro _ | split | (with_reducible apply mk_ok) | (with_reducible apply MemOk.parts) | dsimp only
theorem State.tagCount_ok {s : State} (h : MemOk s) : MemOk (State.tagCount s) := by
  unfold State.tagCount; repeat' first
    | with_reducible assumption | with_reducible apply State.fset_ok | with_reducible apply ite_ok
    | (with_reducible refine foldl_ok (fun _ _ _ => ?_) _ ?_) | intro _ | split | (with_reducible apply mk_ok)
    | (with_reducible apply MemOk.parts) | dsimp only
theorem State.dropTag_ok {s : State} {a0} (h : MemOk s) : MemOk (State.dropTag s a0) := by
  unfold State.dropTag; repeat' first
    | with_reducible assumption | with_reducible apply State.tagCount_ok | with_reducible apply ite_ok
    | (with_reducible refine foldl_ok (fun _ _ _ => ?_) _ ?_) | intro _ | split | (with_reducible apply mk_ok)
    | (with_reducible apply MemOk.parts) | dsimp only
theorem State.grant_ok {s : State} {a0} {a1} {a2} {a3} {a4} (h : MemOk s) : MemOk (State.grant s a0 a1 a2 a3 a4) := by
  unfold State.grant; repeat' first
    | with_reducible assumption | with_reducible apply State.tagCount_ok | with_reducible apply State.putLanded_ok
    | with_reducible apply ite_ok | (with_reducible refine foldl_ok (fun _ _ _ => ?_) _ ?_) | intro _ | split
    | (with_reducible apply mk_ok) | (with_reducible apply MemOk.parts) | dsimp only
theorem State.grantFrom_ok {s : State} {a0} {a1} (h : MemOk s) : MemOk (State.grantFrom s a0 a1) := by
  unfold State.grantFrom; repeat' first
    | with_reducible assumption | with_reducible apply State.grant_ok | with_reducible apply State.putLanded_ok
    | with_reducible apply State.refusal_ok | with_reducible apply ite_ok
    | (with_reducible refine foldl_ok (fun _ _ _ => ?_) _ ?_) | intro _ | split | (with_reducible apply mk_ok)
    | (with_reducible apply MemOk.parts) | dsimp only
theorem State.refillPipe_ok {s : State} {a0} (h : MemOk s) : MemOk (State.refillPipe s a0) := by
  unfold State.refillPipe; repeat' first
    | with_reducible assumption | with_reducible apply State.markTick_ok | with_reducible apply ite_ok
    | with_reducible apply elim_ok | (with_reducible refine foldl_ok (fun _ _ _ => ?_) _ ?_) | intro _
    | (simp only [↓mk_ok_iff]; with_reducible refine MemOk.parts ?_) | split | dsimp only
theorem State.switchApertures_ok {s : State} {a0} {a1} {a2} {a3} (h : MemOk s) : MemOk (State.switchApertures s a0 a1 a2 a3) := by
  unfold State.switchApertures; repeat' first
    | with_reducible assumption | with_reducible apply State.refillPipe_ok | with_reducible apply ite_ok
    | with_reducible apply elim_ok | (with_reducible refine foldl_ok (fun _ _ _ => ?_) _ ?_) | intro _
    | (simp only [↓mk_ok_iff]; with_reducible refine MemOk.parts ?_) | split | dsimp only
theorem State.makeSwitches_ok {s : State} {a0} (h : MemOk s) : MemOk (State.makeSwitches s a0) := by
  unfold State.makeSwitches; repeat' first
    | with_reducible assumption | with_reducible apply State.switchApertures_ok | with_reducible apply ite_ok
    | with_reducible apply elim_ok | (with_reducible refine foldl_ok (fun _ _ _ => ?_) _ ?_) | intro _
    | (simp only [↓mk_ok_iff]; with_reducible refine MemOk.parts ?_) | split | dsimp only
theorem State.eccRead_ok {s : State} {a0} {a1} {t r} (e : State.eccRead s a0 a1 = (t, r)) (h : MemOk s) : MemOk t := by
  unfold State.eccRead at e; (try dsimp only at e);
    (repeat' split at e) <;> (try simp only [Option.some.injEq, Prod.mk.injEq, reduceCtorEq] at e) <;> (try obtain ⟨e, _⟩ := e) <;> (try subst e) <;> (try contradiction) <;> (repeat' first
    | with_reducible assumption | (with_reducible refine State.wordRead_ok (by assumption) ?_)
    | with_reducible apply State.wordRead_ok1 | with_reducible apply ite_ok | with_reducible apply elim_ok
    | (with_reducible refine foldl_ok (fun _ _ _ => ?_) _ ?_) | intro _
    | (simp only [↓mk_ok_iff]; with_reducible refine MemOk.parts ?_) | split | dsimp only)
theorem State.eccRead_ok1 {s : State} {a0} {a1}  (h : MemOk s) : MemOk (State.eccRead s a0 a1).1 := State.eccRead_ok rfl h
theorem State.scanServe_ok {s : State} {a0} {a1} {a2} {a3} {a4} (h : MemOk s) : MemOk (State.scanServe s a0 a1 a2 a3 a4) := by
  unfold State.scanServe; repeat' first
    | with_reducible assumption | (with_reducible refine State.eccRead_ok (by assumption) ?_)
    | with_reducible apply State.eccRead_ok1 | with_reducible apply State.fsat_ok | with_reducible apply State.fset_ok
    | with_reducible apply State.wr_ok | with_reducible apply ite_ok | with_reducible apply elim_ok
    | (with_reducible refine foldl_ok (fun _ _ _ => ?_) _ ?_) | intro _
    | (simp only [↓mk_ok_iff]; with_reducible refine MemOk.parts ?_) | split | dsimp only
theorem State.openRow_ok {s : State} {a0} (h : MemOk s) : MemOk (State.openRow s a0) := by
  unfold State.openRow; repeat' first
    | with_reducible assumption | with_reducible apply ite_ok | with_reducible apply elim_ok
    | (with_reducible refine foldl_ok (fun _ _ _ => ?_) _ ?_) | intro _
    | (simp only [↓mk_ok_iff]; with_reducible refine MemOk.parts ?_) | split | dsimp only
theorem State.mcServe_ok {s : State} {a0} {a1} (h : MemOk s) : MemOk (State.mcServe s a0 a1) := by
  unfold State.mcServe; repeat' first
    | with_reducible assumption | with_reducible apply State.openRow_ok | with_reducible apply ite_ok
    | with_reducible apply elim_ok | (with_reducible refine foldl_ok (fun _ _ _ => ?_) _ ?_) | intro _
    | (simp only [↓mk_ok_iff]; with_reducible refine MemOk.parts ?_) | split | dsimp only
theorem State.reportTile_ok {s : State} {a0} {a1} {a2} {a3} {a4} (h : MemOk s) : MemOk (State.reportTile s a0 a1 a2 a3 a4) := by
  unfold State.reportTile; repeat' first
    | with_reducible assumption | with_reducible apply State.setFrameRun_ok | with_reducible apply State.raise_ok
    | with_reducible apply State.fsat_ok | with_reducible apply State.fset_ok | with_reducible apply ite_ok
    | (with_reducible refine foldl_ok (fun _ _ _ => ?_) _ ?_) | intro _ | split | (with_reducible apply mk_ok)
    | (with_reducible apply MemOk.parts) | dsimp only
theorem State.checkTiles_ok {s : State} {a0} {a1} {a2} {a3} {a4} {a5} (h : MemOk s) :
    MemOk (State.checkTiles s a0 a1 a2 a3 a4 a5) := by
  unfold State.checkTiles; repeat' first
    | with_reducible assumption | with_reducible apply State.reportTile_ok | with_reducible apply ite_ok
    | with_reducible apply elim_ok | (with_reducible refine foldl_ok (fun _ _ _ => ?_) _ ?_) | intro _ | split
    | (with_reducible apply mk_ok) | (with_reducible apply MemOk.parts) | dsimp only
theorem State.updWord_ok {s : State} {a0} {a1} (h : MemOk s) : MemOk (State.updWord s a0 a1) := by
  unfold State.updWord; repeat' first
    | with_reducible assumption | with_reducible apply ite_ok | with_reducible apply elim_ok
    | (with_reducible refine foldl_ok (fun _ _ _ => ?_) _ ?_) | intro _ | split | (with_reducible apply mk_ok)
    | (with_reducible apply MemOk.parts) | dsimp only
theorem State.hostReadError_ok {s : State} {a0} {a1} (h : MemOk s) : MemOk (State.hostReadError s a0 a1) := by
  unfold State.hostReadError; repeat' first
    | with_reducible assumption | with_reducible apply State.aerLog_ok | with_reducible apply State.fsat_ok
    | with_reducible apply State.fset_ok | with_reducible apply ite_ok
    | (with_reducible refine foldl_ok (fun _ _ _ => ?_) _ ?_) | intro _ | split | (with_reducible apply mk_ok)
    | (with_reducible apply MemOk.parts) | dsimp only
theorem State.fetchTimeout_ok {s : State} {a0} (h : MemOk s) : MemOk (State.fetchTimeout s a0) := by
  unfold State.fetchTimeout; repeat' first
    | with_reducible assumption | with_reducible apply State.updWord_ok | with_reducible apply State.dropTag_ok
    | with_reducible apply State.aerLog_ok | with_reducible apply State.fsat_ok | with_reducible apply State.fset_ok
    | with_reducible apply ite_ok | with_reducible apply elim_ok
    | (with_reducible refine foldl_ok (fun _ _ _ => ?_) _ ?_) | intro _ | split | (with_reducible apply mk_ok)
    | (with_reducible apply MemOk.parts) | dsimp only
theorem State.apSnap_ok {s : State} (h : MemOk s) : MemOk (State.apSnap s) := by
  unfold State.apSnap; repeat' first
    | with_reducible assumption | with_reducible apply State.wr_ok | with_reducible apply ite_ok
    | (with_reducible refine foldl_ok (fun _ _ _ => ?_) _ ?_) | intro _ | split | (with_reducible apply mk_ok)
    | (with_reducible apply MemOk.parts) | dsimp only
theorem State.holdWord_ok {s : State} {a0} {a1} {a2} {a3} {a4} {a5} (h : MemOk s) :
    MemOk (State.holdWord s a0 a1 a2 a3 a4 a5) := by
  unfold State.holdWord; repeat' first
    | with_reducible assumption | with_reducible apply State.setFrameRun_ok | with_reducible apply State.raise_ok
    | with_reducible apply State.fsat_ok | with_reducible apply State.fset_ok | with_reducible apply ite_ok
    | (with_reducible refine foldl_ok (fun _ _ _ => ?_) _ ?_) | intro _ | split | (with_reducible apply mk_ok)
    | (with_reducible apply MemOk.parts) | dsimp only
theorem State.consumeWord_ok {s : State} {a0} {a1} {a2} {a3} {a4} {a5} (h : MemOk s) :
    MemOk (State.consumeWord s a0 a1 a2 a3 a4 a5) := by
  unfold State.consumeWord; repeat' first
    | with_reducible assumption | with_reducible apply State.holdWord_ok | with_reducible apply State.putLanded_ok
    | (with_reducible refine State.plateTake_ok (by assumption) ?_) | with_reducible apply State.plateTake_ok1
    | with_reducible apply State.raise_ok | with_reducible apply State.fset_ok | with_reducible apply ite_ok
    | with_reducible apply elim_ok | (with_reducible refine foldl_ok (fun _ _ _ => ?_) _ ?_) | intro _
    | (simp only [↓mk_ok_iff]; with_reducible refine MemOk.parts ?_) | split | dsimp only
theorem State.pmapWrite_ok {s : State} {a0} {a1} {a2} (h : MemOk s) : MemOk (State.pmapWrite s a0 a1 a2) := by
  unfold State.pmapWrite; repeat' first
    | with_reducible assumption | with_reducible apply State.fset_ok | with_reducible apply State.wr_ok
    | with_reducible apply ite_ok | (with_reducible refine foldl_ok (fun _ _ _ => ?_) _ ?_) | intro _ | split
    | (with_reducible apply mk_ok) | (with_reducible apply MemOk.parts) | dsimp only
theorem State.retireReq_ok {s : State} {a0} (h : MemOk s) : MemOk (State.retireReq s a0) := by
  unfold State.retireReq; repeat' first
    | with_reducible assumption | with_reducible apply State.candidate_ok | with_reducible apply State.fset_ok
    | with_reducible apply ite_ok | (with_reducible refine foldl_ok (fun _ _ _ => ?_) _ ?_) | intro _ | split
    | (with_reducible apply mk_ok) | (with_reducible apply MemOk.parts) | dsimp only
theorem State.freeWords_ok {s : State} {a0} {a1} {a2} {a3} {a4} (h : MemOk s) : MemOk (State.freeWords s a0 a1 a2 a3 a4) := by
  unfold State.freeWords; repeat' first
    | with_reducible assumption | with_reducible apply ite_ok | (with_reducible refine foldl_ok (fun _ _ _ => ?_) _ ?_)
    | intro _ | split | (with_reducible apply mk_ok) | (with_reducible apply MemOk.parts) | dsimp only
theorem State.lineTiles_ok {s : State} {a0} {a1} {a2} {a3} {a4} {a5} (h : MemOk s) :
    MemOk (State.lineTiles s a0 a1 a2 a3 a4 a5) := by
  unfold State.lineTiles; repeat' first
    | with_reducible assumption | with_reducible apply State.checkTiles_ok | with_reducible apply State.reportTile_ok
    | with_reducible apply ite_ok | with_reducible apply elim_ok
    | (with_reducible refine foldl_ok (fun _ _ _ => ?_) _ ?_) | intro _ | split | (with_reducible apply mk_ok)
    | (with_reducible apply MemOk.parts) | dsimp only
theorem State.frameComposed_ok {s : State} {a0} (h : MemOk s) : MemOk (State.frameComposed s a0) := by
  unfold State.frameComposed; repeat' first
    | with_reducible assumption | with_reducible apply State.draw_ok | with_reducible apply State.fset_ok
    | with_reducible apply State.wr_ok | with_reducible apply ite_ok
    | (with_reducible refine foldl_ok (fun _ _ _ => ?_) _ ?_) | intro _ | split | (with_reducible apply mk_ok)
    | (with_reducible apply MemOk.parts) | dsimp only
theorem State.composeLine_ok {s : State} {a0} {a1} {a2} (h : MemOk s) : MemOk (State.composeLine s a0 a1 a2) := by
  unfold State.composeLine; repeat' first
    | with_reducible assumption | with_reducible apply State.frameComposed_ok | with_reducible apply State.lineTiles_ok
    | with_reducible apply State.freeWords_ok | with_reducible apply State.consumeWord_ok
    | with_reducible apply State.setFrameRun_ok | with_reducible apply ite_ok | with_reducible apply elim_ok
    | (with_reducible refine foldl_ok (fun _ _ _ => ?_) _ ?_) | intro _ | split | (with_reducible apply mk_ok)
    | (with_reducible apply MemOk.parts) | dsimp only
theorem State.unpend_ok {s : State} {a0} (h : MemOk s) : MemOk (State.unpend s a0) := by
  unfold State.unpend; repeat' first
    | with_reducible assumption | with_reducible apply State.fset_ok | with_reducible apply ite_ok
    | (with_reducible refine foldl_ok (fun _ _ _ => ?_) _ ?_) | intro _ | split | (with_reducible apply mk_ok)
    | (with_reducible apply MemOk.parts) | dsimp only
theorem State.holdCheck_ok {s : State} {a0} (h : MemOk s) : MemOk (State.holdCheck s a0) := by
  unfold State.holdCheck; repeat' first
    | with_reducible assumption | with_reducible apply State.fset_ok | with_reducible apply ite_ok
    | (with_reducible refine foldl_ok (fun _ _ _ => ?_) _ ?_) | intro _ | split | (with_reducible apply mk_ok)
    | (with_reducible apply MemOk.parts) | dsimp only
theorem State.wakeTargets_ok {s : State} (h : MemOk s) : MemOk (State.wakeTargets s) := by
  unfold State.wakeTargets; repeat' first
    | with_reducible assumption | with_reducible apply State.holdCheck_ok | with_reducible apply ite_ok
    | (with_reducible refine foldl_ok (fun _ _ _ => ?_) _ ?_) | intro _ | split | (with_reducible apply mk_ok)
    | (with_reducible apply MemOk.parts) | dsimp only
theorem State.dropRecord_ok {s : State} {a0} (h : MemOk s) : MemOk (State.dropRecord s a0) := by
  unfold State.dropRecord; repeat' first
    | with_reducible assumption | with_reducible apply State.fset_ok | with_reducible apply ite_ok
    | (with_reducible refine foldl_ok (fun _ _ _ => ?_) _ ?_) | intro _ | split | (with_reducible apply mk_ok)
    | (with_reducible apply MemOk.parts) | dsimp only
theorem State.fnRecord_ok {s : State} {a0} {a1} (h : MemOk s) : MemOk (State.fnRecord s a0 a1) := by
  unfold State.fnRecord; repeat' first
    | with_reducible assumption | with_reducible apply State.dropRecord_ok | with_reducible apply State.send_ok
    | with_reducible apply State.touchMem_ok | with_reducible apply State.store_ok | with_reducible apply State.wr_ok
    | with_reducible apply ite_ok | with_reducible apply elim_ok
    | (with_reducible refine foldl_ok (fun _ _ _ => ?_) _ ?_) | intro _
    | (simp only [↓mk_ok_iff]; with_reducible refine MemOk.parts ?_) | split | dsimp only
theorem State.coreRecord_ok {s : State} {a0} {a1} (h : MemOk s) : MemOk (State.coreRecord s a0 a1) := by
  unfold State.coreRecord; repeat' first
    | with_reducible assumption | with_reducible apply ite_ok | (with_reducible refine foldl_ok (fun _ _ _ => ?_) _ ?_)
    | intro _ | split | (with_reducible apply mk_ok) | (with_reducible apply MemOk.parts) | dsimp only
theorem State.arrive_ok {s : State} {a0} (h : MemOk s) : MemOk (State.arrive s a0) := by
  unfold State.arrive; repeat' first
    | with_reducible assumption | with_reducible apply State.coreRecord_ok | with_reducible apply State.fnRecord_ok
    | with_reducible apply State.holdCheck_ok | with_reducible apply State.finc_ok | with_reducible apply State.fset_ok
    | with_reducible apply ite_ok | with_reducible apply elim_ok
    | (with_reducible refine foldl_ok (fun _ _ _ => ?_) _ ?_) | intro _
    | (simp only [↓mk_ok_iff]; with_reducible refine MemOk.parts ?_) | split | dsimp only
theorem State.launch_ok {s : State} {a0} {a1} (h : MemOk s) : MemOk (State.launch s a0 a1) := by
  unfold State.launch; repeat' first
    | with_reducible assumption | with_reducible apply State.unpend_ok | with_reducible apply State.send_ok
    | with_reducible apply State.fset_ok | with_reducible apply ite_ok
    | (with_reducible refine foldl_ok (fun _ _ _ => ?_) _ ?_) | intro _ | split | (with_reducible apply mk_ok)
    | (with_reducible apply MemOk.parts) | dsimp only
theorem State.sourceMoved_ok {s : State} {a0} (h : MemOk s) : MemOk (State.sourceMoved s a0) := by
  unfold State.sourceMoved; repeat' first
    | with_reducible assumption | with_reducible apply State.unpend_ok | with_reducible apply State.fset_ok
    | with_reducible apply ite_ok | (with_reducible refine foldl_ok (fun _ _ _ => ?_) _ ?_) | intro _ | split
    | (with_reducible apply mk_ok) | (with_reducible apply MemOk.parts) | dsimp only
theorem State.srcCfgWrite_ok {s : State} {a0} {a1} {a2} (h : MemOk s) : MemOk (State.srcCfgWrite s a0 a1 a2) := by
  unfold State.srcCfgWrite; repeat' first
    | with_reducible assumption | with_reducible apply State.holdCheck_ok | with_reducible apply State.unpend_ok
    | with_reducible apply State.fset_ok | with_reducible apply ite_ok
    | (with_reducible refine foldl_ok (fun _ _ _ => ?_) _ ?_) | intro _ | split | (with_reducible apply mk_ok)
    | (with_reducible apply MemOk.parts) | dsimp only
theorem State.fnIdleWrite_ok {s : State} {a0} {a1} {a2} (h : MemOk s) : MemOk (State.fnIdleWrite s a0 a1 a2) := by
  unfold State.fnIdleWrite; repeat' first
    | with_reducible assumption | with_reducible apply State.fset_ok | with_reducible apply ite_ok
    | (with_reducible refine foldl_ok (fun _ _ _ => ?_) _ ?_) | intro _ | split | (with_reducible apply mk_ok)
    | (with_reducible apply MemOk.parts) | dsimp only
theorem State.msixWrite_ok {s : State} {a0} {a1} {a2} {a3} (h : MemOk s) : MemOk (State.msixWrite s a0 a1 a2 a3) := by
  unfold State.msixWrite; repeat' first
    | with_reducible assumption | with_reducible apply State.wr_ok | with_reducible apply ite_ok
    | (with_reducible refine foldl_ok (fun _ _ _ => ?_) _ ?_) | intro _ | split | (with_reducible apply mk_ok)
    | (with_reducible apply MemOk.parts) | dsimp only
theorem State.watchWrite_ok {s : State} {a0} {a1} (h : MemOk s) : MemOk (State.watchWrite s a0 a1) := by
  unfold State.watchWrite; repeat' first
    | with_reducible assumption | with_reducible apply State.fset_ok | with_reducible apply State.wr_ok
    | with_reducible apply ite_ok | (with_reducible refine foldl_ok (fun _ _ _ => ?_) _ ?_) | intro _ | split
    | (with_reducible apply mk_ok) | (with_reducible apply MemOk.parts) | dsimp only
theorem State.finderWake_ok {s : State} {a0} (h : MemOk s) : MemOk (State.finderWake s a0) := by
  unfold State.finderWake; repeat' first
    | with_reducible assumption | with_reducible apply State.send_ok | with_reducible apply State.fset_ok
    | with_reducible apply State.wr_ok | with_reducible apply ite_ok
    | (with_reducible refine foldl_ok (fun _ _ _ => ?_) _ ?_) | intro _ | split | (with_reducible apply mk_ok)
    | (with_reducible apply MemOk.parts) | dsimp only
theorem State.setPort_ok {s : State} {a0} {a1} (h : MemOk s) : MemOk (State.setPort s a0 a1) := by
  unfold State.setPort; repeat' first
    | with_reducible assumption | with_reducible apply ite_ok | (with_reducible refine foldl_ok (fun _ _ _ => ?_) _ ?_)
    | intro _ | split | (with_reducible apply mk_ok) | (with_reducible apply MemOk.parts) | dsimp only
theorem State.auxBegin_ok {s : State} {a0} {a1} (h : MemOk s) : MemOk (State.auxBegin s a0 a1) := by
  unfold State.auxBegin; repeat' first
    | with_reducible assumption | with_reducible apply State.setPort_ok | with_reducible apply ite_ok
    | with_reducible apply elim_ok | (with_reducible refine foldl_ok (fun _ _ _ => ?_) _ ?_) | intro _
    | (simp only [↓mk_ok_iff]; with_reducible refine MemOk.parts ?_) | split | dsimp only
theorem State.dropAttempt_ok {s : State} {a0} (h : MemOk s) : MemOk (State.dropAttempt s a0) := by
  unfold State.dropAttempt; repeat' first
    | with_reducible assumption | with_reducible apply State.setPort_ok | with_reducible apply State.setPortState_ok
    | with_reducible apply ite_ok | with_reducible apply elim_ok
    | (with_reducible refine foldl_ok (fun _ _ _ => ?_) _ ?_) | intro _
    | (simp only [↓mk_ok_iff]; with_reducible refine MemOk.parts ?_) | split | dsimp only
theorem State.auxNext_ok {s : State} {a0} {a1} (h : MemOk s) : MemOk (State.auxNext s a0 a1) := by
  unfold State.auxNext; repeat' first
    | with_reducible assumption | with_reducible apply State.dropAttempt_ok | with_reducible apply State.auxBegin_ok
    | with_reducible apply State.setPort_ok | with_reducible apply ite_ok | with_reducible apply elim_ok
    | (with_reducible refine foldl_ok (fun _ _ _ => ?_) _ ?_) | intro _
    | (simp only [↓mk_ok_iff]; with_reducible refine MemOk.parts ?_) | split | dsimp only
theorem State.auxFree_ok {s : State} {a0} (h : MemOk s) : MemOk (State.auxFree s a0) := by
  unfold State.auxFree; repeat' first
    | with_reducible assumption | with_reducible apply State.auxNext_ok | with_reducible apply State.setPort_ok
    | with_reducible apply ite_ok | (with_reducible refine foldl_ok (fun _ _ _ => ?_) _ ?_) | intro _ | split
    | (with_reducible apply mk_ok) | (with_reducible apply MemOk.parts) | dsimp only
theorem State.auxSettle_ok {s : State} {a0} (h : MemOk s) : MemOk (State.auxSettle s a0) := by
  unfold State.auxSettle; repeat' first
    | with_reducible assumption | with_reducible apply State.auxFree_ok | with_reducible apply ite_ok
    | with_reducible apply elim_ok | (with_reducible refine foldl_ok (fun _ _ _ => ?_) _ ?_) | intro _
    | (simp only [↓mk_ok_iff]; with_reducible refine MemOk.parts ?_) | split | dsimp only
theorem State.train_ok {s : State} {a0} {a1} (h : MemOk s) : MemOk (State.train s a0 a1) := by
  unfold State.train; repeat' first
    | with_reducible assumption | with_reducible apply State.auxNext_ok | with_reducible apply State.setPort_ok
    | with_reducible apply State.setPortState_ok | with_reducible apply ite_ok | with_reducible apply elim_ok
    | (with_reducible refine foldl_ok (fun _ _ _ => ?_) _ ?_) | intro _
    | (simp only [↓mk_ok_iff]; with_reducible refine MemOk.parts ?_) | split | dsimp only
theorem State.trainAnew_ok {s : State} {a0} (h : MemOk s) : MemOk (State.trainAnew s a0) := by
  unfold State.trainAnew; repeat' first
    | with_reducible assumption | with_reducible apply State.train_ok | with_reducible apply State.setPort_ok
    | with_reducible apply ite_ok | (with_reducible refine foldl_ok (fun _ _ _ => ?_) _ ?_) | intro _ | split
    | (with_reducible apply mk_ok) | (with_reducible apply MemOk.parts) | dsimp only
theorem State.trainFail_ok {s : State} {a0} (h : MemOk s) : MemOk (State.trainFail s a0) := by
  unfold State.trainFail; repeat' first
    | with_reducible assumption | with_reducible apply State.auxSettle_ok | with_reducible apply State.setPort_ok
    | with_reducible apply State.setPortState_ok | with_reducible apply State.raise_ok
    | with_reducible apply State.fset_ok | with_reducible apply ite_ok | with_reducible apply elim_ok
    | (with_reducible refine foldl_ok (fun _ _ _ => ?_) _ ?_) | intro _
    | (simp only [↓mk_ok_iff]; with_reducible refine MemOk.parts ?_) | split | dsimp only
theorem State.askLinkStatus_ok {s : State} {a0} (h : MemOk s) : MemOk (State.askLinkStatus s a0) := by
  unfold State.askLinkStatus; repeat' first
    | with_reducible assumption | with_reducible apply State.auxNext_ok | with_reducible apply State.setPort_ok
    | with_reducible apply ite_ok | (with_reducible refine foldl_ok (fun _ _ _ => ?_) _ ?_) | intro _ | split
    | (with_reducible apply mk_ok) | (with_reducible apply MemOk.parts) | dsimp only
theorem State.linkCtlWrite_ok {s : State} {a0} {a1} (h : MemOk s) : MemOk (State.linkCtlWrite s a0 a1) := by
  unfold State.linkCtlWrite; repeat' first
    | with_reducible assumption | with_reducible apply State.trainAnew_ok | with_reducible apply State.fset_ok
    | with_reducible apply ite_ok | (with_reducible refine foldl_ok (fun _ _ _ => ?_) _ ?_) | intro _ | split
    | (with_reducible apply mk_ok) | (with_reducible apply MemOk.parts) | dsimp only
theorem State.manCtlWrite_ok {s : State} {a0} {a1} (h : MemOk s) : MemOk (State.manCtlWrite s a0 a1) := by
  unfold State.manCtlWrite; repeat' first
    | with_reducible assumption | with_reducible apply State.setPortState_ok | with_reducible apply State.fset_ok
    | with_reducible apply State.wr_ok | with_reducible apply ite_ok
    | (with_reducible refine foldl_ok (fun _ _ _ => ?_) _ ?_) | intro _ | split | (with_reducible apply mk_ok)
    | (with_reducible apply MemOk.parts) | dsimp only
theorem State.quadWrite_ok {s : State} {a0} {a1} (h : MemOk s) : MemOk (State.quadWrite s a0 a1) := by
  unfold State.quadWrite; repeat' first
    | with_reducible assumption | with_reducible apply State.auxSettle_ok | with_reducible apply State.setPort_ok
    | with_reducible apply State.setPortState_ok | with_reducible apply State.fset_ok | with_reducible apply ite_ok
    | with_reducible apply elim_ok | (with_reducible refine foldl_ok (fun _ _ _ => ?_) _ ?_) | intro _
    | (simp only [↓mk_ok_iff]; with_reducible refine MemOk.parts ?_) | split | dsimp only
theorem State.portBoundary_ok {s : State} {a0} {a1} (h : MemOk s) : MemOk (State.portBoundary s a0 a1) := by
  unfold State.portBoundary; repeat' first
    | with_reducible assumption | with_reducible apply State.trainAnew_ok | with_reducible apply State.setPort_ok
    | with_reducible apply State.setPortState_ok | with_reducible apply State.fset_ok | with_reducible apply ite_ok
    | (with_reducible refine foldl_ok (fun _ _ _ => ?_) _ ?_) | intro _ | split | (with_reducible apply mk_ok)
    | (with_reducible apply MemOk.parts) | dsimp only
theorem State.auxDone_ok {s : State} {a0} {a1} {a2} (h : MemOk s) : MemOk (State.auxDone s a0 a1 a2) := by
  unfold State.auxDone; repeat' first
    | with_reducible assumption | with_reducible apply State.fset_ok | with_reducible apply ite_ok
    | (with_reducible refine foldl_ok (fun _ _ _ => ?_) _ ?_) | intro _ | split | (with_reducible apply mk_ok)
    | (with_reducible apply MemOk.parts) | dsimp only
theorem State.auxCmd_ok {s : State} {a0} {a1} (h : MemOk s) : MemOk (State.auxCmd s a0 a1) := by
  unfold State.auxCmd; repeat' first
    | with_reducible assumption | with_reducible apply State.auxDone_ok | with_reducible apply State.auxNext_ok
    | with_reducible apply State.setPort_ok | with_reducible apply State.fset_ok | with_reducible apply State.wr_ok
    | with_reducible apply ite_ok | (with_reducible refine foldl_ok (fun _ _ _ => ?_) _ ?_) | intro _ | split
    | (with_reducible apply mk_ok) | (with_reducible apply MemOk.parts) | dsimp only
theorem State.auxNoReply_ok {s : State} {a0} (h : MemOk s) : MemOk (State.auxNoReply s a0) := by
  unfold State.auxNoReply; repeat' first
    | with_reducible assumption | with_reducible apply State.auxDone_ok | with_reducible apply State.auxFree_ok
    | with_reducible apply State.setPort_ok | with_reducible apply ite_ok | with_reducible apply elim_ok
    | (with_reducible refine foldl_ok (fun _ _ _ => ?_) _ ?_) | intro _
    | (simp only [↓mk_ok_iff]; with_reducible refine MemOk.parts ?_) | split | dsimp only
theorem State.steerBegin_ok {s : State} {a0} {a1} (h : MemOk s) : MemOk (State.steerBegin s a0 a1) := by
  unfold State.steerBegin; repeat' first
    | with_reducible assumption | with_reducible apply State.setPortState_ok | with_reducible apply ite_ok
    | (with_reducible refine foldl_ok (fun _ _ _ => ?_) _ ?_) | intro _ | split | (with_reducible apply mk_ok)
    | (with_reducible apply MemOk.parts) | dsimp only
theorem State.degrade_ok {s : State} {a0} {a1} (h : MemOk s) : MemOk (State.degrade s a0 a1) := by
  unfold State.degrade; repeat' first
    | with_reducible assumption | with_reducible apply State.trainFail_ok | with_reducible apply State.trainAnew_ok
    | with_reducible apply State.setPort_ok | with_reducible apply State.fset_ok | with_reducible apply ite_ok
    | (with_reducible refine foldl_ok (fun _ _ _ => ?_) _ ?_) | intro _ | split | (with_reducible apply mk_ok)
    | (with_reducible apply MemOk.parts) | dsimp only
theorem State.laneWrite_ok {s : State} {a0} {a1} (h : MemOk s) : MemOk (State.laneWrite s a0 a1) := by
  unfold State.laneWrite; repeat' first
    | with_reducible assumption | with_reducible apply State.steerBegin_ok | with_reducible apply State.setPort_ok
    | with_reducible apply State.fset_ok | with_reducible apply ite_ok
    | (with_reducible refine foldl_ok (fun _ _ _ => ?_) _ ?_) | intro _ | split | (with_reducible apply mk_ok)
    | (with_reducible apply MemOk.parts) | dsimp only
theorem State.selectFor_ok {s : State} {a0} {a1} {a2} {a3} {a4} (h : MemOk s) : MemOk (State.selectFor s a0 a1 a2 a3 a4) := by
  unfold State.selectFor; repeat' first
    | with_reducible assumption | with_reducible apply ite_ok | with_reducible apply elim_ok
    | (with_reducible refine foldl_ok (fun _ _ _ => ?_) _ ?_) | intro _
    | (simp only [↓mk_ok_iff]; with_reducible refine MemOk.parts ?_) | split | dsimp only
theorem State.putAdmitted_ok {s : State} {a0} (h : MemOk s) : MemOk (State.putAdmitted s a0) := by
  unfold State.putAdmitted; repeat' first
    | with_reducible assumption | with_reducible apply ite_ok | (with_reducible refine foldl_ok (fun _ _ _ => ?_) _ ?_)
    | intro _ | split | (with_reducible apply mk_ok) | (with_reducible apply MemOk.parts) | dsimp only
theorem State.newApertures_ok {s : State} {a0} {a1} (h : MemOk s) : MemOk (State.newApertures s a0 a1) := by
  unfold State.newApertures; repeat' first
    | with_reducible assumption | with_reducible apply State.refillPipe_ok | with_reducible apply ite_ok
    | with_reducible apply elim_ok | (with_reducible refine foldl_ok (fun _ _ _ => ?_) _ ?_) | intro _
    | (simp only [↓mk_ok_iff]; with_reducible refine MemOk.parts ?_) | split | dsimp only
theorem State.reportMove_ok {s : State} {a0} {a1} (h : MemOk s) : MemOk (State.reportMove s a0 a1) := by
  unfold State.reportMove; repeat' first
    | with_reducible assumption | with_reducible apply State.putCommit_ok | with_reducible apply State.deviceWrite_ok
    | with_reducible apply State.raise_ok | with_reducible apply State.fsat_ok | with_reducible apply State.fset_ok
    | with_reducible apply ite_ok | with_reducible apply elim_ok
    | (with_reducible refine foldl_ok (fun _ _ _ => ?_) _ ?_) | intro _
    | (simp only [↓mk_ok_iff]; with_reducible refine MemOk.parts ?_) | split | dsimp only
theorem State.moveOne_ok {s : State} {a0} (h : MemOk s) : MemOk (State.moveOne s a0) := by
  unfold State.moveOne; repeat' first
    | with_reducible assumption | with_reducible apply State.reportMove_ok | with_reducible apply State.putAdmitted_ok
    | with_reducible apply ite_ok | with_reducible apply elim_ok
    | (with_reducible refine foldl_ok (fun _ _ _ => ?_) _ ?_) | intro _
    | (simp only [↓mk_ok_iff]; with_reducible refine MemOk.parts ?_) | split | dsimp only
theorem State.moveLater_ok {s : State} {n i} (h : MemOk s) : MemOk (s.moveLater n i) := by
  induction n generalizing s i with
  | zero => exact h
  | succ n ih =>
    unfold State.moveLater
    split
    · exact h
    · exact ih (ite_ok (State.moveOne_ok h) h)
theorem State.commitStatus_ok {s : State} {a0} {a1} {a2} {a3} (h : MemOk s) : MemOk (State.commitStatus s a0 a1 a2 a3) := by
  unfold State.commitStatus; repeat' first
    | with_reducible assumption | with_reducible apply State.fset_ok | with_reducible apply State.wr_ok
    | with_reducible apply ite_ok | (with_reducible refine foldl_ok (fun _ _ _ => ?_) _ ?_) | intro _ | split
    | (with_reducible apply mk_ok) | (with_reducible apply MemOk.parts) | dsimp only
theorem State.timingChanged_ok {s : State} {a0} {a1} (h : MemOk s) : MemOk (State.timingChanged s a0 a1) := by
  unfold State.timingChanged; repeat' first
    | with_reducible assumption | with_reducible apply State.acquire_ok | with_reducible apply State.setDrive_ok
    | with_reducible apply State.fset_ok | with_reducible apply ite_ok
    | (with_reducible refine foldl_ok (fun _ _ _ => ?_) _ ?_) | intro _ | split | (with_reducible apply mk_ok)
    | (with_reducible apply MemOk.parts) | dsimp only
theorem State.takeEffect_ok {s : State} {a0} {a1} {a2} (h : MemOk s) : MemOk (State.takeEffect s a0 a1 a2) := by
  unfold State.takeEffect; repeat' first
    | with_reducible assumption | with_reducible apply State.timingChanged_ok
    | with_reducible apply State.commitStatus_ok | with_reducible apply State.ltrCheck_ok
    | with_reducible apply State.showHeld_ok | with_reducible apply State.fset_ok | with_reducible apply State.wr_ok
    | with_reducible apply ite_ok | (with_reducible refine foldl_ok (fun _ _ _ => ?_) _ ?_) | intro _ | split
    | (with_reducible apply mk_ok) | (with_reducible apply MemOk.parts) | dsimp only
theorem State.endSplits_ok {s : State} {a0} {a1} (h : MemOk s) : MemOk (State.endSplits s a0 a1) := by
  unfold State.endSplits; repeat' first
    | with_reducible assumption | with_reducible apply State.switchApertures_ok | with_reducible apply State.raise_ok
    | with_reducible apply ite_ok | (with_reducible refine foldl_ok (fun _ _ _ => ?_) _ ?_) | intro _ | split
    | (with_reducible apply mk_ok) | (with_reducible apply MemOk.parts) | dsimp only
theorem State.stepLines_ok {s : State} {a0} {a1} {a2} {t r} (e : State.stepLines s a0 a1 a2 = (t, r)) (h : MemOk s) : MemOk t := by
  unfold State.stepLines at e; (try dsimp only at e);
    (repeat' split at e) <;> (try simp only [Option.some.injEq, Prod.mk.injEq, reduceCtorEq] at e) <;> (try obtain ⟨e, _⟩ := e) <;> (try subst e) <;> (try contradiction) <;> (repeat' first
    | with_reducible assumption | with_reducible apply State.setDrive_ok | with_reducible apply ite_ok
    | (with_reducible refine foldl_ok (fun _ _ _ => ?_) _ ?_) | intro _ | split | (with_reducible apply mk_ok)
    | (with_reducible apply MemOk.parts) | dsimp only)
theorem State.stepLines_ok1 {s : State} {a0} {a1} {a2}  (h : MemOk s) : MemOk (State.stepLines s a0 a1 a2).1 :=
  State.stepLines_ok rfl h
theorem State.fixNext_ok {s : State} {h' f t} (h : MemOk s) : MemOk (s.fixNext h' f t) := by
  unfold State.fixNext
  exact State.setHead_ok (State.stepLines_ok1 h)
theorem State.dropOldWords_ok {s : State} {a0} {a1} (h : MemOk s) : MemOk (State.dropOldWords s a0 a1) := by
  unfold State.dropOldWords; repeat' first
    | with_reducible assumption | with_reducible apply ite_ok | (with_reducible refine foldl_ok (fun _ _ _ => ?_) _ ?_)
    | intro _ | split | (with_reducible apply mk_ok) | (with_reducible apply MemOk.parts) | dsimp only
theorem State.adoptShown_ok {s : State} {a0} {a1} {a2} (h : MemOk s) : MemOk (State.adoptShown s a0 a1 a2) := by
  unfold State.adoptShown; repeat' first
    | with_reducible assumption | with_reducible apply ite_ok | (with_reducible refine foldl_ok (fun _ _ _ => ?_) _ ?_)
    | intro _ | split | (with_reducible apply mk_ok) | (with_reducible apply MemOk.parts) | dsimp only
theorem State.repeatShown_ok {s : State} {a0} {a1} (h : MemOk s) : MemOk (State.repeatShown s a0 a1) := by
  unfold State.repeatShown; repeat' first
    | with_reducible assumption | with_reducible apply ite_ok | (with_reducible refine foldl_ok (fun _ _ _ => ?_) _ ?_)
    | intro _ | split | (with_reducible apply mk_ok) | (with_reducible apply MemOk.parts) | dsimp only
theorem State.removeHostLayers_ok {s : State} {a0} {a1} (h : MemOk s) : MemOk (State.removeHostLayers s a0 a1) := by
  unfold State.removeHostLayers; repeat' first
    | with_reducible assumption | with_reducible apply ite_ok | (with_reducible refine foldl_ok (fun _ _ _ => ?_) _ ?_)
    | intro _ | split | (with_reducible apply mk_ok) | (with_reducible apply MemOk.parts) | dsimp only
theorem State.countFallbacks_ok {s : State} {a0} {a1} {t r} (e : State.countFallbacks s a0 a1 = (t, r)) (h : MemOk s) :
    MemOk t := by
  unfold State.countFallbacks at e; (try dsimp only at e);
    (repeat' split at e) <;> (try simp only [Option.some.injEq, Prod.mk.injEq, reduceCtorEq] at e) <;> (try obtain ⟨e, _⟩ := e) <;> (try subst e) <;> (try contradiction) <;> (repeat' first
    | with_reducible assumption | with_reducible apply State.fsat_ok | with_reducible apply ite_ok
    | (with_reducible refine foldl_ok (fun _ _ _ => ?_) _ ?_) | intro _ | split | (with_reducible apply mk_ok)
    | (with_reducible apply MemOk.parts) | dsimp only)
theorem State.countFallbacks_ok1 {s : State} {a0} {a1}  (h : MemOk s) : MemOk (State.countFallbacks s a0 a1).1 :=
  State.countFallbacks_ok rfl h
theorem State.swapsEnd_ok {s : State} (h : MemOk s) : MemOk (State.swapsEnd s) := by
  unfold State.swapsEnd; repeat' first
    | with_reducible assumption | with_reducible apply State.raise_ok | with_reducible apply State.fset_ok
    | with_reducible apply ite_ok | (with_reducible refine foldl_ok (fun _ _ _ => ?_) _ ?_) | intro _ | split
    | (with_reducible apply mk_ok) | (with_reducible apply MemOk.parts) | dsimp only
theorem State.swapHead_ok {s : State} {a0} {t r} (e : State.swapHead s a0 = (t, r)) (h : MemOk s) : MemOk t := by
  unfold State.swapHead at e; (try dsimp only at e);
    (repeat' split at e) <;> (try simp only [Option.some.injEq, Prod.mk.injEq, reduceCtorEq] at e) <;> (try obtain ⟨e, _⟩ := e) <;> (try subst e) <;> (try contradiction) <;> (repeat' first
    | with_reducible assumption | with_reducible apply ite_ok | (with_reducible refine foldl_ok (fun _ _ _ => ?_) _ ?_)
    | intro _ | split | (with_reducible apply mk_ok) | (with_reducible apply MemOk.parts) | dsimp only)
theorem State.swapHead_ok1 {s : State} {a0}  (h : MemOk s) : MemOk (State.swapHead s a0).1 := State.swapHead_ok rfl h
theorem State.openTiming_ok {s : State} {a0} {a1} {a2} {a3} {a4} (h : MemOk s) : MemOk (State.openTiming s a0 a1 a2 a3 a4) := by
  unfold State.openTiming; repeat' first
    | with_reducible assumption | with_reducible apply State.fixNext_ok | with_reducible apply State.setDrive_ok
    | with_reducible apply State.setHead_ok | with_reducible apply State.wr_ok | with_reducible apply ite_ok
    | with_reducible apply elim_ok | (with_reducible refine foldl_ok (fun _ _ _ => ?_) _ ?_) | intro _
    | (simp only [↓mk_ok_iff]; with_reducible refine MemOk.parts ?_) | split | dsimp only
theorem State.openRun_ok {s : State} {a0} {a1} {a2} {a3} {a4} {a5} (h : MemOk s) : MemOk (State.openRun s a0 a1 a2 a3 a4 a5) := by
  unfold State.openRun; repeat' first
    | with_reducible assumption | with_reducible apply State.setFrameRun_ok | with_reducible apply State.raise_ok
    | with_reducible apply State.draw_ok | with_reducible apply State.fsat_ok | with_reducible apply State.fset_ok
    | with_reducible apply ite_ok | with_reducible apply elim_ok
    | (with_reducible refine foldl_ok (fun _ _ _ => ?_) _ ?_) | intro _
    | (simp only [↓mk_ok_iff]; with_reducible refine MemOk.parts ?_) | split | dsimp only
theorem State.countShed_ok {s : State} (h : MemOk s) : MemOk (State.countShed s) := by
  unfold State.countShed; repeat' first
    | with_reducible assumption | with_reducible apply State.fset_ok | with_reducible apply ite_ok
    | (with_reducible refine foldl_ok (fun _ _ _ => ?_) _ ?_) | intro _ | split | (with_reducible apply mk_ok)
    | (with_reducible apply MemOk.parts) | dsimp only
theorem State.stopHead_ok {s : State} {a0} {a1} {a2} (h : MemOk s) : MemOk (State.stopHead s a0 a1 a2) := by
  unfold State.stopHead; repeat' first
    | with_reducible assumption | with_reducible apply State.countShed_ok | with_reducible apply State.dropOldWords_ok
    | with_reducible apply State.setFrameRun_ok | with_reducible apply State.setPortState_ok
    | with_reducible apply State.setHead_ok | with_reducible apply State.fset_ok | with_reducible apply State.wr_ok
    | with_reducible apply ite_ok | (with_reducible refine foldl_ok (fun _ _ _ => ?_) _ ?_) | intro _ | split
    | (with_reducible apply mk_ok) | (with_reducible apply MemOk.parts) | dsimp only
theorem State.frameBoundary_ok {s : State} {a0} (h : MemOk s) : MemOk (State.frameBoundary s a0) := by
  unfold State.frameBoundary; repeat' first
    | with_reducible assumption | with_reducible apply State.stopHead_ok | with_reducible apply State.countShed_ok
    | with_reducible apply State.openRun_ok | with_reducible apply State.openTiming_ok
    | (with_reducible refine State.swapHead_ok (by assumption) ?_) | with_reducible apply State.swapHead_ok1
    | with_reducible apply State.swapsEnd_ok | (with_reducible refine State.countFallbacks_ok (by assumption) ?_)
    | with_reducible apply State.countFallbacks_ok1 | with_reducible apply State.removeHostLayers_ok
    | with_reducible apply State.repeatShown_ok | with_reducible apply State.adoptShown_ok
    | with_reducible apply State.dropOldWords_ok | with_reducible apply State.endSplits_ok
    | with_reducible apply State.takeEffect_ok | with_reducible apply State.portBoundary_ok
    | with_reducible apply State.framePulse_ok | with_reducible apply State.settle_ok
    | with_reducible apply State.raiseAt_ok | with_reducible apply State.wr_ok | with_reducible apply ite_ok
    | with_reducible apply elim_ok | (with_reducible refine foldl_ok (fun _ _ _ => ?_) _ ?_) | intro _
    | (simp only [↓mk_ok_iff]; with_reducible refine MemOk.parts ?_) | split | dsimp only
theorem State.setStream_ok {s : State} {a0} {a1} (h : MemOk s) : MemOk (State.setStream s a0 a1) := by
  unfold State.setStream; repeat' first
    | with_reducible assumption | with_reducible apply ite_ok | (with_reducible refine foldl_ok (fun _ _ _ => ?_) _ ?_)
    | intro _ | split | (with_reducible apply mk_ok) | (with_reducible apply MemOk.parts) | dsimp only
theorem State.setSlot_ok {s : State} {a0} {a1} {a2} (h : MemOk s) : MemOk (State.setSlot s a0 a1 a2) := by
  unfold State.setSlot; repeat' first
    | with_reducible assumption | with_reducible apply ite_ok | (with_reducible refine foldl_ok (fun _ _ _ => ?_) _ ?_)
    | intro _ | split | (with_reducible apply mk_ok) | (with_reducible apply MemOk.parts) | dsimp only
theorem State.markSlot_ok {s : State} {a0} {a1} {a2} (h : MemOk s) : MemOk (State.markSlot s a0 a1 a2) := by
  unfold State.markSlot; repeat' first
    | with_reducible assumption | with_reducible apply State.setStream_ok | with_reducible apply ite_ok
    | (with_reducible refine foldl_ok (fun _ _ _ => ?_) _ ?_) | intro _ | split | (with_reducible apply mk_ok)
    | (with_reducible apply MemOk.parts) | dsimp only
theorem State.writeDesc_ok {s : State} {a0} {a1} {a2} {a3} {a4} {a5} (h : MemOk s) :
    MemOk (State.writeDesc s a0 a1 a2 a3 a4 a5) := by
  unfold State.writeDesc; repeat' first
    | with_reducible assumption | with_reducible apply State.deviceWrite_ok | with_reducible apply ite_ok
    | with_reducible apply elim_ok | (with_reducible refine foldl_ok (fun _ _ _ => ?_) _ ?_) | intro _
    | (simp only [↓mk_ok_iff]; with_reducible refine MemOk.parts ?_) | split | dsimp only
theorem State.endIncomplete_ok {s : State} {a0} {a1} {a2} (h : MemOk s) : MemOk (State.endIncomplete s a0 a1 a2) := by
  unfold State.endIncomplete; repeat' first
    | with_reducible assumption | with_reducible apply State.writeDesc_ok | with_reducible apply State.setSlot_ok
    | with_reducible apply State.raise_ok | with_reducible apply State.fset_ok | with_reducible apply ite_ok
    | with_reducible apply elim_ok | (with_reducible refine foldl_ok (fun _ _ _ => ?_) _ ?_) | intro _
    | (simp only [↓mk_ok_iff]; with_reducible refine MemOk.parts ?_) | split | dsimp only
theorem State.abandonOpen_ok {s : State} {a0} (h : MemOk s) : MemOk (State.abandonOpen s a0) := by
  unfold State.abandonOpen; repeat' first
    | with_reducible assumption | with_reducible apply State.endIncomplete_ok | with_reducible apply State.fset_ok
    | with_reducible apply ite_ok | with_reducible apply elim_ok
    | (with_reducible refine foldl_ok (fun _ _ _ => ?_) _ ?_) | intro _
    | (simp only [↓mk_ok_iff]; with_reducible refine MemOk.parts ?_) | split | dsimp only
theorem State.maskedStore_ok {s : State} {phys mask word} (h : MemOk s) : MemOk (s.maskedStore phys mask word) := by
  unfold State.maskedStore
  split
  · exact State.storeWord_ok h
  · exact State.mergeWord_ok h fun t ht => foldl_ok (fun _ _ hs => State.putBytes_ok hs _ _) _ ht
theorem State.startDrain_ok {s : State} {a0} {a1} (h : MemOk s) : MemOk (State.startDrain s a0 a1) := by
  unfold State.startDrain; repeat' first
    | with_reducible assumption | with_reducible apply State.markSlot_ok | with_reducible apply State.setStream_ok
    | with_reducible apply State.touchMem_ok | with_reducible apply State.refusal_ok | with_reducible apply ite_ok
    | with_reducible apply elim_ok | (with_reducible refine foldl_ok (fun _ _ _ => ?_) _ ?_) | intro _
    | (simp only [↓mk_ok_iff]; with_reducible refine MemOk.parts ?_) | split | dsimp only
theorem State.drainLine_ok {s : State} {st l phys e} (h : MemOk s) : MemOk (s.drainLine st l phys e) := by
  unfold State.drainLine
  dsimp only
  split
  · rename_i x; exact State.markSlot_ok (State.plateTake_ok x (State.setStream_ok h))
  · rename_i x; exact State.maskedStore_ok (State.plateTake_ok x (State.setStream_ok h))
theorem State.forceDrain_ok {s : State} {a0} {a1} (h : MemOk s) : MemOk (State.forceDrain s a0 a1) := by
  unfold State.forceDrain; repeat' first
    | with_reducible assumption | with_reducible apply State.drainLine_ok | with_reducible apply State.startDrain_ok
    | with_reducible apply ite_ok | with_reducible apply elim_ok
    | (with_reducible refine foldl_ok (fun _ _ _ => ?_) _ ?_) | intro _
    | (simp only [↓mk_ok_iff]; with_reducible refine MemOk.parts ?_) | split | dsimp only
theorem State.makeRoom_ok {s : State} {a0} {a1} {a2} (h : MemOk s) : MemOk (State.makeRoom s a0 a1 a2) := by
  unfold State.makeRoom; repeat' first
    | with_reducible assumption | with_reducible apply State.forceDrain_ok | with_reducible apply ite_ok
    | with_reducible apply elim_ok | (with_reducible refine foldl_ok (fun _ _ _ => ?_) _ ?_) | intro _
    | (simp only [↓mk_ok_iff]; with_reducible refine MemOk.parts ?_) | split | dsimp only
theorem State.wcPut_ok {s : State} {a0} {a1} {a2} {a3} {a4} (h : MemOk s) : MemOk (State.wcPut s a0 a1 a2 a3 a4) := by
  unfold State.wcPut; repeat' first
    | with_reducible assumption | with_reducible apply State.makeRoom_ok | with_reducible apply State.startDrain_ok
    | with_reducible apply State.setStream_ok | with_reducible apply State.platePatch_ok | with_reducible apply ite_ok
    | with_reducible apply elim_ok | (with_reducible refine foldl_ok (fun _ _ _ => ?_) _ ?_) | intro _
    | (simp only [↓mk_ok_iff]; with_reducible refine MemOk.parts ?_) | split | dsimp only
theorem State.countBytes_ok {s : State} {a0} {a1} {a2} {t r} (e : State.countBytes s a0 a1 a2 = (t, r)) (h : MemOk s) :
    MemOk t := by
  unfold State.countBytes at e; (try dsimp only at e);
    (repeat' split at e) <;> (try simp only [Option.some.injEq, Prod.mk.injEq, reduceCtorEq] at e) <;> (try obtain ⟨e, _⟩ := e) <;> (try subst e) <;> (try contradiction) <;> (repeat' first
    | with_reducible assumption | with_reducible apply State.wr_ok | with_reducible apply ite_ok
    | (with_reducible refine foldl_ok (fun _ _ _ => ?_) _ ?_) | intro _ | split | (with_reducible apply mk_ok)
    | (with_reducible apply MemOk.parts) | dsimp only)
theorem State.countBytes_ok1 {s : State} {a0} {a1} {a2}  (h : MemOk s) : MemOk (State.countBytes s a0 a1 a2).1 :=
  State.countBytes_ok rfl h
theorem State.redPacket_ok {s : State} {st k n} (h : MemOk s) : MemOk (s.redPacket st k n) := by
  unfold State.redPacket
  exact ite_ok (State.markSlot_ok (State.setStream_ok (State.countBytes_ok1 h)))
    (State.raise_ok (State.markSlot_ok (State.setStream_ok (State.countBytes_ok1 h))))
theorem State.meterRefill_ok {s : State} (h : MemOk s) : MemOk (State.meterRefill s) := by
  unfold State.meterRefill; repeat' first
    | with_reducible assumption | with_reducible apply State.markTick_ok | with_reducible apply ite_ok
    | with_reducible apply elim_ok | (with_reducible refine foldl_ok (fun _ _ _ => ?_) _ ?_) | intro _
    | (simp only [↓mk_ok_iff]; with_reducible refine MemOk.parts ?_) | split | dsimp only
theorem State.ingestPacket_ok {s : State} {a0} {a1} {a2} {a3} {t} (e : State.ingestPacket s a0 a1 a2 a3 = some t) (h : MemOk s) :
    MemOk t := by
  unfold State.ingestPacket at e; (try dsimp only at e);
    (repeat' split at e) <;> (try simp only [Option.some.injEq, Prod.mk.injEq, reduceCtorEq] at e) <;> (try obtain ⟨e, _⟩ := e) <;> (try subst e) <;> (try contradiction) <;> (repeat' first
    | with_reducible assumption | with_reducible apply State.meterRefill_ok | with_reducible apply State.redPacket_ok
    | (with_reducible refine State.countBytes_ok (by assumption) ?_) | with_reducible apply State.countBytes_ok1
    | with_reducible apply State.wcPut_ok | with_reducible apply State.markSlot_ok
    | with_reducible apply State.setStream_ok | with_reducible apply ite_ok | with_reducible apply elim_ok
    | (with_reducible refine foldl_ok (fun _ _ _ => ?_) _ ?_) | intro _
    | (simp only [↓mk_ok_iff]; with_reducible refine MemOk.parts ?_) | split | dsimp only)
theorem State.ingestPath_ok {s : State} {a : Nat} {b : List Byte} {c : Bool} {other : State → State} {t : State}
    (e : s.ingestPath a b c other = some t) (h : MemOk s) (ho : MemOk (other s)) : MemOk t := by
  unfold State.ingestPath at e
  split at e
  · exact State.ingestPacket_ok e h
  · split at e
    · cases e; exact State.fset_ok h
    · cases e; exact ho
theorem State.holdHost_ok {s : State} {x : HeldHost} {needs : Bool} {go : State → State} (h : MemOk s) (hg : MemOk (go s)) :
    MemOk (s.holdHost x needs go) := by
  unfold State.holdHost
  split
  · exact mk_ok (State.touchMem_ok h).parts
  · exact hg
theorem State.hostPut_ok {s : State} {f a b} (h : MemOk s) : MemOk (s.hostPut f a b) := by
  unfold State.hostPut
  refine getD_ok h fun t e => State.ingestPath_ok e h ?_
  split
  · exact State.store_ok (State.gcTake_ok h)
  · exact State.refusal_ok h
  · exact State.refusal_ok h
theorem State.apertureWrite_ok {s : State} {f o b p} (h : MemOk s) : MemOk (s.apertureWrite f o b p) := by
  unfold State.apertureWrite
  exact ite_ok h (ite_ok (State.aerLog_ok h) (State.holdHost_ok h (State.hostPut_ok h)))
theorem State.readSpan_ok {k : Nat} {s : State} {phys n : Nat} {fresh : Bool} {t r} (e : s.readSpan phys n fresh k = (t, r))
    (h : MemOk s) : MemOk t := by
  induction k generalizing s phys n fresh t r with
  | zero => cases e; exact h
  | succ k ih =>
    unfold State.readSpan at e
    split at e
    · cases e; exact h
    · dsimp only at e
      cases e
      exact ih rfl (State.wordRead_ok rfl h)
theorem State.hostGet_ok {s : State} {f a n fresh} (h : MemOk s) : MemOk (s.hostGet f a n fresh) := by
  unfold State.hostGet
  dsimp only
  split
  · exact State.send_ok (State.readSpan_ok rfl (State.gcTake_ok h))
  · exact State.send_ok (State.refusal_ok h)
  · exact State.send_ok (State.refusal_ok h)
theorem State.apertureRead_ok {s : State} {f o n x} (h : MemOk s) : MemOk (s.apertureRead f o n x) := by
  unfold State.apertureRead
  exact ite_ok h (State.holdHost_ok h (State.hostGet_ok h))
theorem State.readSlotDesc_ok {s : State} {a0} {a1} {a2} {t r} (e : State.readSlotDesc s a0 a1 a2 = (t, r)) (h : MemOk s) :
    MemOk t := by
  unfold State.readSlotDesc at e; (try dsimp only at e);
    (repeat' split at e) <;> (try simp only [Option.some.injEq, Prod.mk.injEq, reduceCtorEq] at e) <;> (try obtain ⟨e, _⟩ := e) <;> (try subst e) <;> (try contradiction) <;> (repeat' first
    | with_reducible assumption | with_reducible apply State.send_ok | with_reducible apply State.aerLog_ok
    | with_reducible apply State.touchMem_ok | (with_reducible refine State.wordRead_ok (by assumption) ?_)
    | with_reducible apply State.wordRead_ok1 | with_reducible apply State.refusal_ok | with_reducible apply ite_ok
    | with_reducible apply elim_ok | (with_reducible refine foldl_ok (fun _ _ _ => ?_) _ ?_) | intro _
    | (simp only [↓mk_ok_iff]; with_reducible refine MemOk.parts ?_) | split | dsimp only)
theorem State.readSlotDesc_ok1 {s : State} {a0} {a1} {a2}  (h : MemOk s) : MemOk (State.readSlotDesc s a0 a1 a2).1 :=
  State.readSlotDesc_ok rfl h
theorem State.refuseOpen_ok {s : State} {a0} {a1} (h : MemOk s) : MemOk (State.refuseOpen s a0 a1) := by
  unfold State.refuseOpen; repeat' first
    | with_reducible assumption | with_reducible apply State.fset_ok | with_reducible apply ite_ok
    | (with_reducible refine foldl_ok (fun _ _ _ => ?_) _ ?_) | intro _ | split | (with_reducible apply mk_ok)
    | (with_reducible apply MemOk.parts) | dsimp only
theorem State.openExamine_ok {s : State} {a0} {a1} {a2} (h : MemOk s) : MemOk (State.openExamine s a0 a1 a2) := by
  unfold State.openExamine; repeat' first
    | with_reducible assumption | with_reducible apply State.refuseOpen_ok
    | (with_reducible refine State.readSlotDesc_ok (by assumption) ?_) | with_reducible apply State.readSlotDesc_ok1
    | with_reducible apply State.abandonOpen_ok | with_reducible apply State.setSlot_ok
    | with_reducible apply State.setStream_ok | with_reducible apply State.deviceWrite_ok
    | with_reducible apply State.fset_ok | with_reducible apply ite_ok | with_reducible apply elim_ok
    | (with_reducible refine foldl_ok (fun _ _ _ => ?_) _ ?_) | intro _
    | (simp only [↓mk_ok_iff]; with_reducible refine MemOk.parts ?_) | split | dsimp only
theorem State.ingOpen_ok {s : State} {a0} {a1} {a2} (h : MemOk s) : MemOk (State.ingOpen s a0 a1 a2) := by
  unfold State.ingOpen; repeat' first
    | with_reducible assumption | with_reducible apply State.openExamine_ok | with_reducible apply State.setStream_ok
    | with_reducible apply ite_ok | with_reducible apply elim_ok
    | (with_reducible refine foldl_ok (fun _ _ _ => ?_) _ ?_) | intro _
    | (simp only [↓mk_ok_iff]; with_reducible refine MemOk.parts ?_) | split | dsimp only
theorem State.slotOpen_ok {s : State} {st k r} (h : MemOk s) : MemOk (s.slotOpen st k r) :=
  State.holdHost_ok h (State.ingOpen_ok h)
theorem State.ingDone_ok {s : State} {a0} (h : MemOk s) : MemOk (State.ingDone s a0) := by
  unfold State.ingDone; repeat' first
    | with_reducible assumption | with_reducible apply State.refuseOpen_ok | with_reducible apply State.startDrain_ok
    | with_reducible apply State.setStream_ok | with_reducible apply State.fset_ok | with_reducible apply ite_ok
    | with_reducible apply elim_ok | (with_reducible refine foldl_ok (fun _ _ _ => ?_) _ ?_) | intro _
    | (simp only [↓mk_ok_iff]; with_reducible refine MemOk.parts ?_) | split | dsimp only
theorem State.slotDone_ok {s : State} {st} (h : MemOk s) : MemOk (s.slotDone st) :=
  State.holdHost_ok h (State.ingDone_ok h)
theorem State.replayHeld_ok {s : State} (h : MemOk s) : MemOk s.replayHeld := by
  unfold State.replayHeld
  refine foldl_ok (fun s b hs => ?_) _ (mk_ok h.parts)
  split
  · exact State.hostPut_ok hs
  · exact State.hostGet_ok hs
  · exact State.ingOpen_ok hs
  · exact State.ingDone_ok hs
theorem State.slotComplete_ok {s : State} {a0} {a1} (h : MemOk s) : MemOk (State.slotComplete s a0 a1) := by
  unfold State.slotComplete; repeat' first
    | with_reducible assumption | with_reducible apply State.writeDesc_ok | with_reducible apply State.setSlot_ok
    | with_reducible apply State.setStream_ok | with_reducible apply State.deviceWrite_ok
    | with_reducible apply State.raise_ok | with_reducible apply State.fset_ok | with_reducible apply ite_ok
    | with_reducible apply elim_ok | (with_reducible refine foldl_ok (fun _ _ _ => ?_) _ ?_) | intro _
    | (simp only [↓mk_ok_iff]; with_reducible refine MemOk.parts ?_) | split | dsimp only
theorem State.ingCfgWrite_ok {s : State} {a0} {a1} {a2} (h : MemOk s) : MemOk (State.ingCfgWrite s a0 a1 a2) := by
  unfold State.ingCfgWrite; repeat' first
    | with_reducible assumption | with_reducible apply State.meterRefill_ok | with_reducible apply State.abandonOpen_ok
    | with_reducible apply State.setStream_ok | with_reducible apply State.fset_ok | with_reducible apply ite_ok
    | with_reducible apply elim_ok | (with_reducible refine foldl_ok (fun _ _ _ => ?_) _ ?_) | intro _
    | (simp only [↓mk_ok_iff]; with_reducible refine MemOk.parts ?_) | split | dsimp only
theorem State.ingRateWrite_ok {s : State} {a0} {a1} {a2} (h : MemOk s) : MemOk (State.ingRateWrite s a0 a1 a2) := by
  unfold State.ingRateWrite; repeat' first
    | with_reducible assumption | with_reducible apply State.meterRefill_ok | with_reducible apply State.setStream_ok
    | with_reducible apply State.fset_ok | with_reducible apply State.wr_ok | with_reducible apply ite_ok
    | with_reducible apply elim_ok | (with_reducible refine foldl_ok (fun _ _ _ => ?_) _ ?_) | intro _
    | (simp only [↓mk_ok_iff]; with_reducible refine MemOk.parts ?_) | split | dsimp only
theorem State.setChan_ok {s : State} {a0} {a1} (h : MemOk s) : MemOk (State.setChan s a0 a1) := by
  unfold State.setChan; repeat' first
    | with_reducible assumption | with_reducible apply ite_ok | (with_reducible refine foldl_ok (fun _ _ _ => ?_) _ ?_)
    | intro _ | split | (with_reducible apply mk_ok) | (with_reducible apply MemOk.parts) | dsimp only
theorem State.setChanState_ok {s : State} {a0} {a1} (h : MemOk s) : MemOk (State.setChanState s a0 a1) := by
  unfold State.setChanState; repeat' first
    | with_reducible assumption | with_reducible apply State.fset_ok | with_reducible apply ite_ok
    | (with_reducible refine foldl_ok (fun _ _ _ => ?_) _ ?_) | intro _ | split | (with_reducible apply mk_ok)
    | (with_reducible apply MemOk.parts) | dsimp only
theorem State.setPair_ok {s : State} {a0} {a1} (h : MemOk s) : MemOk (State.setPair s a0 a1) := by
  unfold State.setPair; repeat' first
    | with_reducible assumption | with_reducible apply State.wr_ok | with_reducible apply ite_ok
    | (with_reducible refine foldl_ok (fun _ _ _ => ?_) _ ?_) | intro _ | split | (with_reducible apply mk_ok)
    | (with_reducible apply MemOk.parts) | dsimp only
theorem State.setRemain_ok {s : State} {a0} (h : MemOk s) : MemOk (State.setRemain s a0) := by
  unfold State.setRemain; repeat' first
    | with_reducible assumption | with_reducible apply State.setPair_ok | with_reducible apply ite_ok
    | (with_reducible refine foldl_ok (fun _ _ _ => ?_) _ ?_) | intro _ | split | (with_reducible apply mk_ok)
    | (with_reducible apply MemOk.parts) | dsimp only
theorem State.latchError_ok {s : State} {a0} {a1} {a2} {a3} (h : MemOk s) : MemOk (State.latchError s a0 a1 a2 a3) := by
  unfold State.latchError; repeat' first
    | with_reducible assumption | with_reducible apply State.setPair_ok | with_reducible apply State.fset_ok
    | with_reducible apply ite_ok | (with_reducible refine foldl_ok (fun _ _ _ => ?_) _ ?_) | intro _ | split
    | (with_reducible apply mk_ok) | (with_reducible apply MemOk.parts) | dsimp only
theorem State.haltChan_ok {s : State} {a0} {a1} {a2} {a3} (h : MemOk s) : MemOk (State.haltChan s a0 a1 a2 a3) := by
  unfold State.haltChan; repeat' first
    | with_reducible assumption | with_reducible apply State.latchError_ok | with_reducible apply State.setChanState_ok
    | with_reducible apply State.setChan_ok | with_reducible apply State.raise_ok | with_reducible apply ite_ok
    | (with_reducible refine foldl_ok (fun _ _ _ => ?_) _ ?_) | intro _ | split | (with_reducible apply mk_ok)
    | (with_reducible apply MemOk.parts) | dsimp only
theorem State.stageIn_ok {s : State} {a0} {a1} {a2} {a3} {a4} (h : MemOk s) : MemOk (State.stageIn s a0 a1 a2 a3 a4) := by
  unfold State.stageIn; repeat' first
    | with_reducible assumption | with_reducible apply State.setChan_ok | with_reducible apply State.platePut_ok
    | with_reducible apply ite_ok | with_reducible apply elim_ok
    | (with_reducible refine foldl_ok (fun _ _ _ => ?_) _ ?_) | intro _
    | (simp only [↓mk_ok_iff]; with_reducible refine MemOk.parts ?_) | split | dsimp only
theorem State.flushAcks_ok {s : State} {a0} (h : MemOk s) : MemOk (State.flushAcks s a0) := by
  unfold State.flushAcks; repeat' first
    | with_reducible assumption | with_reducible apply State.setChan_ok | with_reducible apply State.store_ok
    | with_reducible apply ite_ok | with_reducible apply elim_ok
    | (with_reducible refine foldl_ok (fun _ _ _ => ?_) _ ?_) | intro _
    | (simp only [↓mk_ok_iff]; with_reducible refine MemOk.parts ?_) | split | dsimp only
theorem State.wbEnd_ok {s : State} {a0} (h : MemOk s) : MemOk (State.wbEnd s a0) := by
  unfold State.wbEnd; repeat' first
    | with_reducible assumption | with_reducible apply ite_ok | (with_reducible refine foldl_ok (fun _ _ _ => ?_) _ ?_)
    | intro _ | split | (with_reducible apply mk_ok) | (with_reducible apply MemOk.parts) | dsimp only
theorem State.idleChan_ok {s : State} {a0} (h : MemOk s) : MemOk (State.idleChan s a0) := by
  unfold State.idleChan; repeat' first
    | with_reducible assumption | with_reducible apply State.wbEnd_ok | with_reducible apply State.flushAcks_ok
    | with_reducible apply State.setChanState_ok | with_reducible apply State.setChan_ok | with_reducible apply ite_ok
    | with_reducible apply elim_ok | (with_reducible refine foldl_ok (fun _ _ _ => ?_) _ ?_) | intro _
    | (simp only [↓mk_ok_iff]; with_reducible refine MemOk.parts ?_) | split | dsimp only
theorem State.askDesc_ok {s : State} {a0} (h : MemOk s) : MemOk (State.askDesc s a0) := by
  unfold State.askDesc; repeat' first
    | with_reducible assumption | with_reducible apply State.haltChan_ok | with_reducible apply State.setChan_ok
    | with_reducible apply State.send_ok | with_reducible apply State.askBe_ok | with_reducible apply State.refusal_ok
    | with_reducible apply ite_ok | with_reducible apply elim_ok
    | (with_reducible refine foldl_ok (fun _ _ _ => ?_) _ ?_) | intro _
    | (simp only [↓mk_ok_iff]; with_reducible refine MemOk.parts ?_) | split | dsimp only
theorem State.startChan_ok {s : State} {a0} {a1} (h : MemOk s) : MemOk (State.startChan s a0 a1) := by
  unfold State.startChan; repeat' first
    | with_reducible assumption | with_reducible apply State.askDesc_ok | with_reducible apply State.setPair_ok
    | with_reducible apply State.setChanState_ok | with_reducible apply State.setChan_ok | with_reducible apply ite_ok
    | with_reducible apply elim_ok | (with_reducible refine foldl_ok (fun _ _ _ => ?_) _ ?_) | intro _
    | (simp only [↓mk_ok_iff]; with_reducible refine MemOk.parts ?_) | split | dsimp only
theorem State.nextDesc_ok {s : State} {a0} {a1} (h : MemOk s) : MemOk (State.nextDesc s a0 a1) := by
  unfold State.nextDesc; repeat' first
    | with_reducible assumption | with_reducible apply State.askDesc_ok | with_reducible apply State.idleChan_ok
    | with_reducible apply State.wbEnd_ok | with_reducible apply State.setPair_ok
    | with_reducible apply State.setChanState_ok | with_reducible apply State.setChan_ok | with_reducible apply ite_ok
    | with_reducible apply elim_ok | (with_reducible refine foldl_ok (fun _ _ _ => ?_) _ ?_) | intro _
    | (simp only [↓mk_ok_iff]; with_reducible refine MemOk.parts ?_) | split | dsimp only
theorem State.readError_ok {s : State} {a0} {a1} {a2} (h : MemOk s) : MemOk (State.readError s a0 a1 a2) := by
  unfold State.readError; repeat' first
    | with_reducible assumption | with_reducible apply State.haltChan_ok | with_reducible apply State.setChan_ok
    | with_reducible apply ite_ok | (with_reducible refine foldl_ok (fun _ _ _ => ?_) _ ?_) | intro _ | split
    | (with_reducible apply mk_ok) | (with_reducible apply MemOk.parts) | dsimp only
theorem State.wbStage_ok {s : State} {a0} {a1} {a2} (h : MemOk s) : MemOk (State.wbStage s a0 a1 a2) := by
  unfold State.wbStage; repeat' first
    | with_reducible assumption | with_reducible apply State.stageIn_ok | with_reducible apply State.setChan_ok
    | (with_reducible refine State.plateTake_ok (by assumption) ?_) | with_reducible apply State.plateTake_ok1
    | with_reducible apply ite_ok | with_reducible apply elim_ok
    | (with_reducible refine foldl_ok (fun _ _ _ => ?_) _ ?_) | intro _
    | (simp only [↓mk_ok_iff]; with_reducible refine MemOk.parts ?_) | split | dsimp only
theorem State.ahead1_ok {s : State} {a0} {a1} {a2} (h : MemOk s) : MemOk (State.ahead1 s a0 a1 a2) := by
  unfold State.ahead1; repeat' first
    | with_reducible assumption | with_reducible apply State.wbStage_ok | with_reducible apply State.stageIn_ok
    | with_reducible apply State.setChan_ok | with_reducible apply State.send_ok | with_reducible apply State.askBe_ok
    | with_reducible apply State.refusal_ok | with_reducible apply ite_ok | with_reducible apply elim_ok
    | (with_reducible refine foldl_ok (fun _ _ _ => ?_) _ ?_) | intro _
    | (simp only [↓mk_ok_iff]; with_reducible refine MemOk.parts ?_) | split | dsimp only
theorem State.workAhead_ok {s : State} {c n} (h : MemOk s) : MemOk (s.workAhead c n) := by
  induction n generalizing s with
  | zero =>
    rw [State.workAhead.eq_def]
    dsimp only
    split
    · exact ite_ok (State.readError_ok h) h
    · exact h
    · contradiction
  | succ n ih =>
    rw [State.workAhead.eq_def]
    dsimp only
    split
    · exact ite_ok (State.readError_ok h) h
    · contradiction
    · rename_i m e _
      simp only [Nat.succ.injEq, Nat.add_right_cancel_iff] at e
      subst e
      split
      · exact ite_ok (ih (State.ahead1_ok h)) h
      · exact h
theorem State.takeDesc_ok {s : State} {a0} {a1} (h : MemOk s) : MemOk (State.takeDesc s a0 a1) := by
  unfold State.takeDesc; repeat' first
    | with_reducible assumption | with_reducible apply State.workAhead_ok | with_reducible apply State.nextDesc_ok
    | with_reducible apply State.haltChan_ok | with_reducible apply State.setRemain_ok
    | with_reducible apply State.setChanState_ok | with_reducible apply State.setChan_ok | with_reducible apply ite_ok
    | with_reducible apply elim_ok | (with_reducible refine foldl_ok (fun _ _ _ => ?_) _ ?_) | intro _
    | (simp only [↓mk_ok_iff]; with_reducible refine MemOk.parts ?_) | split | dsimp only
theorem State.descData_ok {s : State} {a0} {a1} (h : MemOk s) : MemOk (State.descData s a0 a1) := by
  unfold State.descData; repeat' first
    | with_reducible assumption | with_reducible apply State.takeDesc_ok | with_reducible apply State.haltChan_ok
    | with_reducible apply State.setChan_ok | with_reducible apply State.aerLog_ok
    | with_reducible apply State.touchMem_ok | (with_reducible refine State.localRead_ok (by assumption) ?_)
    | with_reducible apply State.localRead_ok1 | with_reducible apply ite_ok | with_reducible apply elim_ok
    | (with_reducible refine foldl_ok (fun _ _ _ => ?_) _ ?_) | intro _
    | (simp only [↓mk_ok_iff]; with_reducible refine MemOk.parts ?_) | split | dsimp only
theorem State.sourceData_ok {s : State} {a0} {a1} (h : MemOk s) : MemOk (State.sourceData s a0 a1) := by
  unfold State.sourceData; repeat' first
    | with_reducible assumption | with_reducible apply State.workAhead_ok | with_reducible apply State.readError_ok
    | with_reducible apply State.stageIn_ok | with_reducible apply State.setChan_ok
    | with_reducible apply State.aerLog_ok | with_reducible apply State.touchMem_ok
    | (with_reducible refine State.localRead_ok (by assumption) ?_) | with_reducible apply State.localRead_ok1
    | with_reducible apply ite_ok | with_reducible apply elim_ok
    | (with_reducible refine foldl_ok (fun _ _ _ => ?_) _ ?_) | intro _
    | (simp only [↓mk_ok_iff]; with_reducible refine MemOk.parts ?_) | split | dsimp only
theorem State.doneErr_ok {s : State} {a0} {a1} {a2} {a3} (h : MemOk s) : MemOk (State.doneErr s a0 a1 a2 a3) := by
  unfold State.doneErr; repeat' first
    | with_reducible assumption | with_reducible apply State.nextDesc_ok | with_reducible apply State.idleChan_ok
    | with_reducible apply State.flushAcks_ok | with_reducible apply State.latchError_ok
    | with_reducible apply State.raise_ok | with_reducible apply State.fset_ok | with_reducible apply ite_ok
    | with_reducible apply elim_ok | (with_reducible refine foldl_ok (fun _ _ _ => ?_) _ ?_) | intro _
    | (simp only [↓mk_ok_iff]; with_reducible refine MemOk.parts ?_) | split | dsimp only
theorem State.fenceWrite_ok {s : State} {a0} {a1} {t r} (e : State.fenceWrite s a0 a1 = (t, r)) (h : MemOk s) : MemOk t := by
  unfold State.fenceWrite at e; (try dsimp only at e);
    (repeat' split at e) <;> (try simp only [Option.some.injEq, Prod.mk.injEq, reduceCtorEq] at e) <;> (try obtain ⟨e, _⟩ := e) <;> (try subst e) <;> (try contradiction) <;> (repeat' first
    | with_reducible assumption | with_reducible apply State.send_ok | with_reducible apply State.store_ok
    | with_reducible apply State.refusal_ok | with_reducible apply ite_ok | with_reducible apply elim_ok
    | (with_reducible refine foldl_ok (fun _ _ _ => ?_) _ ?_) | intro _
    | (simp only [↓mk_ok_iff]; with_reducible refine MemOk.parts ?_) | split | dsimp only)
theorem State.fenceWrite_ok1 {s : State} {a0} {a1}  (h : MemOk s) : MemOk (State.fenceWrite s a0 a1).1 :=
  State.fenceWrite_ok rfl h
theorem State.finishDesc_ok {s : State} {a0} {a1} (h : MemOk s) : MemOk (State.finishDesc s a0 a1) := by
  unfold State.finishDesc; repeat' first
    | with_reducible assumption | (with_reducible refine State.fenceWrite_ok (by assumption) ?_)
    | with_reducible apply State.fenceWrite_ok1 | with_reducible apply State.doneErr_ok
    | with_reducible apply State.nextDesc_ok | with_reducible apply State.ingDone_ok
    | with_reducible apply State.raise_ok | with_reducible apply State.fsat_ok | with_reducible apply State.fset_ok
    | with_reducible apply ite_ok | with_reducible apply elim_ok
    | (with_reducible refine foldl_ok (fun _ _ _ => ?_) _ ?_) | intro _
    | (simp only [↓mk_ok_iff]; with_reducible refine MemOk.parts ?_) | split | dsimp only
theorem State.checkDone_ok {s : State} {a0} (h : MemOk s) : MemOk (State.checkDone s a0) := by
  unfold State.checkDone; repeat' first
    | with_reducible assumption | with_reducible apply State.finishDesc_ok | with_reducible apply ite_ok
    | with_reducible apply elim_ok | (with_reducible refine foldl_ok (fun _ _ _ => ?_) _ ?_) | intro _
    | (simp only [↓mk_ok_iff]; with_reducible refine MemOk.parts ?_) | split | dsimp only
theorem State.beatIssued_ok {s : State} {a0} {a1} {a2} {a3} (h : MemOk s) : MemOk (State.beatIssued s a0 a1 a2 a3) := by
  unfold State.beatIssued; repeat' first
    | with_reducible assumption | with_reducible apply State.checkDone_ok | with_reducible apply State.workAhead_ok
    | with_reducible apply State.setRemain_ok | with_reducible apply State.setChanState_ok
    | with_reducible apply State.setChan_ok | with_reducible apply State.askBe_ok | with_reducible apply ite_ok
    | with_reducible apply elim_ok | (with_reducible refine foldl_ok (fun _ _ _ => ?_) _ ?_) | intro _
    | (simp only [↓mk_ok_iff]; with_reducible refine MemOk.parts ?_) | split | dsimp only
theorem State.beatOut_ok {s : State} {a0} {a1} {a2} (h : MemOk s) : MemOk (State.beatOut s a0 a1 a2) := by
  unfold State.beatOut; repeat' first
    | with_reducible assumption | with_reducible apply State.beatIssued_ok | with_reducible apply State.haltChan_ok
    | with_reducible apply State.send_ok | with_reducible apply State.refusal_ok | with_reducible apply ite_ok
    | with_reducible apply elim_ok | (with_reducible refine foldl_ok (fun _ _ _ => ?_) _ ?_) | intro _
    | (simp only [↓mk_ok_iff]; with_reducible refine MemOk.parts ?_) | split | dsimp only
theorem State.writeBeat_ok {s : State} {c e} (h : MemOk s) : MemOk (s.writeBeat c e) := by
  unfold State.writeBeat
  extract_lets x
  cases x.staged with
  | nil => exact h
  | cons b l =>
    dsimp only
    refine ite_ok (State.haltChan_ok h) ?_
    split
    · rename_i p; exact State.haltChan_ok (State.setChan_ok (State.plateTake_ok p h))
    · rename_i p
      have ht := State.plateTake_ok p h
      refine ite_ok (ite_ok (State.touchMem_ok ht) ?_) (State.beatOut_ok ht)
      split
      · rename_i q; exact State.beatIssued_ok (State.ingestPath_ok q ht ht)
      · exact State.setChanState_ok ht
theorem State.endStop_ok {s : State} {a0} (h : MemOk s) : MemOk (State.endStop s a0) := by
  unfold State.endStop; repeat' first
    | with_reducible assumption | with_reducible apply State.idleChan_ok | with_reducible apply ite_ok
    | with_reducible apply elim_ok | (with_reducible refine foldl_ok (fun _ _ _ => ?_) _ ?_) | intro _
    | (simp only [↓mk_ok_iff]; with_reducible refine MemOk.parts ?_) | split | dsimp only
theorem State.moverBeat_ok {s : State} {a0} (h : MemOk s) : MemOk (State.moverBeat s a0) := by
  unfold State.moverBeat; repeat' first
    | with_reducible assumption | with_reducible apply State.endStop_ok | with_reducible apply State.writeBeat_ok
    | with_reducible apply ite_ok | with_reducible apply elim_ok
    | (with_reducible refine foldl_ok (fun _ _ _ => ?_) _ ?_) | intro _
    | (simp only [↓mk_ok_iff]; with_reducible refine MemOk.parts ?_) | split | dsimp only
theorem State.writeAck_ok {s : State} {a0} {a1} (h : MemOk s) : MemOk (State.writeAck s a0 a1) := by
  unfold State.writeAck; repeat' first
    | with_reducible assumption | with_reducible apply State.checkDone_ok | with_reducible apply State.doneErr_ok
    | with_reducible apply State.haltChan_ok | with_reducible apply State.setRemain_ok
    | with_reducible apply State.setChan_ok | with_reducible apply State.touchMem_ok
    | with_reducible apply State.store_ok | with_reducible apply ite_ok | with_reducible apply elim_ok
    | (with_reducible refine foldl_ok (fun _ _ _ => ?_) _ ?_) | intro _
    | (simp only [↓mk_ok_iff]; with_reducible refine MemOk.parts ?_) | split | dsimp only
theorem State.wbOverflow_ok {s : State} {a0} {a1} (h : MemOk s) : MemOk (State.wbOverflow s a0 a1) := by
  unfold State.wbOverflow; repeat' first
    | with_reducible assumption | with_reducible apply State.nextDesc_ok | with_reducible apply State.wbEnd_ok
    | with_reducible apply State.flushAcks_ok | with_reducible apply State.setChan_ok
    | with_reducible apply State.raise_ok | with_reducible apply State.fsat_ok | with_reducible apply State.fset_ok
    | with_reducible apply ite_ok | with_reducible apply elim_ok
    | (with_reducible refine foldl_ok (fun _ _ _ => ?_) _ ?_) | intro _
    | (simp only [↓mk_ok_iff]; with_reducible refine MemOk.parts ?_) | split | dsimp only
theorem State.wbPour_ok {s : State} {c a b n} (h : MemOk s) : MemOk (s.wbPour c a b n) := by
  induction n generalizing s a b with
  | zero => exact h
  | succ n ih =>
    unfold State.wbPour
    split
    · exact h
    · exact ih (State.platePatch_ok h)
theorem State.wbEnter_ok {s : State} {a0} {a1} {a2} {a3} (h : MemOk s) : MemOk (State.wbEnter s a0 a1 a2 a3) := by
  unfold State.wbEnter; repeat' first
    | with_reducible assumption | with_reducible apply State.wbPour_ok | with_reducible apply State.setChan_ok
    | with_reducible apply ite_ok | with_reducible apply elim_ok
    | (with_reducible refine foldl_ok (fun _ _ _ => ?_) _ ?_) | intro _
    | (simp only [↓mk_ok_iff]; with_reducible refine MemOk.parts ?_) | split | dsimp only
theorem State.wbCapture_ok {s : State} {a0} {a1} (h : MemOk s) : MemOk (State.wbCapture s a0 a1) := by
  unfold State.wbCapture; repeat' first
    | with_reducible assumption | with_reducible apply State.wbEnter_ok | with_reducible apply State.wbOverflow_ok
    | with_reducible apply State.workAhead_ok | with_reducible apply ite_ok | with_reducible apply elim_ok
    | (with_reducible refine foldl_ok (fun _ _ _ => ?_) _ ?_) | intro _
    | (simp only [↓mk_ok_iff]; with_reducible refine MemOk.parts ?_) | split | dsimp only
theorem State.resumeChan_ok {s : State} {a0} (h : MemOk s) : MemOk (State.resumeChan s a0) := by
  unfold State.resumeChan; repeat' first
    | with_reducible assumption | with_reducible apply State.checkDone_ok | with_reducible apply State.workAhead_ok
    | with_reducible apply State.nextDesc_ok | with_reducible apply State.askDesc_ok
    | with_reducible apply State.setChanState_ok | with_reducible apply State.setChan_ok | with_reducible apply ite_ok
    | with_reducible apply elim_ok | (with_reducible refine foldl_ok (fun _ _ _ => ?_) _ ?_) | intro _
    | (simp only [↓mk_ok_iff]; with_reducible refine MemOk.parts ?_) | split | dsimp only
theorem State.stopChan_ok {s : State} {a0} (h : MemOk s) : MemOk (State.stopChan s a0) := by
  unfold State.stopChan; repeat' first
    | with_reducible assumption | with_reducible apply State.idleChan_ok | with_reducible apply State.setChan_ok
    | with_reducible apply ite_ok | with_reducible apply elim_ok
    | (with_reducible refine foldl_ok (fun _ _ _ => ?_) _ ?_) | intro _
    | (simp only [↓mk_ok_iff]; with_reducible refine MemOk.parts ?_) | split | dsimp only
theorem State.dmaCtlWrite_ok {s : State} {a0} {a1} (h : MemOk s) : MemOk (State.dmaCtlWrite s a0 a1) := by
  unfold State.dmaCtlWrite; repeat' first
    | with_reducible assumption | with_reducible apply State.stopChan_ok | with_reducible apply State.resumeChan_ok
    | with_reducible apply State.startChan_ok | with_reducible apply State.idleChan_ok
    | with_reducible apply State.fset_ok | with_reducible apply State.wr_ok | with_reducible apply ite_ok
    | with_reducible apply elim_ok | (with_reducible refine foldl_ok (fun _ _ _ => ?_) _ ?_) | intro _
    | (simp only [↓mk_ok_iff]; with_reducible refine MemOk.parts ?_) | split | dsimp only
theorem State.dmaCommand_ok {s : State} {a0} {a1} {a2} (h : MemOk s) : MemOk (State.dmaCommand s a0 a1 a2) := by
  unfold State.dmaCommand; repeat' first
    | with_reducible assumption | with_reducible apply State.dmaCtlWrite_ok | with_reducible apply State.access_ok
    | with_reducible apply ite_ok | with_reducible apply elim_ok
    | (with_reducible refine foldl_ok (fun _ _ _ => ?_) _ ?_) | intro _
    | (simp only [↓mk_ok_iff]; with_reducible refine MemOk.parts ?_) | split | dsimp only
theorem State.jrnShow_ok {s : State} (h : MemOk s) : MemOk (State.jrnShow s) := by
  unfold State.jrnShow; repeat' first
    | with_reducible assumption | with_reducible apply State.fset_ok | with_reducible apply State.wr_ok
    | with_reducible apply ite_ok | with_reducible apply elim_ok
    | (with_reducible refine foldl_ok (fun _ _ _ => ?_) _ ?_) | intro _
    | (simp only [↓mk_ok_iff]; with_reducible refine MemOk.parts ?_) | split | dsimp only
theorem State.sign_ok {s : State} {body t r} (e : s.sign body = (t, r)) (h : MemOk s) : MemOk t := by
  cases e; exact State.draw_ok h
theorem State.signNext_ok {s : State} (h : MemOk s) : MemOk (State.signNext s) := by
  unfold State.signNext; repeat' first
    | with_reducible assumption | with_reducible apply State.draw_ok | with_reducible apply ite_ok
    | with_reducible apply elim_ok | (with_reducible refine foldl_ok (fun _ _ _ => ?_) _ ?_) | intro _
    | (simp only [↓mk_ok_iff]; with_reducible refine MemOk.parts ?_) | split | dsimp only
theorem State.startSeal_ok {s : State} (h : MemOk s) : MemOk (State.startSeal s) := by
  unfold State.startSeal; repeat' first
    | with_reducible assumption | with_reducible apply State.jrnShow_ok | with_reducible apply ite_ok
    | with_reducible apply elim_ok | (with_reducible refine foldl_ok (fun _ _ _ => ?_) _ ?_) | intro _
    | (simp only [↓mk_ok_iff]; with_reducible refine MemOk.parts ?_) | split | dsimp only
theorem State.checkpointSigned_ok {s : State} (h : MemOk s) : MemOk s.checkpointSigned := by
  unfold State.checkpointSigned
  split
  · exact h
  · exact ite_ok h (State.jrnShow_ok (State.signNext_ok (mk_ok (MemOk.parts (State.draw_ok h)))))
theorem State.sealEnd_ok {s : State} (h : MemOk s) : MemOk (State.sealEnd s) := by
  unfold State.sealEnd; repeat' first
    | with_reducible assumption | with_reducible apply State.signNext_ok | with_reducible apply State.jrnShow_ok
    | with_reducible apply ite_ok | with_reducible apply elim_ok
    | (with_reducible refine foldl_ok (fun _ _ _ => ?_) _ ?_) | intro _
    | (simp only [↓mk_ok_iff]; with_reducible refine MemOk.parts ?_) | split | dsimp only
theorem State.sealSigned_ok {s : State} (h : MemOk s) : MemOk s.sealSigned := by
  unfold State.sealSigned
  refine ite_ok h ?_
  dsimp only
  have k : MemOk (s.draw.sign (s.checkpoint 1)).1 := State.draw_ok (State.draw_ok h)
  exact ite_ok (State.jrnShow_ok (mk_ok k.parts)) (State.sealEnd_ok (State.fset_ok (mk_ok k.parts)))
theorem State.sealProgrammed_ok {s : State} (h : MemOk s) : MemOk s.sealProgrammed := by
  unfold State.sealProgrammed
  exact ite_ok h (State.sealEnd_ok (State.fset_ok (State.fset_ok (mk_ok ⟨h.1, h.2.1, flashProgram_wf h.2.2 _ _⟩))))
theorem State.finishSeal_ok {s : State} (h : MemOk s) : MemOk (State.finishSeal s) := by
  unfold State.finishSeal; repeat' first
    | with_reducible assumption | with_reducible apply State.sealProgrammed_ok
    | with_reducible apply State.sealSigned_ok | with_reducible apply State.checkpointSigned_ok
    | with_reducible apply ite_ok | with_reducible apply elim_ok
    | (with_reducible refine foldl_ok (fun _ _ _ => ?_) _ ?_) | intro _
    | (simp only [↓mk_ok_iff]; with_reducible refine MemOk.parts ?_) | split | dsimp only
theorem State.sealPs4_ok {s : State} (h : MemOk s) : MemOk (State.sealPs4 s) := by
  unfold State.sealPs4; repeat' first
    | with_reducible assumption | with_reducible apply State.finishSeal_ok | with_reducible apply State.startSeal_ok
    | with_reducible apply ite_ok | with_reducible apply elim_ok
    | (with_reducible refine foldl_ok (fun _ _ _ => ?_) _ ?_) | intro _
    | (simp only [↓mk_ok_iff]; with_reducible refine MemOk.parts ?_) | split | dsimp only
theorem State.warnAssert_ok {s : State} (h : MemOk s) : MemOk (State.warnAssert s) := by
  unfold State.warnAssert; repeat' first
    | with_reducible assumption | with_reducible apply State.startSeal_ok | with_reducible apply State.raise_ok
    | with_reducible apply ite_ok | with_reducible apply elim_ok
    | (with_reducible refine foldl_ok (fun _ _ _ => ?_) _ ?_) | intro _
    | (simp only [↓mk_ok_iff]; with_reducible refine MemOk.parts ?_) | split | dsimp only
theorem State.warnDeassert_ok {s : State} (h : MemOk s) : MemOk (State.warnDeassert s) := by
  unfold State.warnDeassert; repeat' first
    | with_reducible assumption | with_reducible apply State.signNext_ok | with_reducible apply State.jrnShow_ok
    | with_reducible apply State.raise_ok | with_reducible apply ite_ok | with_reducible apply elim_ok
    | (with_reducible refine foldl_ok (fun _ _ _ => ?_) _ ?_) | intro _
    | (simp only [↓mk_ok_iff]; with_reducible refine MemOk.parts ?_) | split | dsimp only
theorem State.photometerFrame_ok {s : State} {a0} {a1} (h : MemOk s) : MemOk (State.photometerFrame s a0 a1) := by
  unfold State.photometerFrame; repeat' first
    | with_reducible assumption | with_reducible apply State.stageIn_ok | with_reducible apply State.setChanState_ok
    | with_reducible apply State.setChan_ok | with_reducible apply ite_ok | with_reducible apply elim_ok
    | (with_reducible refine foldl_ok (fun _ _ _ => ?_) _ ?_) | intro _
    | (simp only [↓mk_ok_iff]; with_reducible refine MemOk.parts ?_) | split | dsimp only
theorem State.frameRecord_ok {s : State} {a0} {a1} (h : MemOk s) : MemOk (State.frameRecord s a0 a1) := by
  unfold State.frameRecord; repeat' first
    | with_reducible assumption | with_reducible apply State.photometerFrame_ok | with_reducible apply State.signNext_ok
    | with_reducible apply State.jrnShow_ok | with_reducible apply State.setFrameRun_ok
    | with_reducible apply State.raise_ok | with_reducible apply State.draw_ok | with_reducible apply State.fsat_ok
    | with_reducible apply State.fset_ok | with_reducible apply State.wr_ok | with_reducible apply ite_ok
    | with_reducible apply elim_ok | (with_reducible refine foldl_ok (fun _ _ _ => ?_) _ ?_) | intro _
    | (simp only [↓mk_ok_iff]; with_reducible refine MemOk.parts ?_) | split | dsimp only
theorem State.jrnCtlWrite_ok {s : State} {a0} (h : MemOk s) : MemOk (State.jrnCtlWrite s a0) := by
  unfold State.jrnCtlWrite; repeat' first
    | with_reducible assumption | with_reducible apply State.signNext_ok | with_reducible apply State.jrnShow_ok
    | with_reducible apply State.fset_ok | with_reducible apply State.wr_ok | with_reducible apply ite_ok
    | with_reducible apply elim_ok | (with_reducible refine foldl_ok (fun _ _ _ => ?_) _ ?_) | intro _
    | (simp only [↓mk_ok_iff]; with_reducible refine MemOk.parts ?_) | split | dsimp only
theorem State.jrnRdWrite_ok {s : State} {a0} (h : MemOk s) : MemOk (State.jrnRdWrite s a0) := by
  unfold State.jrnRdWrite; repeat' first
    | with_reducible assumption | with_reducible apply State.jrnShow_ok | with_reducible apply State.setChanState_ok
    | with_reducible apply State.wr_ok | with_reducible apply ite_ok | with_reducible apply elim_ok
    | (with_reducible refine foldl_ok (fun _ _ _ => ?_) _ ?_) | intro _
    | (simp only [↓mk_ok_iff]; with_reducible refine MemOk.parts ?_) | split | dsimp only
theorem State.ringSlot_ok {s : State} {a0} {a1} {a2} {t r} (e : State.ringSlot s a0 a1 a2 = (t, r)) (h : MemOk s) : MemOk t := by
  unfold State.ringSlot at e; (try dsimp only at e);
    (repeat' split at e) <;> (try simp only [Option.some.injEq, Prod.mk.injEq, reduceCtorEq] at e) <;> (try obtain ⟨e, _⟩ := e) <;> (try subst e) <;> (try contradiction) <;> (repeat' first
    | with_reducible assumption | with_reducible apply State.send_ok | with_reducible apply State.store_ok
    | with_reducible apply State.refusal_ok | with_reducible apply ite_ok | with_reducible apply elim_ok
    | (with_reducible refine foldl_ok (fun _ _ _ => ?_) _ ?_) | intro _
    | (simp only [↓mk_ok_iff]; with_reducible refine MemOk.parts ?_) | split | dsimp only)
theorem State.ringSlot_ok1 {s : State} {a0} {a1} {a2}  (h : MemOk s) : MemOk (State.ringSlot s a0 a1 a2).1 :=
  State.ringSlot_ok rfl h
theorem State.ringError_ok {s : State} {a0} {a1} {a2} (h : MemOk s) : MemOk (State.ringError s a0 a1 a2) := by
  unfold State.ringError; repeat' first
    | with_reducible assumption | with_reducible apply State.jrnShow_ok | with_reducible apply State.haltChan_ok
    | with_reducible apply State.fset_ok | with_reducible apply ite_ok | with_reducible apply elim_ok
    | (with_reducible refine foldl_ok (fun _ _ _ => ?_) _ ?_) | intro _
    | (simp only [↓mk_ok_iff]; with_reducible refine MemOk.parts ?_) | split | dsimp only
theorem State.ringAdvance_ok {s : State} {a0} {a1} {a2} (h : MemOk s) : MemOk (State.ringAdvance s a0 a1 a2) := by
  unfold State.ringAdvance; repeat' first
    | with_reducible assumption | with_reducible apply State.deviceWrite_ok | with_reducible apply State.raise_ok
    | with_reducible apply State.wr_ok | with_reducible apply ite_ok | with_reducible apply elim_ok
    | (with_reducible refine foldl_ok (fun _ _ _ => ?_) _ ?_) | intro _
    | (simp only [↓mk_ok_iff]; with_reducible refine MemOk.parts ?_) | split | dsimp only
theorem State.journalEntry_ok {s : State} {a0} (h : MemOk s) : MemOk (State.journalEntry s a0) := by
  unfold State.journalEntry; repeat' first
    | with_reducible assumption | with_reducible apply State.ringAdvance_ok | with_reducible apply State.ringError_ok
    | (with_reducible refine State.ringSlot_ok (by assumption) ?_) | with_reducible apply State.ringSlot_ok1
    | with_reducible apply State.jrnShow_ok | with_reducible apply State.touchMem_ok
    | with_reducible apply State.fset_ok | with_reducible apply ite_ok | with_reducible apply elim_ok
    | (with_reducible refine foldl_ok (fun _ _ _ => ?_) _ ?_) | intro _
    | (simp only [↓mk_ok_iff]; with_reducible refine MemOk.parts ?_) | split | dsimp only
theorem State.abandonTests_ok {s : State} {a0} (h : MemOk s) : MemOk (State.abandonTests s a0) := by
  unfold State.abandonTests; repeat' first
    | with_reducible assumption | with_reducible apply ite_ok | with_reducible apply elim_ok
    | (with_reducible refine foldl_ok (fun _ _ _ => ?_) _ ?_) | intro _
    | (simp only [↓mk_ok_iff]; with_reducible refine MemOk.parts ?_) | split | dsimp only
theorem State.ownReq_ok {s : State} {a0} {a1} (h : MemOk s) : MemOk (State.ownReq s a0 a1) := by
  unfold State.ownReq; repeat' first
    | with_reducible assumption | with_reducible apply State.abandonTests_ok | with_reducible apply State.raise_ok
    | with_reducible apply State.fset_ok | with_reducible apply ite_ok | with_reducible apply elim_ok
    | (with_reducible refine foldl_ok (fun _ _ _ => ?_) _ ?_) | intro _
    | (simp only [↓mk_ok_iff]; with_reducible refine MemOk.parts ?_) | split | dsimp only
theorem State.plateFill_ok {s : State} {p first words f} (h : MemOk s) : MemOk (s.plateFill p first words f) := by
  refine setPlateMem_ok h rfl ?_ rfl
  unfold State.plateFill
  exact foldl_wf (fun _ _ hm => memWrite_wf hm _ _) _ h.2.1
theorem State.handoverDone_ok {s : State} {a0} (h : MemOk s) : MemOk (State.handoverDone s a0) := by
  unfold State.handoverDone; repeat' first
    | with_reducible assumption | with_reducible apply State.plateFill_ok | with_reducible apply State.raise_ok
    | with_reducible apply State.fset_ok | with_reducible apply ite_ok | with_reducible apply elim_ok
    | (with_reducible refine foldl_ok (fun _ _ _ => ?_) _ ?_) | intro _
    | (simp only [↓mk_ok_iff]; with_reducible refine MemOk.parts ?_) | split | dsimp only
theorem State.countPlates_ok {s : State} (h : MemOk s) : MemOk (State.countPlates s) := by
  unfold State.countPlates; repeat' first
    | with_reducible assumption | with_reducible apply State.fset_ok | with_reducible apply ite_ok
    | with_reducible apply elim_ok | (with_reducible refine foldl_ok (fun _ _ _ => ?_) _ ?_) | intro _
    | (simp only [↓mk_ok_iff]; with_reducible refine MemOk.parts ?_) | split | dsimp only
theorem State.setBlink_ok {s : State} {a0} {a1} (h : MemOk s) : MemOk (State.setBlink s a0 a1) := by
  unfold State.setBlink; repeat' first
    | with_reducible assumption | with_reducible apply State.fset_ok | with_reducible apply ite_ok
    | with_reducible apply elim_ok | (with_reducible refine foldl_ok (fun _ _ _ => ?_) _ ?_) | intro _
    | (simp only [↓mk_ok_iff]; with_reducible refine MemOk.parts ?_) | split | dsimp only
theorem State.beginSubst_ok {s : State} {a0} {a1} (h : MemOk s) : MemOk (State.beginSubst s a0 a1) := by
  unfold State.beginSubst; repeat' first
    | with_reducible assumption | with_reducible apply State.setBlink_ok | with_reducible apply State.countPlates_ok
    | with_reducible apply State.abandonTests_ok | with_reducible apply State.fset_ok | with_reducible apply ite_ok
    | with_reducible apply elim_ok | (with_reducible refine foldl_ok (fun _ _ _ => ?_) _ ?_) | intro _
    | (simp only [↓mk_ok_iff]; with_reducible refine MemOk.parts ?_) | split | dsimp only
theorem State.needSubst_ok {s : State} {a0} (h : MemOk s) : MemOk (State.needSubst s a0) := by
  unfold State.needSubst; repeat' first
    | with_reducible assumption | with_reducible apply State.beginSubst_ok | with_reducible apply State.raise_ok
    | with_reducible apply State.fset_ok | with_reducible apply ite_ok | with_reducible apply elim_ok
    | (with_reducible refine foldl_ok (fun _ _ _ => ?_) _ ?_) | intro _
    | (simp only [↓mk_ok_iff]; with_reducible refine MemOk.parts ?_) | split | dsimp only
theorem State.substReq_ok {s : State} {a0} (h : MemOk s) : MemOk (State.substReq s a0) := by
  unfold State.substReq; repeat' first
    | with_reducible assumption | with_reducible apply State.beginSubst_ok | with_reducible apply State.fset_ok
    | with_reducible apply ite_ok | with_reducible apply elim_ok
    | (with_reducible refine foldl_ok (fun _ _ _ => ?_) _ ?_) | intro _
    | (simp only [↓mk_ok_iff]; with_reducible refine MemOk.parts ?_) | split | dsimp only
theorem State.endTest_ok {s : State} {a0} {a1} (h : MemOk s) : MemOk (State.endTest s a0 a1) := by
  unfold State.endTest; repeat' first
    | with_reducible assumption | with_reducible apply State.setBlink_ok | with_reducible apply State.raise_ok
    | with_reducible apply ite_ok | with_reducible apply elim_ok
    | (with_reducible refine foldl_ok (fun _ _ _ => ?_) _ ?_) | intro _
    | (simp only [↓mk_ok_iff]; with_reducible refine MemOk.parts ?_) | split | dsimp only
theorem State.endWaiting_ok {s : State} {a0} (h : MemOk s) : MemOk (State.endWaiting s a0) :=
  foldl_ok (fun _ _ hs => State.endTest_ok hs) _ h
theorem State.substDone_ok {s : State} (h : MemOk s) : MemOk (State.substDone s) := by
  unfold State.substDone; repeat' first
    | with_reducible assumption | with_reducible apply State.endWaiting_ok | with_reducible apply State.needSubst_ok | with_reducible apply State.setBlink_ok
    | with_reducible apply State.countPlates_ok | with_reducible apply State.raise_ok
    | with_reducible apply State.fset_ok | with_reducible apply ite_ok | with_reducible apply elim_ok
    | (with_reducible refine foldl_ok (fun _ _ _ => ?_) _ ?_) | intro _
    | (simp only [↓mk_ok_iff]; with_reducible refine MemOk.parts ?_) | split | dsimp only
theorem State.blinkCtlWrite_ok {s : State} {a0} {a1} (h : MemOk s) : MemOk (State.blinkCtlWrite s a0 a1) := by
  unfold State.blinkCtlWrite; repeat' first
    | with_reducible assumption | with_reducible apply State.setBlink_ok | with_reducible apply State.fset_ok
    | with_reducible apply State.wr_ok | with_reducible apply ite_ok | with_reducible apply elim_ok
    | (with_reducible refine foldl_ok (fun _ _ _ => ?_) _ ?_) | intro _
    | (simp only [↓mk_ok_iff]; with_reducible refine MemOk.parts ?_) | split | dsimp only
theorem State.stripeDone_ok {s : State} {a0} {a1} (h : MemOk s) : MemOk (State.stripeDone s a0 a1) := by
  unfold State.stripeDone; repeat' first
    | with_reducible assumption | with_reducible apply State.endTest_ok | with_reducible apply State.fset_ok
    | with_reducible apply ite_ok | with_reducible apply elim_ok
    | (with_reducible refine foldl_ok (fun _ _ _ => ?_) _ ?_) | intro _
    | (simp only [↓mk_ok_iff]; with_reducible refine MemOk.parts ?_) | split | dsimp only
theorem State.fuseRow_ok {s : State} {a0} {a1} {a2} {t} (e : State.fuseRow s a0 a1 a2 = some t) (h : MemOk s) : MemOk t := by
  unfold State.fuseRow at e; (try dsimp only at e);
    (repeat' split at e) <;> (try simp only [Option.some.injEq, Prod.mk.injEq, reduceCtorEq] at e) <;> (try obtain ⟨e, _⟩ := e) <;> (try subst e) <;> (try contradiction) <;> (repeat' first
    | with_reducible assumption | with_reducible apply State.fset_ok | with_reducible apply ite_ok
    | with_reducible apply elim_ok | (with_reducible refine foldl_ok (fun _ _ _ => ?_) _ ?_) | intro _
    | (simp only [↓mk_ok_iff]; with_reducible refine MemOk.parts ?_) | split | dsimp only)
theorem State.repairRow_ok {s : State} {a b c d t} (e : s.repairRow a b c d = some t) (h : MemOk s) : MemOk t := by
  unfold State.repairRow at e
  obtain ⟨u, hu, rfl⟩ := Option.map_eq_some_iff.1 e
  exact State.fsat_ok (State.fuseRow_ok hu h)
theorem State.repairRows_ok {s : State} {q p l} {t r} (e : s.repairRows q p l = (t, r)) (h : MemOk s) : MemOk t := by
  induction l generalizing s with
  | nil => cases e; exact h
  | cons x l ih =>
    unfold State.repairRows at e
    split at e
    · rename_i u hu; exact ih e (State.repairRow_ok hu h)
    · cases e; exact h
theorem State.repairRows_ok1 {s : State} {a0} {a1} {a2}  (h : MemOk s) : MemOk (State.repairRows s a0 a1 a2).1 :=
  State.repairRows_ok rfl h
theorem State.marchDone_ok {s : State} {a0} {a1} {a2} {a3} (h : MemOk s) : MemOk (State.marchDone s a0 a1 a2 a3) := by
  unfold State.marchDone; repeat' first
    | with_reducible assumption | (with_reducible refine State.repairRows_ok (by assumption) ?_)
    | with_reducible apply State.repairRows_ok1 | with_reducible apply State.stripeDone_ok
    | with_reducible apply State.endTest_ok | with_reducible apply State.needSubst_ok
    | with_reducible apply State.plateFill_ok | with_reducible apply State.fset_ok | with_reducible apply ite_ok
    | with_reducible apply elim_ok | (with_reducible refine foldl_ok (fun _ _ _ => ?_) _ ?_) | intro _
    | (simp only [↓mk_ok_iff]; with_reducible refine MemOk.parts ?_) | split | dsimp only
theorem State.setIslands_ok {s : State} {a0} (h : MemOk s) : MemOk (State.setIslands s a0) := by
  unfold State.setIslands; repeat' first
    | with_reducible assumption | with_reducible apply State.wr_ok | with_reducible apply ite_ok
    | with_reducible apply elim_ok | (with_reducible refine foldl_ok (fun _ _ _ => ?_) _ ?_) | intro _
    | (simp only [↓mk_ok_iff]; with_reducible refine MemOk.parts ?_) | split | dsimp only
theorem State.losePlates_ok {s : State} (h : MemOk s) : MemOk s.losePlates := mk_ok ⟨h.1, filter_sorted _ h.2.1, h.2.2⟩
theorem State.abandonPlates_ok {s : State} (h : MemOk s) : MemOk (State.abandonPlates s) := by
  unfold State.abandonPlates; repeat' first
    | with_reducible assumption | with_reducible apply State.endTest_ok | with_reducible apply State.setBlink_ok
    | with_reducible apply State.countPlates_ok | with_reducible apply State.fset_ok | with_reducible apply ite_ok
    | with_reducible apply elim_ok | (with_reducible refine foldl_ok (fun _ _ _ => ?_) _ ?_) | intro _
    | (simp only [↓mk_ok_iff]; with_reducible refine MemOk.parts ?_) | split | dsimp only
theorem State.enterState_ok {s : State} {a0} (h : MemOk s) : MemOk (State.enterState s a0) := by
  unfold State.enterState; repeat' first
    | with_reducible assumption | with_reducible apply State.abandonPlates_ok | with_reducible apply State.losePlates_ok
    | with_reducible apply State.setIslands_ok | with_reducible apply State.sealPs4_ok
    | with_reducible apply State.wakeTargets_ok | with_reducible apply State.drivesSleep_ok
    | with_reducible apply State.ltrCheck_ok | with_reducible apply State.fset_ok | with_reducible apply ite_ok
    | with_reducible apply elim_ok | (with_reducible refine foldl_ok (fun _ _ _ => ?_) _ ?_) | intro _
    | (simp only [↓mk_ok_iff]; with_reducible refine MemOk.parts ?_) | split | dsimp only
theorem State.beginExit_ok {s : State} {a0} (h : MemOk s) : MemOk (State.beginExit s a0) := by
  unfold State.beginExit; repeat' first
    | with_reducible assumption | with_reducible apply ite_ok | with_reducible apply elim_ok
    | (with_reducible refine foldl_ok (fun _ _ _ => ?_) _ ?_) | intro _
    | (simp only [↓mk_ok_iff]; with_reducible refine MemOk.parts ?_) | split | dsimp only
theorem State.powerEval_ok {s : State} (h : MemOk s) : MemOk (State.powerEval s) := by
  unfold State.powerEval; repeat' first
    | with_reducible assumption | with_reducible apply State.beginExit_ok | with_reducible apply State.ltrCheck_ok
    | with_reducible apply ite_ok | with_reducible apply elim_ok
    | (with_reducible refine foldl_ok (fun _ _ _ => ?_) _ ?_) | intro _
    | (simp only [↓mk_ok_iff]; with_reducible refine MemOk.parts ?_) | split | dsimp only
theorem State.pwrLatWrite_ok {s : State} {a0} {a1} (h : MemOk s) : MemOk (State.pwrLatWrite s a0 a1) := by
  unfold State.pwrLatWrite; repeat' first
    | with_reducible assumption | with_reducible apply State.powerEval_ok | with_reducible apply State.wr_ok
    | with_reducible apply ite_ok | with_reducible apply elim_ok
    | (with_reducible refine foldl_ok (fun _ _ _ => ?_) _ ?_) | intro _
    | (simp only [↓mk_ok_iff]; with_reducible refine MemOk.parts ?_) | split | dsimp only
theorem State.releaseHeld_ok {s : State} {a0} (h : MemOk s) : MemOk (State.releaseHeld s a0) := by
  unfold State.releaseHeld; repeat' first
    | with_reducible assumption | with_reducible apply ite_ok | with_reducible apply elim_ok
    | (with_reducible refine foldl_ok (fun _ _ _ => ?_) _ ?_) | intro _
    | (simp only [↓mk_ok_iff]; with_reducible refine MemOk.parts ?_) | split | dsimp only
theorem State.startSwap_ok {s : State} {a0} {a1} (h : MemOk s) : MemOk (State.startSwap s a0 a1) := by
  unfold State.startSwap; repeat' first
    | with_reducible assumption | with_reducible apply State.fset_ok | with_reducible apply ite_ok
    | with_reducible apply elim_ok | (with_reducible refine foldl_ok (fun _ _ _ => ?_) _ ?_) | intro _
    | (simp only [↓mk_ok_iff]; with_reducible refine MemOk.parts ?_) | split | dsimp only
theorem State.swapSoon_ok {s : State} {a0} {a1} (h : MemOk s) : MemOk (State.swapSoon s a0 a1) := by
  unfold State.swapSoon; repeat' first
    | with_reducible assumption | with_reducible apply State.startSwap_ok | with_reducible apply State.beginExit_ok
    | with_reducible apply ite_ok | with_reducible apply elim_ok
    | (with_reducible refine foldl_ok (fun _ _ _ => ?_) _ ?_) | intro _
    | (simp only [↓mk_ok_iff]; with_reducible refine MemOk.parts ?_) | split | dsimp only
theorem State.pipeCheckFail_ok {s : State} {a0} {a1} {a2} {a3} {a4} (h : MemOk s) :
    MemOk (State.pipeCheckFail s a0 a1 a2 a3 a4) := by
  unfold State.pipeCheckFail; repeat' first
    | with_reducible assumption | with_reducible apply State.swapSoon_ok | with_reducible apply State.setFrameRun_ok
    | with_reducible apply State.fset_ok | with_reducible apply ite_ok | with_reducible apply elim_ok
    | (with_reducible refine foldl_ok (fun _ _ _ => ?_) _ ?_) | intro _
    | (simp only [↓mk_ok_iff]; with_reducible refine MemOk.parts ?_) | split | dsimp only
theorem State.swapReq_ok {s : State} {a0} (h : MemOk s) : MemOk (State.swapReq s a0) := by
  unfold State.swapReq; repeat' first
    | with_reducible assumption | with_reducible apply State.swapSoon_ok | with_reducible apply State.fset_ok
    | with_reducible apply ite_ok | with_reducible apply elim_ok
    | (with_reducible refine foldl_ok (fun _ _ _ => ?_) _ ?_) | intro _
    | (simp only [↓mk_ok_iff]; with_reducible refine MemOk.parts ?_) | split | dsimp only
theorem State.shedStep_ok {s : State} (h : MemOk s) : MemOk (State.shedStep s) := by
  unfold State.shedStep; repeat' first
    | with_reducible assumption | with_reducible apply ite_ok | with_reducible apply elim_ok
    | (with_reducible refine foldl_ok (fun _ _ _ => ?_) _ ?_) | intro _
    | (simp only [↓mk_ok_iff]; with_reducible refine MemOk.parts ?_) | split | dsimp only
theorem State.shedSoon_ok {s : State} (h : MemOk s) : MemOk (State.shedSoon s) := by
  unfold State.shedSoon; repeat' first
    | with_reducible assumption | with_reducible apply State.shedStep_ok | with_reducible apply State.beginExit_ok
    | with_reducible apply ite_ok | with_reducible apply elim_ok
    | (with_reducible refine foldl_ok (fun _ _ _ => ?_) _ ?_) | intro _
    | (simp only [↓mk_ok_iff]; with_reducible refine MemOk.parts ?_) | split | dsimp only
theorem State.restore_ok {s : State} {a0} (h : MemOk s) : MemOk (State.restore s a0) := by
  unfold State.restore; repeat' first
    | with_reducible assumption | with_reducible apply ite_ok | with_reducible apply elim_ok
    | (with_reducible refine foldl_ok (fun _ _ _ => ?_) _ ?_) | intro _
    | (simp only [↓mk_ok_iff]; with_reducible refine MemOk.parts ?_) | split | dsimp only
theorem State.shedWrite_ok {s : State} {a0} (h : MemOk s) : MemOk (State.shedWrite s a0) := by
  unfold State.shedWrite; repeat' first
    | with_reducible assumption | with_reducible apply State.restore_ok | with_reducible apply ite_ok
    | with_reducible apply elim_ok | (with_reducible refine foldl_ok (fun _ _ _ => ?_) _ ?_) | intro _
    | (simp only [↓mk_ok_iff]; with_reducible refine MemOk.parts ?_) | split | dsimp only
theorem State.exitDone_ok {s : State} (h : MemOk s) : MemOk (State.exitDone s) := by
  unfold State.exitDone; repeat' first
    | with_reducible assumption | with_reducible apply State.shedStep_ok | with_reducible apply State.startSwap_ok
    | with_reducible apply State.releaseHeld_ok | with_reducible apply State.setIslands_ok
    | with_reducible apply State.replayHeld_ok | with_reducible apply State.wakeTargets_ok
    | with_reducible apply State.spareBegin_ok | with_reducible apply State.drivesWake_ok
    | with_reducible apply State.ltrCheck_ok | with_reducible apply State.fset_ok | with_reducible apply ite_ok
    | with_reducible apply elim_ok | (with_reducible refine foldl_ok (fun _ _ _ => ?_) _ ?_) | intro _
    | (simp only [↓mk_ok_iff]; with_reducible refine MemOk.parts ?_) | split | dsimp only
theorem State.alarm_ok {s : State} {a0} {a1} {a2} (h : MemOk s) : MemOk (State.alarm s a0 a1 a2) := by
  unfold State.alarm; repeat' first
    | with_reducible assumption | with_reducible apply State.raise_ok | with_reducible apply State.fset_ok
    | with_reducible apply ite_ok | with_reducible apply elim_ok
    | (with_reducible refine foldl_ok (fun _ _ _ => ?_) _ ?_) | intro _
    | (simp only [↓mk_ok_iff]; with_reducible refine MemOk.parts ?_) | split | dsimp only
theorem State.thermalAct_ok {s : State} {a0} (h : MemOk s) : MemOk (State.thermalAct s a0) := by
  unfold State.thermalAct; repeat' first
    | with_reducible assumption | with_reducible apply State.restore_ok | with_reducible apply State.shedSoon_ok
    | with_reducible apply ite_ok | with_reducible apply elim_ok
    | (with_reducible refine foldl_ok (fun _ _ _ => ?_) _ ?_) | intro _
    | (simp only [↓mk_ok_iff]; with_reducible refine MemOk.parts ?_) | split | dsimp only
theorem State.lifeTick_ok {s : State} (h : MemOk s) : MemOk (State.lifeTick s) := by
  unfold State.lifeTick; repeat' first
    | with_reducible assumption | with_reducible apply State.wr_ok | with_reducible apply ite_ok
    | with_reducible apply elim_ok | (with_reducible refine foldl_ok (fun _ _ _ => ?_) _ ?_) | intro _
    | (simp only [↓mk_ok_iff]; with_reducible refine MemOk.parts ?_) | split | dsimp only
theorem State.clearRegs_ok {s : State} {a0} (h : MemOk s) : MemOk (State.clearRegs s a0) := by
  unfold State.clearRegs; repeat' first
    | with_reducible assumption | with_reducible apply ite_ok | with_reducible apply elim_ok
    | (with_reducible refine foldl_ok (fun _ _ _ => ?_) _ ?_) | intro _
    | (simp only [↓mk_ok_iff]; with_reducible refine MemOk.parts ?_) | split | dsimp only
theorem State.resetCp_ok {s : State} {a0} (h : MemOk s) : MemOk (State.resetCp s a0) := by
  unfold State.resetCp; repeat' first
    | with_reducible assumption | with_reducible apply State.stopSeq_ok | with_reducible apply ite_ok
    | with_reducible apply elim_ok | (with_reducible refine foldl_ok (fun _ _ _ => ?_) _ ?_) | intro _
    | (simp only [↓mk_ok_iff]; with_reducible refine MemOk.parts ?_) | split | dsimp only
theorem State.resetChan_ok {s : State} {a0} (h : MemOk s) : MemOk (State.resetChan s a0) := by
  unfold State.resetChan; repeat' first
    | with_reducible assumption | with_reducible apply State.wbEnd_ok | with_reducible apply State.flushAcks_ok
    | with_reducible apply State.setChan_ok | with_reducible apply ite_ok | with_reducible apply elim_ok
    | (with_reducible refine foldl_ok (fun _ _ _ => ?_) _ ?_) | intro _
    | (simp only [↓mk_ok_iff]; with_reducible refine MemOk.parts ?_) | split | dsimp only
theorem State.resetFnDomain_ok {s : State} {a0} (h : MemOk s) : MemOk (State.resetFnDomain s a0) := by
  unfold State.resetFnDomain; repeat' first
    | with_reducible assumption | with_reducible apply State.resetChan_ok | with_reducible apply State.resetCp_ok
    | with_reducible apply State.clearRegs_ok | with_reducible apply ite_ok | with_reducible apply elim_ok
    | (with_reducible refine foldl_ok (fun _ _ _ => ?_) _ ?_) | intro _
    | (simp only [↓mk_ok_iff]; with_reducible refine MemOk.parts ?_) | split | dsimp only
theorem State.resetConfig_ok {s : State} {a0} (h : MemOk s) : MemOk (State.resetConfig s a0) := by
  unfold State.resetConfig; repeat' first
    | with_reducible assumption | with_reducible apply State.setFn_ok | with_reducible apply ite_ok
    | with_reducible apply elim_ok | (with_reducible refine foldl_ok (fun _ _ _ => ?_) _ ?_) | intro _
    | (simp only [↓mk_ok_iff]; with_reducible refine MemOk.parts ?_) | split | dsimp only
theorem State.resetAllConfig_ok {s : State} (h : MemOk s) : MemOk (State.resetAllConfig s) := by
  unfold State.resetAllConfig; repeat' first
    | with_reducible assumption | with_reducible apply State.resetConfig_ok | with_reducible apply ite_ok
    | with_reducible apply elim_ok | (with_reducible refine foldl_ok (fun _ _ _ => ?_) _ ?_) | intro _
    | (simp only [↓mk_ok_iff]; with_reducible refine MemOk.parts ?_) | split | dsimp only
theorem State.linkGone_ok {s : State} (h : MemOk s) : MemOk (State.linkGone s) := by
  unfold State.linkGone; repeat' first
    | with_reducible assumption | with_reducible apply State.jrnShow_ok | with_reducible apply State.setSeqState_ok
    | with_reducible apply State.touchMem_ok | with_reducible apply State.raise_ok | with_reducible apply State.fset_ok
    | with_reducible apply ite_ok | with_reducible apply elim_ok
    | (with_reducible refine foldl_ok (fun _ _ _ => ?_) _ ?_) | intro _
    | (simp only [↓mk_ok_iff]; with_reducible refine MemOk.parts ?_) | split | dsimp only
theorem State.linkLost_ok {s : State} (h : MemOk s) : MemOk (State.linkLost s) := by
  unfold State.linkLost; repeat' first
    | with_reducible assumption | with_reducible apply State.linkGone_ok | with_reducible apply State.resetAllConfig_ok
    | with_reducible apply State.clearRegs_ok | with_reducible apply State.wakeTargets_ok
    | with_reducible apply State.fset_ok | with_reducible apply ite_ok | with_reducible apply elim_ok
    | (with_reducible refine foldl_ok (fun _ _ _ => ?_) _ ?_) | intro _
    | (simp only [↓mk_ok_iff]; with_reducible refine MemOk.parts ?_) | split | dsimp only
theorem State.becomeReady_ok {s : State} (h : MemOk s) : MemOk (State.becomeReady s) := by
  unfold State.becomeReady; repeat' first
    | with_reducible assumption | with_reducible apply State.send_ok | with_reducible apply State.setFn_ok
    | with_reducible apply ite_ok | with_reducible apply elim_ok
    | (with_reducible refine foldl_ok (fun _ _ _ => ?_) _ ?_) | intro _
    | (simp only [↓mk_ok_iff]; with_reducible refine MemOk.parts ?_) | split | dsimp only
theorem State.linkBack_ok {s : State} {a0} {a1} (h : MemOk s) : MemOk (State.linkBack s a0 a1) := by
  unfold State.linkBack; repeat' first
    | with_reducible assumption | with_reducible apply State.becomeReady_ok | with_reducible apply State.jrnShow_ok
    | with_reducible apply State.ltrCheck_ok | with_reducible apply State.send_ok | with_reducible apply State.fset_ok
    | with_reducible apply ite_ok | with_reducible apply elim_ok
    | (with_reducible refine foldl_ok (fun _ _ _ => ?_) _ ?_) | intro _
    | (simp only [↓mk_ok_iff]; with_reducible refine MemOk.parts ?_) | split | dsimp only
theorem State.coreReset_ok {s : State} (h : MemOk s) : MemOk s.coreReset := by
  unfold State.coreReset
  exact mk_ok ⟨rfl, rfl, h.2.2⟩
theorem State.coldReset_ok {s : State} (h : MemOk s) : MemOk s.coldReset := by
  unfold State.coldReset
  exact mk_ok (State.coreReset_ok h).parts
theorem State.beginPost_ok {s : State} (h : MemOk s) : MemOk (State.beginPost s) := by
  unfold State.beginPost; repeat' first
    | with_reducible assumption | with_reducible apply ite_ok | with_reducible apply elim_ok
    | (with_reducible refine foldl_ok (fun _ _ _ => ?_) _ ?_) | intro _
    | (simp only [↓mk_ok_iff]; with_reducible refine MemOk.parts ?_) | split | dsimp only
theorem State.railFault_ok {s : State} (h : MemOk s) : MemOk s.railFault := by
  unfold State.railFault
  exact ite_ok (mk_ok h.parts) (State.fset_ok (mk_ok (State.coreReset_ok h).parts))
theorem State.hostReset_ok {s : State} (h : MemOk s) : MemOk (State.hostReset s) := by
  unfold State.hostReset; repeat' first
    | with_reducible assumption | with_reducible apply State.linkGone_ok | with_reducible apply State.resetAllConfig_ok
    | with_reducible apply State.resetChan_ok | with_reducible apply State.resetCp_ok
    | with_reducible apply State.clearRegs_ok | with_reducible apply State.wakeTargets_ok | with_reducible apply ite_ok
    | with_reducible apply elim_ok | (with_reducible refine foldl_ok (fun _ _ _ => ?_) _ ?_) | intro _
    | (simp only [↓mk_ok_iff]; with_reducible refine MemOk.parts ?_) | split | dsimp only
theorem State.perstAssert_ok {s : State} (h : MemOk s) : MemOk (State.perstAssert s) := by
  unfold State.perstAssert; repeat' first
    | with_reducible assumption | with_reducible apply State.hostReset_ok | with_reducible apply State.coreReset_ok
    | with_reducible apply State.finishSeal_ok | with_reducible apply State.setFn_ok | with_reducible apply ite_ok
    | with_reducible apply elim_ok | (with_reducible refine foldl_ok (fun _ _ _ => ?_) _ ?_) | intro _
    | (simp only [↓mk_ok_iff]; with_reducible refine MemOk.parts ?_) | split | dsimp only
theorem State.perstRelease_ok {s : State} {a0} (h : MemOk s) : MemOk (State.perstRelease s a0) := by
  unfold State.perstRelease; repeat' first
    | with_reducible assumption | with_reducible apply State.beginPost_ok | with_reducible apply State.coreReset_ok
    | with_reducible apply State.wr_ok | with_reducible apply ite_ok | with_reducible apply elim_ok
    | (with_reducible refine foldl_ok (fun _ _ _ => ?_) _ ?_) | intro _
    | (simp only [↓mk_ok_iff]; with_reducible refine MemOk.parts ?_) | split | dsimp only
theorem State.thermalSample_ok {s : State} {a0} (h : MemOk s) : MemOk (State.thermalSample s a0) := by
  unfold State.thermalSample; repeat' first
    | with_reducible assumption | with_reducible apply State.coreReset_ok | with_reducible apply State.thermalAct_ok
    | with_reducible apply State.alarm_ok | with_reducible apply State.fset_ok | with_reducible apply State.wr_ok
    | with_reducible apply ite_ok | with_reducible apply elim_ok
    | (with_reducible refine foldl_ok (fun _ _ _ => ?_) _ ?_) | intro _
    | (simp only [↓mk_ok_iff]; with_reducible refine MemOk.parts ?_) | split | dsimp only
theorem State.fnReset_ok {s : State} {a0} (h : MemOk s) : MemOk (State.fnReset s a0) := by
  unfold State.fnReset; repeat' first
    | with_reducible assumption | with_reducible apply State.resetFnDomain_ok
    | with_reducible apply State.wakeTargets_ok | with_reducible apply State.setFn_ok | with_reducible apply ite_ok
    | with_reducible apply elim_ok | (with_reducible refine foldl_ok (fun _ _ _ => ?_) _ ?_) | intro _
    | (simp only [↓mk_ok_iff]; with_reducible refine MemOk.parts ?_) | split | dsimp only
theorem State.vfClear_ok {s : State} (h : MemOk s) : MemOk (State.vfClear s) := by
  unfold State.vfClear; repeat' first
    | with_reducible assumption | with_reducible apply State.fnReset_ok | with_reducible apply State.setFn_ok
    | with_reducible apply ite_ok | with_reducible apply elim_ok
    | (with_reducible refine foldl_ok (fun _ _ _ => ?_) _ ?_) | intro _
    | (simp only [↓mk_ok_iff]; with_reducible refine MemOk.parts ?_) | split | dsimp only
theorem State.flr_ok {s : State} {a0} (h : MemOk s) : MemOk (State.flr s a0) := by
  unfold State.flr; repeat' first
    | with_reducible assumption | with_reducible apply State.vfClear_ok | with_reducible apply State.fnReset_ok
    | with_reducible apply ite_ok | with_reducible apply elim_ok
    | (with_reducible refine foldl_ok (fun _ _ _ => ?_) _ ?_) | intro _
    | (simp only [↓mk_ok_iff]; with_reducible refine MemOk.parts ?_) | split | dsimp only
theorem State.partRefuse_ok {s : State} {a0} {a1} (h : MemOk s) : MemOk (State.partRefuse s a0 a1) := by
  unfold State.partRefuse; repeat' first
    | with_reducible assumption | with_reducible apply State.fset_ok | with_reducible apply ite_ok
    | with_reducible apply elim_ok | (with_reducible refine foldl_ok (fun _ _ _ => ?_) _ ?_) | intro _
    | (simp only [↓mk_ok_iff]; with_reducible refine MemOk.parts ?_) | split | dsimp only
theorem State.moveSources_ok {s : State} {a0} {a1} (h : MemOk s) : MemOk (State.moveSources s a0 a1) := by
  unfold State.moveSources; repeat' first
    | with_reducible assumption | with_reducible apply State.sourceMoved_ok | with_reducible apply ite_ok
    | with_reducible apply elim_ok | (with_reducible refine foldl_ok (fun _ _ _ => ?_) _ ?_) | intro _
    | (simp only [↓mk_ok_iff]; with_reducible refine MemOk.parts ?_) | split | dsimp only
theorem State.partWrite_ok {s : State} {a0} {a1} (h : MemOk s) : MemOk (State.partWrite s a0 a1) := by
  unfold State.partWrite; repeat' first
    | with_reducible assumption | with_reducible apply State.moveSources_ok | with_reducible apply State.partRefuse_ok
    | with_reducible apply State.wr_ok | with_reducible apply ite_ok | with_reducible apply elim_ok
    | (with_reducible refine foldl_ok (fun _ _ _ => ?_) _ ?_) | intro _
    | (simp only [↓mk_ok_iff]; with_reducible refine MemOk.parts ?_) | split | dsimp only
theorem State.reclaim_ok {s : State} {a0} (h : MemOk s) : MemOk (State.reclaim s a0) := by
  unfold State.reclaim; repeat' first
    | with_reducible assumption | with_reducible apply State.moveSources_ok | with_reducible apply State.partRefuse_ok
    | with_reducible apply State.fset_ok | with_reducible apply State.wr_ok | with_reducible apply ite_ok
    | with_reducible apply elim_ok | (with_reducible refine foldl_ok (fun _ _ _ => ?_) _ ?_) | intro _
    | (simp only [↓mk_ok_iff]; with_reducible refine MemOk.parts ?_) | split | dsimp only
theorem State.setMemEnable_ok {s : State} {a0} {a1} (h : MemOk s) : MemOk (State.setMemEnable s a0 a1) := by
  unfold State.setMemEnable; repeat' first
    | with_reducible assumption | with_reducible apply State.setFn_ok | with_reducible apply ite_ok
    | with_reducible apply elim_ok | (with_reducible refine foldl_ok (fun _ _ _ => ?_) _ ?_) | intro _
    | (simp only [↓mk_ok_iff]; with_reducible refine MemOk.parts ?_) | split | dsimp only
theorem State.setNumVfs_ok {s : State} {a0} (h : MemOk s) : MemOk (State.setNumVfs s a0) := by
  unfold State.setNumVfs; repeat' first
    | with_reducible assumption | with_reducible apply State.setFn_ok | with_reducible apply ite_ok
    | with_reducible apply elim_ok | (with_reducible refine foldl_ok (fun _ _ _ => ?_) _ ?_) | intro _
    | (simp only [↓mk_ok_iff]; with_reducible refine MemOk.parts ?_) | split | dsimp only
theorem State.setSriov_ok {s : State} {a0} {a1} {a2} (h : MemOk s) : MemOk (State.setSriov s a0 a1 a2) := by
  unfold State.setSriov; repeat' first
    | with_reducible assumption | with_reducible apply State.setMemEnable_ok | with_reducible apply State.vfClear_ok
    | with_reducible apply State.setFn_ok | with_reducible apply ite_ok | with_reducible apply elim_ok
    | (with_reducible refine foldl_ok (fun _ _ _ => ?_) _ ?_) | intro _
    | (simp only [↓mk_ok_iff]; with_reducible refine MemOk.parts ?_) | split | dsimp only
theorem State.configure_ok {s : State} {a0} {a1} (h : MemOk s) : MemOk (State.configure s a0 a1) := by
  unfold State.configure; repeat' first
    | with_reducible assumption | with_reducible apply State.setSriov_ok | with_reducible apply State.setNumVfs_ok
    | with_reducible apply State.setMemEnable_ok | with_reducible apply State.wakeTargets_ok
    | with_reducible apply State.setFn_ok | with_reducible apply ite_ok | with_reducible apply elim_ok
    | (with_reducible refine foldl_ok (fun _ _ _ => ?_) _ ?_) | intro _
    | (simp only [↓mk_ok_iff]; with_reducible refine MemOk.parts ?_) | split | dsimp only
theorem State.setIde_ok {s : State} {a0} {a1} (h : MemOk s) : MemOk (State.setIde s a0 a1) := by
  unfold State.setIde; repeat' first
    | with_reducible assumption | with_reducible apply ite_ok | with_reducible apply elim_ok
    | (with_reducible refine foldl_ok (fun _ _ _ => ?_) _ ?_) | intro _
    | (simp only [↓mk_ok_iff]; with_reducible refine MemOk.parts ?_) | split | dsimp only
theorem State.doeAnswer_ok {s : State} {a0} (h : MemOk s) : MemOk (State.doeAnswer s a0) := by
  unfold State.doeAnswer; repeat' first
    | with_reducible assumption | with_reducible apply State.setIde_ok | with_reducible apply State.send_ok
    | with_reducible apply State.draw_ok | with_reducible apply ite_ok | with_reducible apply elim_ok
    | (with_reducible refine foldl_ok (fun _ _ _ => ?_) _ ?_) | intro _
    | (simp only [↓mk_ok_iff]; with_reducible refine MemOk.parts ?_) | split | dsimp only
theorem State.applyRecord_ok {s : State} {a0} (h : MemOk s) : MemOk (State.applyRecord s a0) := by
  unfold State.applyRecord; repeat' first
    | with_reducible assumption | with_reducible apply State.setPort_ok | with_reducible apply State.setCdState_ok
    | with_reducible apply State.fset_ok | with_reducible apply State.wr_ok | with_reducible apply ite_ok
    | with_reducible apply elim_ok | (with_reducible refine foldl_ok (fun _ _ _ => ?_) _ ?_) | intro _
    | (simp only [↓mk_ok_iff]; with_reducible refine MemOk.parts ?_) | split | dsimp only
theorem State.countSpares_ok {s : State} (h : MemOk s) : MemOk (State.countSpares s) := by
  unfold State.countSpares; repeat' first
    | with_reducible assumption | with_reducible apply State.countPlates_ok | with_reducible apply State.fset_ok
    | with_reducible apply ite_ok | with_reducible apply elim_ok
    | (with_reducible refine foldl_ok (fun _ _ _ => ?_) _ ?_) | intro _
    | (simp only [↓mk_ok_iff]; with_reducible refine MemOk.parts ?_) | split | dsimp only
theorem State.applyFlash_ok {s : State} {a0} (h : MemOk s) : MemOk (State.applyFlash s a0) := by
  unfold State.applyFlash; repeat' first
    | with_reducible assumption | with_reducible apply State.countSpares_ok | with_reducible apply State.applyRecord_ok
    | with_reducible apply ite_ok | with_reducible apply elim_ok
    | (with_reducible refine foldl_ok (fun _ _ _ => ?_) _ ?_) | intro _
    | (simp only [↓mk_ok_iff]; with_reducible refine MemOk.parts ?_) | split | dsimp only
theorem State.givePlates_ok {s : State} (h : MemOk s) : MemOk (State.givePlates s) := by
  unfold State.givePlates; repeat' first
    | with_reducible assumption | with_reducible apply State.fset_ok | with_reducible apply ite_ok
    | with_reducible apply elim_ok | (with_reducible refine foldl_ok (fun _ _ _ => ?_) _ ?_) | intro _
    | (simp only [↓mk_ok_iff]; with_reducible refine MemOk.parts ?_) | split | dsimp only
theorem State.loseRecords_ok {s : State} {a0} (h : MemOk s) : MemOk (State.loseRecords s a0) := by
  unfold State.loseRecords; repeat' first
    | with_reducible assumption | with_reducible apply State.fset_ok | with_reducible apply ite_ok
    | with_reducible apply elim_ok | (with_reducible refine foldl_ok (fun _ _ _ => ?_) _ ?_) | intro _
    | (simp only [↓mk_ok_iff]; with_reducible refine MemOk.parts ?_) | split | dsimp only
theorem State.enterSafe_ok {s : State} {a0} (h : MemOk s) : MemOk (State.enterSafe s a0) := by
  unfold State.enterSafe; repeat' first
    | with_reducible assumption | with_reducible apply State.wr_ok | with_reducible apply ite_ok
    | with_reducible apply elim_ok | (with_reducible refine foldl_ok (fun _ _ _ => ?_) _ ?_) | intro _
    | (simp only [↓mk_ok_iff]; with_reducible refine MemOk.parts ?_) | split | dsimp only
theorem State.postEnd_ok {s : State} {a0} {a1} (h : MemOk s) : MemOk (State.postEnd s a0 a1) := by
  unfold State.postEnd; repeat' first
    | with_reducible assumption | with_reducible apply State.enterSafe_ok | with_reducible apply State.loseRecords_ok
    | with_reducible apply State.givePlates_ok | with_reducible apply State.applyFlash_ok
    | with_reducible apply State.becomeReady_ok | with_reducible apply State.fset_ok | with_reducible apply State.wr_ok
    | with_reducible apply ite_ok | with_reducible apply elim_ok
    | (with_reducible refine foldl_ok (fun _ _ _ => ?_) _ ?_) | intro _
    | (simp only [↓mk_ok_iff]; with_reducible refine MemOk.parts ?_) | split | dsimp only
theorem State.shortPost_ok {s : State} {a0} {a1} (h : MemOk s) : MemOk (State.shortPost s a0 a1) := by
  unfold State.shortPost; repeat' first
    | with_reducible assumption | with_reducible apply State.enterSafe_ok | with_reducible apply State.givePlates_ok
    | with_reducible apply State.applyFlash_ok | with_reducible apply State.coreReset_ok
    | with_reducible apply State.setIslands_ok | with_reducible apply State.fset_ok | with_reducible apply ite_ok
    | with_reducible apply elim_ok | (with_reducible refine foldl_ok (fun _ _ _ => ?_) _ ?_) | intro _
    | (simp only [↓mk_ok_iff]; with_reducible refine MemOk.parts ?_) | split | dsimp only
theorem State.ssCmdWrite_ok {s : State} {a0} (h : MemOk s) : MemOk (State.ssCmdWrite s a0) := by
  unfold State.ssCmdWrite; repeat' first
    | with_reducible assumption | with_reducible apply State.fset_ok | with_reducible apply ite_ok
    | with_reducible apply elim_ok | (with_reducible refine foldl_ok (fun _ _ _ => ?_) _ ?_) | intro _
    | (simp only [↓mk_ok_iff]; with_reducible refine MemOk.parts ?_) | split | dsimp only
theorem State.ssPut_ok {s : State} {k l} (h : MemOk s) : MemOk (s.ssPut k l) := by
  fun_induction State.ssPut s k l with
  | case1 s k a b c d rest ih => exact ih (State.wr_ok h)
  | case2 => exact h
  | case3 => exact State.wr_ok h
theorem State.ssTake_ok {s : State} {bus t r} (e : s.ssTake bus = some (t, r)) (h : MemOk s) : MemOk t := by
  unfold State.ssTake at e
  split at e
  · obtain ⟨c, _, e⟩ := Option.map_eq_some_iff.1 e
    cases e
    exact h
  · split at e
    · cases e
    · cases e
      exact State.ssPut_ok (State.wr_ok (State.wr_ok h))
theorem State.ssDone_ok {s : State} {a0} {a1} {a2} {a3} (h : MemOk s) : MemOk (State.ssDone s a0 a1 a2 a3) := by
  unfold State.ssDone; repeat' first
    | with_reducible assumption | with_reducible apply State.ssPut_ok | with_reducible apply State.send_ok
    | with_reducible apply State.wr_ok | with_reducible apply ite_ok | with_reducible apply elim_ok
    | (with_reducible refine foldl_ok (fun _ _ _ => ?_) _ ?_) | intro _
    | (simp only [↓mk_ok_iff]; with_reducible refine MemOk.parts ?_) | split | dsimp only
theorem State.ssRun_ok {s : State} {bus op} {f : State → Nat → Nat → Nat → State × Nat × List Byte} (h : MemOk s)
    (hf : ∀ s a b n, MemOk s → MemOk (f s a b n).1) : MemOk (s.ssRun bus op f) := by
  unfold State.ssRun
  refine ite_ok h ?_
  split
  · exact h
  · rename_i s' o tag len e
    exact ite_ok h (State.ssDone_ok (hf _ _ _ _ (State.ssTake_ok e h)))
theorem State.repairAll_ok {s : State} {p l} {t r} (e : s.repairAll p l = (t, r)) (h : MemOk s) : MemOk t := by
  induction l generalizing s t r with
  | nil => cases e; exact h
  | cons x l ih =>
    unfold State.repairAll at e
    split at e
    · rename_i u hu
      dsimp only at e
      cases e
      exact ih rfl (State.fuseRow_ok hu h)
    · exact ih e h
theorem State.repairAll_ok1 {s : State} {a0} {a1}  (h : MemOk s) : MemOk (State.repairAll s a0 a1).1 :=
  State.repairAll_ok rfl h
theorem State.marchFill_ok {s : State} {site alg} (h : MemOk s) : MemOk (s.marchFill site alg) :=
  foldl_ok (fun _ _ hs => State.plateFill_ok hs) _ h
theorem State.ceAnswer_ok {s : State} (h : MemOk s) : MemOk (State.ceAnswer s) := by
  unfold State.ceAnswer; repeat' first
    | with_reducible assumption | with_reducible apply State.blinkCtlWrite_ok | with_reducible apply State.wr_ok
    | with_reducible apply ite_ok | with_reducible apply elim_ok
    | (with_reducible refine foldl_ok (fun _ _ _ => ?_) _ ?_) | intro _
    | (simp only [↓mk_ok_iff]; with_reducible refine MemOk.parts ?_) | split | dsimp only
theorem State.idle_ok {s : State} (h : MemOk s) : MemOk (State.idle s) := by
  unfold State.idle; repeat' first
    | with_reducible assumption | with_reducible apply State.ceAnswer_ok | with_reducible apply State.tick_ok
    | with_reducible apply ite_ok | with_reducible apply elim_ok
    | (with_reducible refine foldl_ok (fun _ _ _ => ?_) _ ?_) | intro _
    | (simp only [↓mk_ok_iff]; with_reducible refine MemOk.parts ?_) | split | dsimp only
theorem State.selftestWrite_ok {s : State} {a0} (h : MemOk s) : MemOk (State.selftestWrite s a0) := by
  unfold State.selftestWrite; repeat' first
    | with_reducible assumption | with_reducible apply State.fset_ok | with_reducible apply ite_ok
    | with_reducible apply elim_ok | (with_reducible refine foldl_ok (fun _ _ _ => ?_) _ ?_) | intro _
    | (simp only [↓mk_ok_iff]; with_reducible refine MemOk.parts ?_) | split | dsimp only
theorem State.snapshot_ok {s : State} {a0} {a1} (h : MemOk s) : MemOk (State.snapshot s a0 a1) := by
  unfold State.snapshot; repeat' first
    | with_reducible assumption | with_reducible apply State.apSnap_ok | with_reducible apply State.sidSnap_ok
    | with_reducible apply State.ptmSnap_ok | with_reducible apply State.cdNowSnap_ok | with_reducible apply State.wr_ok
    | with_reducible apply ite_ok | with_reducible apply elim_ok
    | (with_reducible refine foldl_ok (fun _ _ _ => ?_) _ ?_) | intro _
    | (simp only [↓mk_ok_iff]; with_reducible refine MemOk.parts ?_) | split | dsimp only
theorem State.readWord_ok {s : State} {a0} {a1} {t r} (e : State.readWord s a0 a1 = (t, r)) (h : MemOk s) : MemOk t := by
  unfold State.readWord at e; (try dsimp only at e);
    (repeat' split at e) <;> (try simp only [Option.some.injEq, Prod.mk.injEq, reduceCtorEq] at e) <;> (try obtain ⟨e, _⟩ := e) <;> (try subst e) <;> (try contradiction) <;> (repeat' first
    | with_reducible assumption | with_reducible apply State.snapshot_ok | with_reducible apply State.sleepAccess_ok
    | with_reducible apply ite_ok | with_reducible apply elim_ok
    | (with_reducible refine foldl_ok (fun _ _ _ => ?_) _ ?_) | intro _
    | (simp only [↓mk_ok_iff]; with_reducible refine MemOk.parts ?_) | split | dsimp only)
theorem State.readWord_ok1 {s : State} {a0} {a1}  (h : MemOk s) : MemOk (State.readWord s a0 a1).1 := State.readWord_ok rfl h
theorem State.readWords_ok {s : State} {f o n} {t r} (e : s.readWords f o n = (t, r)) (h : MemOk s) : MemOk t := by
  induction n generalizing s o t r with
  | zero => cases e; exact h
  | succ n ih =>
    unfold State.readWords at e
    split at e
    · rename_i u hu; cases e; exact State.readWord_ok hu h
    · rename_i u w hu
      split at e
      · rename_i v rest hv; cases e; exact ih hv (State.readWord_ok hu h)
      · rename_i v hv; cases e; exact ih hv (State.readWord_ok hu h)
theorem State.readWords_ok1 {s : State} {a0} {a1} {a2}  (h : MemOk s) : MemOk (State.readWords s a0 a1 a2).1 :=
  State.readWords_ok rfl h
theorem State.hostRead_ok {s : State} {a0} {a1} {a2} (h : MemOk s) : MemOk (State.hostRead s a0 a1 a2) := by
  unfold State.hostRead; repeat' first
    | with_reducible assumption | (with_reducible refine State.readWords_ok (by assumption) ?_)
    | with_reducible apply State.readWords_ok1 | with_reducible apply State.send_ok | with_reducible apply ite_ok
    | with_reducible apply elim_ok | (with_reducible refine foldl_ok (fun _ _ _ => ?_) _ ?_) | intro _
    | (simp only [↓mk_ok_iff]; with_reducible refine MemOk.parts ?_) | split | dsimp only
theorem State.plainWrite_ok {s : State} {a0} {a1} {a2} (h : MemOk s) : MemOk (State.plainWrite s a0 a1 a2) := by
  unfold State.plainWrite; with_reducible first | exact h | exact mk_ok h | exact State.wr_ok h
theorem State.beforeWrite_ok {s : State} {a0} (h : MemOk s) : MemOk (State.beforeWrite s a0) := by
  unfold State.beforeWrite; repeat' first
    | with_reducible assumption | with_reducible apply State.settle_ok | with_reducible apply State.gcRefill_ok
    | with_reducible apply ite_ok | with_reducible apply elim_ok
    | (with_reducible refine foldl_ok (fun _ _ _ => ?_) _ ?_) | intro _
    | (simp only [↓mk_ok_iff]; with_reducible refine MemOk.parts ?_) | split | dsimp only
theorem State.afterWrite_ok {s : State} {a0} {a1} (h : MemOk s) : MemOk (State.afterWrite s a0 a1) := by
  unfold State.afterWrite; repeat' first
    | with_reducible assumption | with_reducible apply State.powerEval_ok | with_reducible apply State.ptmOff_ok
    | with_reducible apply State.alarmSet_ok | with_reducible apply State.outCheck_ok
    | with_reducible apply State.refChanged_ok | with_reducible apply State.ltrCheck_ok | with_reducible apply ite_ok
    | with_reducible apply elim_ok | (with_reducible refine foldl_ok (fun _ _ _ => ?_) _ ?_) | intro _
    | (simp only [↓mk_ok_iff]; with_reducible refine MemOk.parts ?_) | split | dsimp only
theorem State.commandWrite_ok {s : State} {b p t} (e : s.commandWrite b p = some t) (h : MemOk s) : MemOk t := by
  refine (?_ : OptOk (s.commandWrite b p)) t e
  unfold State.commandWrite
  repeat' first
    | with_reducible exact none_ok
    | with_reducible refine some_ok ?_
    | with_reducible apply iteOpt_ok
    | (with_reducible refine diteOpt_ok (fun _ => ?_) (fun _ => ?_))
    | (with_reducible apply ite_ok)
    | (with_reducible assumption)
    | with_reducible apply State.benchEn_ok
    | with_reducible apply State.benchCommit_ok
    | with_reducible apply State.retireReq_ok
    | with_reducible apply State.swapReq_ok
    | with_reducible apply State.ssCmdWrite_ok
    | with_reducible apply State.partWrite_ok
    | with_reducible apply State.reclaim_ok
    | with_reducible apply State.fset_ok
    | with_reducible apply State.msixWrite_ok
    | with_reducible apply State.srcCfgWrite_ok
    | with_reducible apply State.fnIdleWrite_ok
    | with_reducible apply State.pmapWrite_ok
    | with_reducible apply State.ownReq_ok
    | with_reducible apply State.wr_ok
    | with_reducible apply State.blinkCtlWrite_ok
    | with_reducible apply State.substReq_ok
    | with_reducible apply State.quadWrite_ok
    | with_reducible apply State.linkCtlWrite_ok
    | with_reducible apply State.auxCmd_ok
    | with_reducible apply State.manCtlWrite_ok
    | with_reducible apply State.laneWrite_ok
    | with_reducible apply State.cdCtlWrite_ok
    | with_reducible apply State.profWrite_ok
    | with_reducible apply State.spareReq_ok
    | with_reducible apply State.outCtlWrite_ok
    | with_reducible apply State.sidSet_ok
    | with_reducible apply State.alarmCtl_ok
    | with_reducible apply State.jrnCtlWrite_ok
    | with_reducible apply State.jrnRdWrite_ok
    | with_reducible apply State.ingCfgWrite_ok
    | with_reducible apply State.ingRateWrite_ok
    | with_reducible apply State.slotOpen_ok
    | with_reducible apply State.slotDone_ok
    | with_reducible apply State.dmaCtlWrite_ok
    | with_reducible apply State.cpCtlWrite_ok
    | with_reducible apply State.doorbell_ok
    | with_reducible apply State.fsqCtlWrite_ok
    | with_reducible apply State.fsqEntryWrite_ok
    | with_reducible apply State.watchWrite_ok
    | with_reducible apply State.pwrLatWrite_ok
    | with_reducible apply State.shedWrite_ok
    | dsimp only
theorem State.flagsThen_ok {s : State} {a0} {a1} {a2} (h : MemOk s) : MemOk (State.flagsThen s a0 a1 a2) := by
  unfold State.flagsThen; repeat' first
    | with_reducible assumption | with_reducible apply State.plainWrite_ok | with_reducible apply State.selftestWrite_ok
    | with_reducible apply ite_ok | with_reducible apply elim_ok
    | (with_reducible refine foldl_ok (fun _ _ _ => ?_) _ ?_) | intro _
    | (simp only [↓mk_ok_iff]; with_reducible refine MemOk.parts ?_) | split | dsimp only
theorem State.shDrop_ok {s : State} {a0} (h : MemOk s) : MemOk (State.shDrop s a0) := by
  unfold State.shDrop; repeat' first
    | with_reducible assumption | with_reducible apply State.fsat_ok | with_reducible apply State.fset_ok
    | with_reducible apply ite_ok | with_reducible apply elim_ok
    | (with_reducible refine foldl_ok (fun _ _ _ => ?_) _ ?_) | intro _
    | (simp only [↓mk_ok_iff]; with_reducible refine MemOk.parts ?_) | split | dsimp only
theorem State.shWrite_ok {s : State} {a0} {a1} {a2} {a3} (h : MemOk s) : MemOk (State.shWrite s a0 a1 a2 a3) := by
  unfold State.shWrite; repeat' first
    | with_reducible assumption | with_reducible apply State.shDrop_ok | with_reducible apply ite_ok
    | with_reducible apply elim_ok | (with_reducible refine foldl_ok (fun _ _ _ => ?_) _ ?_) | intro _
    | (simp only [↓mk_ok_iff]; with_reducible refine MemOk.parts ?_) | split | dsimp only
theorem State.keyWrite_ok {s : State} {a0} {a1} {a2} {a3} {a4} (h : MemOk s) : MemOk (State.keyWrite s a0 a1 a2 a3 a4) := by
  unfold State.keyWrite; repeat' first
    | with_reducible assumption | with_reducible apply State.shWrite_ok | with_reducible apply State.shDrop_ok
    | with_reducible apply State.flagsThen_ok | (with_reducible refine State.commandWrite_ok (by assumption) ?_)
    | with_reducible apply State.afterWrite_ok | with_reducible apply State.beforeWrite_ok | with_reducible apply ite_ok
    | with_reducible apply elim_ok | (with_reducible refine foldl_ok (fun _ _ _ => ?_) _ ?_) | intro _
    | (simp only [↓mk_ok_iff]; with_reducible refine MemOk.parts ?_) | split | dsimp only
theorem State.writeWord_ok {s : State} {a0} {a1} {a2} {a3} {a4} (h : MemOk s) : MemOk (State.writeWord s a0 a1 a2 a3 a4) := by
  unfold State.writeWord; repeat' first
    | with_reducible assumption | with_reducible apply State.keyWrite_ok | with_reducible apply State.access_ok
    | with_reducible apply ite_ok | with_reducible apply elim_ok
    | (with_reducible refine foldl_ok (fun _ _ _ => ?_) _ ?_) | intro _
    | (simp only [↓mk_ok_iff]; with_reducible refine MemOk.parts ?_) | split | dsimp only
theorem State.writeWords_ok {s : State} {f off r raced l} (h : MemOk s) : MemOk (s.writeWords f off r raced l) := by
  induction l generalizing s off raced with
  | nil => exact h
  | cons x l ih =>
    obtain ⟨en, v⟩ := x
    unfold State.writeWords
    exact ih (ite_ok h (ite_ok (State.regStatus_ok h) (State.writeWord_ok h)))
theorem State.busWrite_ok {s : State} {a0} {a1} {a2} {a3} {a4} (h : MemOk s) : MemOk (State.busWrite s a0 a1 a2 a3 a4) := by
  unfold State.busWrite; repeat' first
    | with_reducible assumption | with_reducible apply State.writeWords_ok | with_reducible apply State.regStatus_ok
    | with_reducible apply ite_ok | with_reducible apply elim_ok
    | (with_reducible refine foldl_ok (fun _ _ _ => ?_) _ ?_) | intro _
    | (simp only [↓mk_ok_iff]; with_reducible refine MemOk.parts ?_) | split | dsimp only
theorem State.performStore_ok {s : State} {a0} {a1} {a2} {a3} (h : MemOk s) : MemOk (State.performStore s a0 a1 a2 a3) := by
  unfold State.performStore; repeat' first
    | with_reducible assumption | with_reducible apply State.writeWord_ok | with_reducible apply State.send_ok
    | with_reducible apply State.store_ok | with_reducible apply ite_ok | with_reducible apply elim_ok
    | (with_reducible refine foldl_ok (fun _ _ _ => ?_) _ ?_) | intro _
    | (simp only [↓mk_ok_iff]; with_reducible refine MemOk.parts ?_) | split | dsimp only
theorem State.storePerformed_ok {s : State} {a0} {a1} {a2} {a3} (h : MemOk s) : MemOk (State.storePerformed s a0 a1 a2 a3) := by
  unfold State.storePerformed; repeat' first
    | with_reducible assumption | with_reducible apply State.performStore_ok | with_reducible apply State.setSeq_ok
    | with_reducible apply State.touchMem_ok | with_reducible apply ite_ok | with_reducible apply elim_ok
    | (with_reducible refine foldl_ok (fun _ _ _ => ?_) _ ?_) | intro _
    | (simp only [↓mk_ok_iff]; with_reducible refine MemOk.parts ?_) | split | dsimp only
theorem State.loadDone_ok {s : State} {a0} {a1} {a2} {a3} (h : MemOk s) : MemOk (State.loadDone s a0 a1 a2 a3) := by
  unfold State.loadDone; repeat' first
    | with_reducible assumption | with_reducible apply State.setSeq_ok | with_reducible apply ite_ok
    | with_reducible apply elim_ok | (with_reducible refine foldl_ok (fun _ _ _ => ?_) _ ?_) | intro _
    | (simp only [↓mk_ok_iff]; with_reducible refine MemOk.parts ?_) | split | dsimp only
theorem State.readFailed_ok {s : State} {a0} (h : MemOk s) : MemOk (State.readFailed s a0) := by
  unfold State.readFailed; repeat' first
    | with_reducible assumption | with_reducible apply State.seqFault_ok | with_reducible apply ite_ok
    | with_reducible apply elim_ok | (with_reducible refine foldl_ok (fun _ _ _ => ?_) _ ?_) | intro _
    | (simp only [↓mk_ok_iff]; with_reducible refine MemOk.parts ?_) | split | dsimp only
theorem State.loadReturn_ok {s : State} {a0} {a1} (h : MemOk s) : MemOk (State.loadReturn s a0 a1) := by
  unfold State.loadReturn; repeat' first
    | with_reducible assumption | with_reducible apply State.readFailed_ok | with_reducible apply State.loadDone_ok
    | (with_reducible refine State.readWord_ok (by assumption) ?_) | with_reducible apply State.readWord_ok1
    | with_reducible apply State.seqFault_ok | with_reducible apply State.setSeqState_ok
    | with_reducible apply State.setSeq_ok | with_reducible apply State.aerLog_ok
    | with_reducible apply State.touchMem_ok | (with_reducible refine State.localRead_ok (by assumption) ?_)
    | with_reducible apply State.localRead_ok1 | with_reducible apply ite_ok | with_reducible apply elim_ok
    | (with_reducible refine foldl_ok (fun _ _ _ => ?_) _ ?_) | intro _
    | (simp only [↓mk_ok_iff]; with_reducible refine MemOk.parts ?_) | split | dsimp only
theorem State.tagLost_ok {s : State} {a0} (h : MemOk s) : MemOk (State.tagLost s a0) := by
  unfold State.tagLost; repeat' first
    | with_reducible assumption | with_reducible apply State.updWord_ok | with_reducible apply State.dropTag_ok
    | with_reducible apply ite_ok | with_reducible apply elim_ok
    | (with_reducible refine foldl_ok (fun _ _ _ => ?_) _ ?_) | intro _
    | (simp only [↓mk_ok_iff]; with_reducible refine MemOk.parts ?_) | split | dsimp only
theorem State.transferLost_ok {s : State} {a0} {a1} (h : MemOk s) : MemOk (State.transferLost s a0 a1) := by
  unfold State.transferLost; repeat' first
    | with_reducible assumption | with_reducible apply State.tagLost_ok | with_reducible apply State.readFailed_ok
    | with_reducible apply State.crossingLoss_ok | with_reducible apply State.setSeq_ok
    | with_reducible apply State.send_ok | with_reducible apply ite_ok | with_reducible apply elim_ok
    | (with_reducible refine foldl_ok (fun _ _ _ => ?_) _ ?_) | intro _
    | (simp only [↓mk_ok_iff]; with_reducible refine MemOk.parts ?_) | split | dsimp only
theorem State.transferDone_ok {s : State} {a0} (h : MemOk s) : MemOk (State.transferDone s a0) := by
  unfold State.transferDone; repeat' first
    | with_reducible assumption | with_reducible apply State.busWrite_ok | with_reducible apply State.hostRead_ok
    | with_reducible apply ite_ok | with_reducible apply elim_ok
    | (with_reducible refine foldl_ok (fun _ _ _ => ?_) _ ?_) | intro _
    | (simp only [↓mk_ok_iff]; with_reducible refine MemOk.parts ?_) | split | dsimp only
theorem State.passOne_ok {s : State} {a0} (h : MemOk s) : MemOk (State.passOne s a0) := by
  unfold State.passOne; repeat' first
    | with_reducible assumption | with_reducible apply State.transferDone_ok | with_reducible apply ite_ok
    | with_reducible apply elim_ok | (with_reducible refine foldl_ok (fun _ _ _ => ?_) _ ?_) | intro _
    | (simp only [↓mk_ok_iff]; with_reducible refine MemOk.parts ?_) | split | dsimp only
theorem State.passAll_ok {s : State} {a0} (h : MemOk s) : MemOk (State.passAll s a0) := by
  unfold State.passAll; repeat' first
    | with_reducible assumption | with_reducible apply State.passOne_ok | with_reducible apply ite_ok
    | with_reducible apply elim_ok | (with_reducible refine foldl_ok (fun _ _ _ => ?_) _ ?_) | intro _
    | (simp only [↓mk_ok_iff]; with_reducible refine MemOk.parts ?_) | split | dsimp only
theorem State.hostReadTimeout_ok {s : State} {a0} (h : MemOk s) : MemOk (State.hostReadTimeout s a0) := by
  unfold State.hostReadTimeout; repeat' first
    | with_reducible assumption | with_reducible apply State.loadReturn_ok | with_reducible apply State.sourceData_ok
    | with_reducible apply State.descData_ok | with_reducible apply State.fetchTimeout_ok
    | with_reducible apply State.pollReturn_ok | with_reducible apply State.ringFetched_ok
    | with_reducible apply State.programFill_ok | with_reducible apply ite_ok | with_reducible apply elim_ok
    | (with_reducible refine foldl_ok (fun _ _ _ => ?_) _ ?_) | intro _
    | (simp only [↓mk_ok_iff]; with_reducible refine MemOk.parts ?_) | split | dsimp only

end Sys2Proof.Machine
end

