-- ==== Sys2Proof/Laws/MemoryCommands.lean ====
section
/-! SUPPORT. Every command keeps the byte memories in canonical form: one lemma for each meaning. -/

namespace Sys2Proof.Machine

set_option linter.all false
set_option Elab.async false

theorem execNop_ok {s : State} {a0} (h : MemOk s) : OutOk (execNop a0 s) := by
  unfold execNop; refine next_ok ?_; repeat' first
    | with_reducible assumption | with_reducible apply State.retire_ok | with_reducible apply State.issue_ok
    | with_reducible apply ite_ok | (with_reducible refine foldl_ok (fun _ _ _ => ?_) _ ?_) | intro _ | split
    | (with_reducible apply mk_ok) | (with_reducible apply MemOk.parts) | dsimp only
theorem execJmp_ok {s : State} {a0} (h : MemOk s) : OutOk (execJmp a0 s) := by
  unfold execJmp; refine next_ok ?_; repeat' first
    | with_reducible assumption | with_reducible apply State.branch_ok | with_reducible apply State.issue_ok
    | with_reducible apply ite_ok | (with_reducible refine foldl_ok (fun _ _ _ => ?_) _ ?_) | intro _ | split
    | (with_reducible apply mk_ok) | (with_reducible apply MemOk.parts) | dsimp only
theorem execJcc_ok {s : State} {a0} (h : MemOk s) : OutOk (execJcc a0 s) := by
  unfold execJcc; refine next_ok ?_; repeat' first
    | with_reducible assumption | with_reducible apply State.branch_ok | with_reducible apply State.retire_ok
    | with_reducible apply State.issue_ok | with_reducible apply ite_ok
    | (with_reducible refine foldl_ok (fun _ _ _ => ?_) _ ?_) | intro _ | split | (with_reducible apply mk_ok)
    | (with_reducible apply MemOk.parts) | dsimp only
theorem execCall_ok {s : State} {a0} (h : MemOk s) : OutOk (execCall a0 s) := by
  unfold execCall; refine next_ok ?_; repeat' first
    | with_reducible assumption | with_reducible apply State.issue_ok | with_reducible apply State.seqFault_ok
    | with_reducible apply State.setSeq_ok | with_reducible apply ite_ok
    | (with_reducible refine foldl_ok (fun _ _ _ => ?_) _ ?_) | intro _ | split | (with_reducible apply mk_ok)
    | (with_reducible apply MemOk.parts) | dsimp only
theorem execRet_ok {s : State} {a0} (h : MemOk s) : OutOk (execRet a0 s) := by
  unfold execRet; refine next_ok ?_; repeat' first
    | with_reducible assumption | with_reducible apply State.issue_ok | with_reducible apply State.seqFault_ok
    | with_reducible apply State.setSeq_ok | with_reducible apply ite_ok
    | (with_reducible refine foldl_ok (fun _ _ _ => ?_) _ ?_) | intro _ | split | (with_reducible apply mk_ok)
    | (with_reducible apply MemOk.parts) | dsimp only
theorem execLoop_ok {s : State} {a0} (h : MemOk s) : OutOk (execLoop a0 s) := by
  unfold execLoop; refine next_ok ?_; repeat' first
    | with_reducible assumption | with_reducible apply State.branch_ok | with_reducible apply State.retire_ok
    | with_reducible apply State.issue_ok | with_reducible apply ite_ok
    | (with_reducible refine foldl_ok (fun _ _ _ => ?_) _ ?_) | intro _ | split | (with_reducible apply mk_ok)
    | (with_reducible apply MemOk.parts) | dsimp only
theorem execHalt_ok {s : State} {a0} (h : MemOk s) : OutOk (execHalt a0 s) := by
  unfold execHalt; refine next_ok ?_; repeat' first
    | with_reducible assumption | with_reducible apply State.endRun_ok | with_reducible apply State.issue_ok
    | with_reducible apply State.setSeqState_ok | with_reducible apply State.setSeq_ok | with_reducible apply ite_ok
    | (with_reducible refine foldl_ok (fun _ _ _ => ?_) _ ?_) | intro _ | split | (with_reducible apply mk_ok)
    | (with_reducible apply MemOk.parts) | dsimp only
theorem execHaltComplete_ok {s : State} {a0} (h : MemOk s) : OutOk (execHaltComplete a0 s) := by
  unfold execHaltComplete; refine next_ok ?_; repeat' first
    | with_reducible assumption | with_reducible apply State.endRun_ok | with_reducible apply ite_ok
    | (with_reducible refine foldl_ok (fun _ _ _ => ?_) _ ?_) | intro _ | split | (with_reducible apply mk_ok)
    | (with_reducible apply MemOk.parts) | dsimp only
theorem execAddi_ok {s : State} {a0} (h : MemOk s) : OutOk (execAddi a0 s) := by
  unfold execAddi; refine next_ok ?_; repeat' first
    | with_reducible assumption | with_reducible apply State.arith_ok | with_reducible apply State.issue_ok
    | with_reducible apply ite_ok | (with_reducible refine foldl_ok (fun _ _ _ => ?_) _ ?_) | intro _ | split
    | (with_reducible apply mk_ok) | (with_reducible apply MemOk.parts) | dsimp only
theorem execAnd_ok {s : State} {a0} (h : MemOk s) : OutOk (execAnd a0 s) := by
  unfold execAnd; refine next_ok ?_; repeat' first
    | with_reducible assumption | with_reducible apply State.arith_ok | with_reducible apply State.issue_ok
    | with_reducible apply ite_ok | (with_reducible refine foldl_ok (fun _ _ _ => ?_) _ ?_) | intro _ | split
    | (with_reducible apply mk_ok) | (with_reducible apply MemOk.parts) | dsimp only
theorem execOr_ok {s : State} {a0} (h : MemOk s) : OutOk (execOr a0 s) := by
  unfold execOr; refine next_ok ?_; repeat' first
    | with_reducible assumption | with_reducible apply State.arith_ok | with_reducible apply State.issue_ok
    | with_reducible apply ite_ok | (with_reducible refine foldl_ok (fun _ _ _ => ?_) _ ?_) | intro _ | split
    | (with_reducible apply mk_ok) | (with_reducible apply MemOk.parts) | dsimp only
theorem execXor_ok {s : State} {a0} (h : MemOk s) : OutOk (execXor a0 s) := by
  unfold execXor; refine next_ok ?_; repeat' first
    | with_reducible assumption | with_reducible apply State.arith_ok | with_reducible apply State.issue_ok
    | with_reducible apply ite_ok | (with_reducible refine foldl_ok (fun _ _ _ => ?_) _ ?_) | intro _ | split
    | (with_reducible apply mk_ok) | (with_reducible apply MemOk.parts) | dsimp only
theorem execShl_ok {s : State} {a0} (h : MemOk s) : OutOk (execShl a0 s) := by
  unfold execShl; refine next_ok ?_; repeat' first
    | with_reducible assumption | with_reducible apply State.arith_ok | with_reducible apply State.issue_ok
    | with_reducible apply ite_ok | (with_reducible refine foldl_ok (fun _ _ _ => ?_) _ ?_) | intro _ | split
    | (with_reducible apply mk_ok) | (with_reducible apply MemOk.parts) | dsimp only
theorem execShr_ok {s : State} {a0} (h : MemOk s) : OutOk (execShr a0 s) := by
  unfold execShr; refine next_ok ?_; repeat' first
    | with_reducible assumption | with_reducible apply State.arith_ok | with_reducible apply State.issue_ok
    | with_reducible apply ite_ok | (with_reducible refine foldl_ok (fun _ _ _ => ?_) _ ?_) | intro _ | split
    | (with_reducible apply mk_ok) | (with_reducible apply MemOk.parts) | dsimp only
theorem execCmp_ok {s : State} {a0} (h : MemOk s) : OutOk (execCmp a0 s) := by
  unfold execCmp; refine next_ok ?_; repeat' first
    | with_reducible assumption | with_reducible apply State.retire_ok | with_reducible apply State.issue_ok
    | with_reducible apply ite_ok | (with_reducible refine foldl_ok (fun _ _ _ => ?_) _ ?_) | intro _ | split
    | (with_reducible apply mk_ok) | (with_reducible apply MemOk.parts) | dsimp only
theorem execLdw_ok {s : State} {a0} (h : MemOk s) : OutOk (execLdw a0 s) := by
  unfold execLdw; refine next_ok ?_; repeat' first
    | with_reducible assumption | with_reducible apply State.dataPlace_ok | with_reducible apply State.issue_ok
    | with_reducible apply State.seqFault_ok | with_reducible apply State.setSeq_ok | with_reducible apply State.send_ok
    | with_reducible apply State.askMc_ok | with_reducible apply ite_ok | with_reducible apply elim_ok
    | (with_reducible refine foldl_ok (fun _ _ _ => ?_) _ ?_) | intro _
    | (simp only [↓mk_ok_iff]; with_reducible refine MemOk.parts ?_) | split | dsimp only
theorem execStw_ok {s : State} {a0} (h : MemOk s) : OutOk (execStw a0 s) := by
  unfold execStw; refine next_ok ?_; repeat' first
    | with_reducible assumption | with_reducible apply State.dataPlace_ok | with_reducible apply State.retire_ok
    | with_reducible apply State.issue_ok | with_reducible apply State.seqFault_ok | with_reducible apply State.askMc_ok
    | with_reducible apply ite_ok | with_reducible apply elim_ok
    | (with_reducible refine foldl_ok (fun _ _ _ => ?_) _ ?_) | intro _
    | (simp only [↓mk_ok_iff]; with_reducible refine MemOk.parts ?_) | split | dsimp only
theorem execAtom_ok {s : State} {a0} (h : MemOk s) : OutOk (execAtom a0 s) := by
  unfold execAtom; refine next_ok ?_; repeat' first
    | with_reducible assumption | with_reducible apply State.dataPlace_ok | with_reducible apply State.issue_ok
    | with_reducible apply State.seqFault_ok | with_reducible apply State.setSeq_ok
    | with_reducible apply State.askMc_ok | with_reducible apply ite_ok | with_reducible apply elim_ok
    | (with_reducible refine foldl_ok (fun _ _ _ => ?_) _ ?_) | intro _
    | (simp only [↓mk_ok_iff]; with_reducible refine MemOk.parts ?_) | split | dsimp only
theorem execAtomComplete_ok {s : State} {a0} {a1} (h : MemOk s) : OutOk (execAtomComplete a0 a1 s) := by
  unfold execAtomComplete; refine next_ok ?_; repeat' first
    | with_reducible assumption | with_reducible apply State.seqFault_ok | with_reducible apply State.setSeq_ok
    | with_reducible apply State.touchMem_ok | (with_reducible refine State.localRead_ok (by assumption) ?_)
    | with_reducible apply State.localRead_ok1 | with_reducible apply State.store_ok | with_reducible apply ite_ok
    | with_reducible apply elim_ok | (with_reducible refine foldl_ok (fun _ _ _ => ?_) _ ?_) | intro _
    | (simp only [↓mk_ok_iff]; with_reducible refine MemOk.parts ?_) | split | dsimp only
theorem execProgramFetchFill_ok {s : State} {a0} {a1} (h : MemOk s) : OutOk (execProgramFetchFill a0 a1 s) := by
  unfold execProgramFetchFill; refine next_ok ?_; repeat' first
    | with_reducible assumption | with_reducible apply State.programFill_ok | with_reducible apply ite_ok
    | (with_reducible refine foldl_ok (fun _ _ _ => ?_) _ ?_) | intro _ | split | (with_reducible apply mk_ok)
    | (with_reducible apply MemOk.parts) | dsimp only
theorem execWaitev_ok {s : State} {a0} (h : MemOk s) : OutOk (execWaitev a0 s) := by
  unfold execWaitev; refine next_ok ?_; repeat' first
    | with_reducible assumption | with_reducible apply State.retire_ok | with_reducible apply State.issue_ok
    | with_reducible apply State.seqFault_ok | with_reducible apply State.setSeqState_ok
    | with_reducible apply State.setSeq_ok | with_reducible apply ite_ok
    | (with_reducible refine foldl_ok (fun _ _ _ => ?_) _ ?_) | intro _ | split | (with_reducible apply mk_ok)
    | (with_reducible apply MemOk.parts) | dsimp only
theorem execWaitevWake_ok {s : State} {a0} (h : MemOk s) : OutOk (execWaitevWake a0 s) := by
  unfold execWaitevWake; refine next_ok ?_; repeat' first
    | with_reducible assumption | with_reducible apply State.resume_ok | with_reducible apply ite_ok
    | (with_reducible refine foldl_ok (fun _ _ _ => ?_) _ ?_) | intro _ | split | (with_reducible apply mk_ok)
    | (with_reducible apply MemOk.parts) | dsimp only
theorem execWaitevTimeout_ok {s : State} {a0} (h : MemOk s) : OutOk (execWaitevTimeout a0 s) := by
  unfold execWaitevTimeout; refine next_ok ?_; repeat' first
    | with_reducible assumption | with_reducible apply State.resume_ok | with_reducible apply ite_ok
    | (with_reducible refine foldl_ok (fun _ _ _ => ?_) _ ?_) | intro _ | split | (with_reducible apply mk_ok)
    | (with_reducible apply MemOk.parts) | dsimp only
theorem execWaitln_ok {s : State} {a0} (h : MemOk s) : OutOk (execWaitln a0 s) := by
  unfold execWaitln; refine next_ok ?_; repeat' first
    | with_reducible assumption | with_reducible apply State.retire_ok | with_reducible apply State.issue_ok
    | with_reducible apply State.seqFault_ok | with_reducible apply State.setSeqState_ok
    | with_reducible apply State.setSeq_ok | with_reducible apply ite_ok
    | (with_reducible refine foldl_ok (fun _ _ _ => ?_) _ ?_) | intro _ | split | (with_reducible apply mk_ok)
    | (with_reducible apply MemOk.parts) | dsimp only
theorem execWaitlnWake_ok {s : State} {a0} (h : MemOk s) : OutOk (execWaitlnWake a0 s) := by
  unfold execWaitlnWake; refine next_ok ?_; repeat' first
    | with_reducible assumption | with_reducible apply State.resume_ok | with_reducible apply ite_ok
    | (with_reducible refine foldl_ok (fun _ _ _ => ?_) _ ?_) | intro _ | split | (with_reducible apply mk_ok)
    | (with_reducible apply MemOk.parts) | dsimp only
theorem execSignal_ok {s : State} {a0} (h : MemOk s) : OutOk (execSignal a0 s) := by
  unfold execSignal; refine next_ok ?_; repeat' first
    | with_reducible assumption | with_reducible apply State.retire_ok | with_reducible apply State.issue_ok
    | with_reducible apply State.seqFault_ok | with_reducible apply State.raise_ok | with_reducible apply ite_ok
    | (with_reducible refine foldl_ok (fun _ _ _ => ?_) _ ?_) | intro _ | split | (with_reducible apply mk_ok)
    | (with_reducible apply MemOk.parts) | dsimp only
theorem execStamp_ok {s : State} {a0} (h : MemOk s) : OutOk (execStamp a0 s) := by
  unfold execStamp; refine next_ok ?_; repeat' first
    | with_reducible assumption | with_reducible apply State.retire_ok | with_reducible apply State.issue_ok
    | with_reducible apply State.seqFault_ok | with_reducible apply State.draw_ok | with_reducible apply ite_ok
    | (with_reducible refine foldl_ok (fun _ _ _ => ?_) _ ?_) | intro _ | split | (with_reducible apply mk_ok)
    | (with_reducible apply MemOk.parts) | dsimp only
theorem execFence_ok {s : State} {a0} (h : MemOk s) : OutOk (execFence a0 s) := by
  unfold execFence; refine next_ok ?_; repeat' first
    | with_reducible assumption | with_reducible apply State.retire_ok | with_reducible apply State.issue_ok
    | with_reducible apply State.setSeqState_ok | with_reducible apply State.setSeq_ok | with_reducible apply ite_ok
    | (with_reducible refine foldl_ok (fun _ _ _ => ?_) _ ?_) | intro _ | split | (with_reducible apply mk_ok)
    | (with_reducible apply MemOk.parts) | dsimp only
theorem execFenceComplete_ok {s : State} {a0} (h : MemOk s) : OutOk (execFenceComplete a0 s) := by
  unfold execFenceComplete; refine next_ok ?_; repeat' first
    | with_reducible assumption | with_reducible apply State.resume_ok | with_reducible apply ite_ok
    | (with_reducible refine foldl_ok (fun _ _ _ => ?_) _ ?_) | intro _ | split | (with_reducible apply mk_ok)
    | (with_reducible apply MemOk.parts) | dsimp only
theorem execLset_ok {s : State} {a0} (h : MemOk s) : OutOk (execLset a0 s) := by
  unfold execLset; refine next_ok ?_; repeat' first
    | with_reducible assumption | with_reducible apply State.stateInstr_ok | with_reducible apply State.issue_ok
    | with_reducible apply ite_ok | (with_reducible refine foldl_ok (fun _ _ _ => ?_) _ ?_) | intro _ | split
    | (with_reducible apply mk_ok) | (with_reducible apply MemOk.parts) | dsimp only
theorem execHset_ok {s : State} {a0} (h : MemOk s) : OutOk (execHset a0 s) := by
  unfold execHset; refine next_ok ?_; repeat' first
    | with_reducible assumption | with_reducible apply State.stateInstr_ok | with_reducible apply State.issue_ok
    | with_reducible apply ite_ok | (with_reducible refine foldl_ok (fun _ _ _ => ?_) _ ?_) | intro _ | split
    | (with_reducible apply mk_ok) | (with_reducible apply MemOk.parts) | dsimp only
theorem execCset_ok {s : State} {a0} (h : MemOk s) : OutOk (execCset a0 s) := by
  unfold execCset; refine next_ok ?_; repeat' first
    | with_reducible assumption | with_reducible apply State.stateInstr_ok | with_reducible apply State.issue_ok
    | with_reducible apply ite_ok | (with_reducible refine foldl_ok (fun _ _ _ => ?_) _ ?_) | intro _ | split
    | (with_reducible apply mk_ok) | (with_reducible apply MemOk.parts) | dsimp only
theorem execGset_ok {s : State} {a0} (h : MemOk s) : OutOk (execGset a0 s) := by
  unfold execGset; refine next_ok ?_; repeat' first
    | with_reducible assumption | with_reducible apply State.stateInstr_ok | with_reducible apply State.issue_ok
    | with_reducible apply ite_ok | (with_reducible refine foldl_ok (fun _ _ _ => ?_) _ ?_) | intro _ | split
    | (with_reducible apply mk_ok) | (with_reducible apply MemOk.parts) | dsimp only
theorem execSigdef_ok {s : State} {a0} (h : MemOk s) : OutOk (execSigdef a0 s) := by
  unfold execSigdef; refine next_ok ?_; repeat' first
    | with_reducible assumption | with_reducible apply State.stateInstr_ok | with_reducible apply State.issue_ok
    | with_reducible apply ite_ok | (with_reducible refine foldl_ok (fun _ _ _ => ?_) _ ?_) | intro _ | split
    | (with_reducible apply mk_ok) | (with_reducible apply MemOk.parts) | dsimp only
theorem execSigexp_ok {s : State} {a0} (h : MemOk s) : OutOk (execSigexp a0 s) := by
  unfold execSigexp; refine next_ok ?_; repeat' first
    | with_reducible assumption | with_reducible apply State.stateInstr_ok | with_reducible apply State.issue_ok
    | with_reducible apply ite_ok | (with_reducible refine foldl_ok (fun _ _ _ => ?_) _ ?_) | intro _ | split
    | (with_reducible apply mk_ok) | (with_reducible apply MemOk.parts) | dsimp only
theorem execLcopy_ok {s : State} {a0} (h : MemOk s) : OutOk (execLcopy a0 s) := by
  unfold execLcopy; refine next_ok ?_; repeat' first
    | with_reducible assumption | with_reducible apply State.retire_ok | with_reducible apply State.issue_ok
    | with_reducible apply State.seqFault_ok | with_reducible apply ite_ok
    | (with_reducible refine foldl_ok (fun _ _ _ => ?_) _ ?_) | intro _ | split | (with_reducible apply mk_ok)
    | (with_reducible apply MemOk.parts) | dsimp only
theorem execShadowWriteAccept_ok {s : State} (h : MemOk s) : OutOk (execShadowWriteAccept s) := by
  unfold execShadowWriteAccept
  refine next_ok ?_
  dsimp only
  refine State.wr_ok (mk_ok (MemOk.parts (foldl_ok (fun s p hs => State.popQueue_ok (elim_ok hs fun a => State.shadowApply_ok hs)) _ h)))
theorem execRingEntryFetched_ok {s : State} {a0} {a1} (h : MemOk s) : OutOk (execRingEntryFetched a0 a1 s) := by
  unfold execRingEntryFetched; refine next_ok ?_; repeat' first
    | with_reducible assumption | with_reducible apply State.ringFetched_ok | with_reducible apply ite_ok
    | with_reducible apply elim_ok | (with_reducible refine foldl_ok (fun _ _ _ => ?_) _ ?_) | intro _
    | (simp only [↓mk_ok_iff]; with_reducible refine MemOk.parts ?_) | split | dsimp only
theorem execCpDoorbellWrite_ok {s : State} {a0} {a1} {a2} (h : MemOk s) : OutOk (execCpDoorbellWrite a0 a1 a2 s) := by
  unfold execCpDoorbellWrite; refine next_ok ?_; repeat' first
    | with_reducible assumption | with_reducible apply State.doorbell_ok | with_reducible apply State.access_ok
    | with_reducible apply ite_ok | (with_reducible refine foldl_ok (fun _ _ _ => ?_) _ ?_) | intro _ | split
    | (with_reducible apply mk_ok) | (with_reducible apply MemOk.parts) | dsimp only
theorem execRingNop_ok {s : State} {a0} (h : MemOk s) : OutOk (execRingNop a0 s) := by
  unfold execRingNop; refine next_ok ?_; repeat' first
    | with_reducible assumption | with_reducible apply State.setSeq_ok | with_reducible apply ite_ok
    | (with_reducible refine foldl_ok (fun _ _ _ => ?_) _ ?_) | intro _ | split | (with_reducible apply mk_ok)
    | (with_reducible apply MemOk.parts) | dsimp only
theorem execRingCall_ok {s : State} {a0} (h : MemOk s) : OutOk (execRingCall a0 s) := by
  unfold execRingCall; refine next_ok ?_; repeat' first
    | with_reducible assumption | with_reducible apply State.seqFault_ok | with_reducible apply State.setSeq_ok
    | with_reducible apply ite_ok | (with_reducible refine foldl_ok (fun _ _ _ => ?_) _ ?_) | intro _ | split
    | (with_reducible apply mk_ok) | (with_reducible apply MemOk.parts) | dsimp only
theorem execRingInline_ok {s : State} {a0} (h : MemOk s) : OutOk (execRingInline a0 s) := by
  unfold execRingInline; refine next_ok ?_; repeat' first
    | with_reducible assumption | with_reducible apply State.setSeq_ok | with_reducible apply ite_ok
    | (with_reducible refine foldl_ok (fun _ _ _ => ?_) _ ?_) | intro _ | split | (with_reducible apply mk_ok)
    | (with_reducible apply MemOk.parts) | dsimp only
theorem execRingFence_ok {s : State} {a0} (h : MemOk s) : OutOk (execRingFence a0 s) := by
  unfold execRingFence; refine next_ok ?_; repeat' first
    | with_reducible assumption | with_reducible apply State.setSeqState_ok | with_reducible apply State.setSeq_ok
    | with_reducible apply ite_ok | (with_reducible refine foldl_ok (fun _ _ _ => ?_) _ ?_) | intro _ | split
    | (with_reducible apply mk_ok) | (with_reducible apply MemOk.parts) | dsimp only
theorem execRingFenceComplete_ok {s : State} {a0} (h : MemOk s) : OutOk (execRingFenceComplete a0 s) := by
  unfold execRingFenceComplete; refine next_ok ?_; repeat' first
    | with_reducible assumption | with_reducible apply State.entryDone_ok | with_reducible apply State.deviceWrite_ok
    | with_reducible apply ite_ok | with_reducible apply elim_ok
    | (with_reducible refine foldl_ok (fun _ _ _ => ?_) _ ?_) | intro _
    | (simp only [↓mk_ok_iff]; with_reducible refine MemOk.parts ?_) | split | dsimp only
theorem execRingWait_ok {s : State} {a0} {a1} (h : MemOk s) : OutOk (execRingWait a0 a1 s) := by
  unfold execRingWait; refine next_ok ?_; repeat' first
    | with_reducible assumption | with_reducible apply State.pollReturn_ok | with_reducible apply State.pollAsk_ok
    | with_reducible apply State.setSeqState_ok
    | with_reducible apply State.setSeq_ok | with_reducible apply ite_ok | with_reducible apply elim_ok
    | (with_reducible refine foldl_ok (fun _ _ _ => ?_) _ ?_) | intro _
    | (simp only [↓mk_ok_iff]; with_reducible refine MemOk.parts ?_) | split | dsimp only
theorem execRingWaitPoll_ok {s : State} {a0} {a1} (h : MemOk s) : OutOk (execRingWaitPoll a0 a1 s) := by
  unfold execRingWaitPoll; refine next_ok ?_; repeat' first
    | with_reducible assumption | with_reducible apply State.pollReturn_ok | with_reducible apply State.pollAsk_ok
    | with_reducible apply ite_ok | with_reducible apply elim_ok
    | (with_reducible refine foldl_ok (fun _ _ _ => ?_) _ ?_) | intro _
    | (simp only [↓mk_ok_iff]; with_reducible refine MemOk.parts ?_) | split | dsimp only
theorem execRingWaitTimeout_ok {s : State} {a0} (h : MemOk s) : OutOk (execRingWaitTimeout a0 s) := by
  unfold execRingWaitTimeout; refine next_ok ?_; repeat' first
    | with_reducible assumption | with_reducible apply State.entryDone_ok | with_reducible apply State.seqFault_ok
    | with_reducible apply State.fset_ok | with_reducible apply ite_ok
    | (with_reducible refine foldl_ok (fun _ _ _ => ?_) _ ?_) | intro _ | split | (with_reducible apply mk_ok)
    | (with_reducible apply MemOk.parts) | dsimp only
theorem execRingEntryComplete_ok {s : State} {a0} (h : MemOk s) : OutOk (execRingEntryComplete a0 s) := by
  unfold execRingEntryComplete; refine next_ok ?_; repeat' first
    | with_reducible assumption | with_reducible apply State.ringAsk_ok | with_reducible apply State.nextEntry_ok
    | with_reducible apply State.setSeq_ok | with_reducible apply State.deviceWrite_ok
    | with_reducible apply State.raise_ok | with_reducible apply State.wr_ok | with_reducible apply ite_ok
    | with_reducible apply elim_ok | (with_reducible refine foldl_ok (fun _ _ _ => ?_) _ ?_) | intro _
    | (simp only [↓mk_ok_iff]; with_reducible refine MemOk.parts ?_) | split | dsimp only
theorem execCpEnable_ok {s : State} {a0} {a1} {a2} (h : MemOk s) : OutOk (execCpEnable a0 a1 a2 s) := by
  unfold execCpEnable; refine next_ok ?_; repeat' first
    | with_reducible assumption | with_reducible apply State.cpCtlWrite_ok | with_reducible apply State.access_ok
    | with_reducible apply ite_ok | (with_reducible refine foldl_ok (fun _ _ _ => ?_) _ ?_) | intro _ | split
    | (with_reducible apply mk_ok) | (with_reducible apply MemOk.parts) | dsimp only
theorem execCpResume_ok {s : State} {a0} {a1} (h : MemOk s) : OutOk (execCpResume a0 a1 s) := by
  unfold execCpResume; refine next_ok ?_; repeat' first
    | with_reducible assumption | with_reducible apply State.cpCtlWrite_ok | with_reducible apply State.access_ok
    | with_reducible apply ite_ok | (with_reducible refine foldl_ok (fun _ _ _ => ?_) _ ?_) | intro _ | split
    | (with_reducible apply mk_ok) | (with_reducible apply MemOk.parts) | dsimp only
theorem execCpResumeSkip_ok {s : State} {a0} {a1} (h : MemOk s) : OutOk (execCpResumeSkip a0 a1 s) := by
  unfold execCpResumeSkip; refine next_ok ?_; repeat' first
    | with_reducible assumption | with_reducible apply State.cpCtlWrite_ok | with_reducible apply State.access_ok
    | with_reducible apply ite_ok | (with_reducible refine foldl_ok (fun _ _ _ => ?_) _ ?_) | intro _ | split
    | (with_reducible apply mk_ok) | (with_reducible apply MemOk.parts) | dsimp only
theorem execCpLinkResume_ok {s : State} {a0} (h : MemOk s) : OutOk (execCpLinkResume a0 s) := by
  unfold execCpLinkResume; refine next_ok ?_; repeat' first
    | with_reducible assumption | with_reducible apply State.pollAsk_ok | with_reducible apply State.ringAsk_ok
    | with_reducible apply State.setSeqState_ok | with_reducible apply State.setSeq_ok | with_reducible apply ite_ok
    | with_reducible apply elim_ok | (with_reducible refine foldl_ok (fun _ _ _ => ?_) _ ?_) | intro _
    | (simp only [↓mk_ok_iff]; with_reducible refine MemOk.parts ?_) | split | dsimp only
theorem execFsqStartPoint_ok {s : State} {a0} (h : MemOk s) : OutOk (execFsqStartPoint a0 s) := by
  unfold execFsqStartPoint; refine next_ok ?_; repeat' first
    | with_reducible assumption | with_reducible apply State.startRun_ok | with_reducible apply State.raise_ok
    | with_reducible apply State.fsat_ok | with_reducible apply State.fset_ok | with_reducible apply ite_ok
    | (with_reducible refine foldl_ok (fun _ _ _ => ?_) _ ?_) | intro _ | split | (with_reducible apply mk_ok)
    | (with_reducible apply MemOk.parts) | dsimp only
theorem execFsqEnable_ok {s : State} {a0} {a1} {a2} (h : MemOk s) : OutOk (execFsqEnable a0 a1 a2 s) := by
  unfold execFsqEnable; refine next_ok ?_; repeat' first
    | with_reducible assumption | with_reducible apply State.fsqCtlWrite_ok | with_reducible apply State.access_ok
    | with_reducible apply ite_ok | (with_reducible refine foldl_ok (fun _ _ _ => ?_) _ ?_) | intro _ | split
    | (with_reducible apply mk_ok) | (with_reducible apply MemOk.parts) | dsimp only
theorem execFsqRestart_ok {s : State} {a0} {a1} (h : MemOk s) : OutOk (execFsqRestart a0 a1 s) := by
  unfold execFsqRestart; refine next_ok ?_; repeat' first
    | with_reducible assumption | with_reducible apply State.fsqCtlWrite_ok | with_reducible apply State.access_ok
    | with_reducible apply ite_ok | (with_reducible refine foldl_ok (fun _ _ _ => ?_) _ ?_) | intro _ | split
    | (with_reducible apply mk_ok) | (with_reducible apply MemOk.parts) | dsimp only
theorem execFsqEntryWrite_ok {s : State} {a0} {a1} {a2} {a3} (h : MemOk s) : OutOk (execFsqEntryWrite a0 a1 a2 a3 s) := by
  unfold execFsqEntryWrite; refine next_ok ?_; repeat' first
    | with_reducible assumption | with_reducible apply State.fsqEntryWrite_ok | with_reducible apply State.access_ok
    | with_reducible apply ite_ok | (with_reducible refine foldl_ok (fun _ _ _ => ?_) _ ?_) | intro _ | split
    | (with_reducible apply mk_ok) | (with_reducible apply MemOk.parts) | dsimp only
theorem execCheck_ok {s : State} {a0} (h : MemOk s) : OutOk (execCheck a0 s) := by
  unfold execCheck; refine next_ok ?_; repeat' first
    | with_reducible assumption | with_reducible apply State.commitInstr_ok | with_reducible apply State.issue_ok
    | with_reducible apply ite_ok | (with_reducible refine foldl_ok (fun _ _ _ => ?_) _ ?_) | intro _ | split
    | (with_reducible apply mk_ok) | (with_reducible apply MemOk.parts) | dsimp only
theorem execCommit_ok {s : State} {a0} (h : MemOk s) : OutOk (execCommit a0 s) := by
  unfold execCommit; refine next_ok ?_; repeat' first
    | with_reducible assumption | with_reducible apply State.commitInstr_ok | with_reducible apply State.issue_ok
    | with_reducible apply ite_ok | (with_reducible refine foldl_ok (fun _ _ _ => ?_) _ ?_) | intro _ | split
    | (with_reducible apply mk_ok) | (with_reducible apply MemOk.parts) | dsimp only
theorem execCommitResult_ok {s : State} {a0} (h : MemOk s) : OutOk (execCommitResult a0 s) := by
  unfold execCommitResult; refine next_ok ?_; repeat' first
    | with_reducible assumption | with_reducible apply State.told_ok | with_reducible apply State.resume_ok
    | with_reducible apply State.deviceWrite_ok | with_reducible apply State.raise_ok | with_reducible apply ite_ok
    | with_reducible apply elim_ok | (with_reducible refine foldl_ok (fun _ _ _ => ?_) _ ?_) | intro _
    | (simp only [↓mk_ok_iff]; with_reducible refine MemOk.parts ?_) | split | dsimp only
theorem execAbort_ok {s : State} {a0} (h : MemOk s) : OutOk (execAbort a0 s) := by
  unfold execAbort; refine next_ok ?_; repeat' first
    | with_reducible assumption | with_reducible apply State.issue_ok | with_reducible apply State.seqFault_ok
    | with_reducible apply State.setSeqState_ok | with_reducible apply State.setSeq_ok | with_reducible apply ite_ok
    | (with_reducible refine foldl_ok (fun _ _ _ => ?_) _ ?_) | intro _ | split | (with_reducible apply mk_ok)
    | (with_reducible apply MemOk.parts) | dsimp only
theorem execAbortCopy_ok {s : State} {a0} (h : MemOk s) : OutOk (execAbortCopy a0 s) := by
  unfold execAbortCopy; refine next_ok ?_; repeat' first
    | with_reducible assumption | with_reducible apply State.resume_ok | with_reducible apply ite_ok
    | (with_reducible refine foldl_ok (fun _ _ _ => ?_) _ ?_) | intro _ | split | (with_reducible apply mk_ok)
    | (with_reducible apply MemOk.parts) | dsimp only
theorem execBenchEnWrite_ok {s : State} {a0} (h : MemOk s) : OutOk (execBenchEnWrite a0 s) := by
  unfold execBenchEnWrite; refine next_ok ?_; repeat' first
    | with_reducible assumption | with_reducible apply State.benchEn_ok | with_reducible apply State.access_ok
    | with_reducible apply ite_ok | (with_reducible refine foldl_ok (fun _ _ _ => ?_) _ ?_) | intro _ | split
    | (with_reducible apply mk_ok) | (with_reducible apply MemOk.parts) | dsimp only
theorem execBenchCommit_ok {s : State} {a0} (h : MemOk s) : OutOk (execBenchCommit a0 s) := by
  unfold execBenchCommit; refine next_ok ?_; repeat' first
    | with_reducible assumption | with_reducible apply State.benchCommit_ok | with_reducible apply State.access_ok
    | with_reducible apply ite_ok | (with_reducible refine foldl_ok (fun _ _ _ => ?_) _ ?_) | intro _ | split
    | (with_reducible apply mk_ok) | (with_reducible apply MemOk.parts) | dsimp only
theorem execBenchResult_ok {s : State} {a0} (h : MemOk s) : OutOk (execBenchResult a0 s) := by
  unfold execBenchResult; refine next_ok ?_; repeat' first
    | with_reducible assumption | with_reducible apply State.told_ok | with_reducible apply State.fset_ok
    | with_reducible apply ite_ok | (with_reducible refine foldl_ok (fun _ _ _ => ?_) _ ?_) | intro _ | split
    | (with_reducible apply mk_ok) | (with_reducible apply MemOk.parts) | dsimp only
theorem execEphArrival_ok {s : State} {a0} (h : MemOk s) : OutOk (execEphArrival a0 s) := by
  unfold execEphArrival; refine next_ok ?_; repeat' first
    | with_reducible assumption | with_reducible apply State.ephQueue_ok | with_reducible apply State.putCommit_ok
    | with_reducible apply ite_ok | (with_reducible refine foldl_ok (fun _ _ _ => ?_) _ ?_) | intro _ | split
    | (with_reducible apply mk_ok) | (with_reducible apply MemOk.parts) | dsimp only
theorem execEphEvalStart_ok {s : State} {a0} (h : MemOk s) : OutOk (execEphEvalStart a0 s) := by
  unfold execEphEvalStart
  refine next_ok ?_
  split
  · exact ite_ok h (State.ephQueue_ok (State.putCommit_ok (foldl_ok (fun _ _ hs => State.uncorrectable_ok hs) _ h)))
  · exact h
theorem execEphVerdict_ok {s : State} {a0} (h : MemOk s) : OutOk (execEphVerdict a0 s) := by
  unfold execEphVerdict; refine next_ok ?_; repeat' first
    | with_reducible assumption | with_reducible apply State.ltrCheck_ok | with_reducible apply State.showHeld_ok
    | with_reducible apply State.ephQueue_ok | with_reducible apply State.putCommit_ok
    | with_reducible apply State.touchMem_ok | with_reducible apply State.draw_ok | with_reducible apply State.fset_ok
    | with_reducible apply ite_ok | with_reducible apply elim_ok
    | (with_reducible refine foldl_ok (fun _ _ _ => ?_) _ ?_) | intro _
    | (simp only [↓mk_ok_iff]; with_reducible refine MemOk.parts ?_) | split | dsimp only
theorem execGcBucketRefill_ok {s : State} (h : MemOk s) : OutOk (execGcBucketRefill s) := by
  unfold execGcBucketRefill; refine next_ok ?_; repeat' first
    | with_reducible assumption | with_reducible apply State.gcRefill_ok | with_reducible apply ite_ok
    | with_reducible apply elim_ok | (with_reducible refine foldl_ok (fun _ _ _ => ?_) _ ?_) | intro _
    | (simp only [↓mk_ok_iff]; with_reducible refine MemOk.parts ?_) | split | dsimp only
theorem execCdEnable_ok {s : State} {a0} {a1} (h : MemOk s) : OutOk (execCdEnable a0 a1 s) := by
  unfold execCdEnable; refine next_ok ?_; repeat' first
    | with_reducible assumption | with_reducible apply State.cdCtlWrite_ok | with_reducible apply State.access_ok
    | with_reducible apply ite_ok | (with_reducible refine foldl_ok (fun _ _ _ => ?_) _ ?_) | intro _ | split
    | (with_reducible apply mk_ok) | (with_reducible apply MemOk.parts) | dsimp only
theorem execApply_ok {s : State} {a0} (h : MemOk s) : OutOk (execApply a0 s) := by
  unfold execApply; refine next_ok ?_; repeat' first
    | with_reducible assumption | with_reducible apply State.cdCtlWrite_ok | with_reducible apply State.access_ok
    | with_reducible apply ite_ok | (with_reducible refine foldl_ok (fun _ _ _ => ?_) _ ?_) | intro _ | split
    | (with_reducible apply mk_ok) | (with_reducible apply MemOk.parts) | dsimp only
theorem execRelock_ok {s : State} {a0} (h : MemOk s) : OutOk (execRelock a0 s) := by
  unfold execRelock; refine next_ok ?_; repeat' first
    | with_reducible assumption | with_reducible apply State.cdCtlWrite_ok | with_reducible apply State.access_ok
    | with_reducible apply ite_ok | (with_reducible refine foldl_ok (fun _ _ _ => ?_) _ ?_) | intro _ | split
    | (with_reducible apply mk_ok) | (with_reducible apply MemOk.parts) | dsimp only
theorem execReacquire_ok {s : State} {a0} (h : MemOk s) : OutOk (execReacquire a0 s) := by
  unfold execReacquire; refine next_ok ?_; repeat' first
    | with_reducible assumption | with_reducible apply State.cdCtlWrite_ok | with_reducible apply State.access_ok
    | with_reducible apply ite_ok | (with_reducible refine foldl_ok (fun _ _ _ => ?_) _ ?_) | intro _ | split
    | (with_reducible apply mk_ok) | (with_reducible apply MemOk.parts) | dsimp only
theorem execCdLockDeclare_ok {s : State} {a0} (h : MemOk s) : OutOk (execCdLockDeclare a0 s) := by
  unfold execCdLockDeclare; refine next_ok ?_; repeat' first
    | with_reducible assumption | with_reducible apply State.lockDeclared_ok | with_reducible apply State.setDrive_ok
    | with_reducible apply State.fset_ok | with_reducible apply ite_ok | with_reducible apply elim_ok
    | (with_reducible refine foldl_ok (fun _ _ _ => ?_) _ ?_) | intro _
    | (simp only [↓mk_ok_iff]; with_reducible refine MemOk.parts ?_) | split | dsimp only
theorem execCdLockLoss_ok {s : State} {a0} (h : MemOk s) : OutOk (execCdLockLoss a0 s) := by
  unfold execCdLockLoss; refine next_ok ?_; repeat' first
    | with_reducible assumption | with_reducible apply State.relock_ok | with_reducible apply State.raise_ok
    | with_reducible apply State.fset_ok | with_reducible apply ite_ok | with_reducible apply elim_ok
    | (with_reducible refine foldl_ok (fun _ _ _ => ?_) _ ?_) | intro _
    | (simp only [↓mk_ok_iff]; with_reducible refine MemOk.parts ?_) | split | dsimp only
theorem execCdRelockTimeout_ok {s : State} {a0} (h : MemOk s) : OutOk (execCdRelockTimeout a0 s) := by
  unfold execCdRelockTimeout; refine next_ok ?_; repeat' first
    | with_reducible assumption | with_reducible apply State.spareSoon_ok | with_reducible apply State.setCdState_ok
    | with_reducible apply State.setDrive_ok | with_reducible apply State.raise_ok | with_reducible apply State.fset_ok
    | with_reducible apply ite_ok | with_reducible apply elim_ok
    | (with_reducible refine foldl_ok (fun _ _ _ => ?_) _ ?_) | intro _
    | (simp only [↓mk_ok_iff]; with_reducible refine MemOk.parts ?_) | split | dsimp only
theorem execCdProfileGo_ok {s : State} {a0} {a1} {a2} (h : MemOk s) : OutOk (execCdProfileGo a0 a1 a2 s) := by
  unfold execCdProfileGo; refine next_ok ?_; repeat' first
    | with_reducible assumption | with_reducible apply State.profWrite_ok | with_reducible apply State.access_ok
    | with_reducible apply ite_ok | (with_reducible refine foldl_ok (fun _ _ _ => ?_) _ ?_) | intro _ | split
    | (with_reducible apply mk_ok) | (with_reducible apply MemOk.parts) | dsimp only
theorem execCdProfileStop_ok {s : State} {a0} (h : MemOk s) : OutOk (execCdProfileStop a0 s) := by
  unfold execCdProfileStop; refine next_ok ?_; repeat' first
    | with_reducible assumption | with_reducible apply State.profWrite_ok | with_reducible apply State.access_ok
    | with_reducible apply ite_ok | (with_reducible refine foldl_ok (fun _ _ _ => ?_) _ ?_) | intro _ | split
    | (with_reducible apply mk_ok) | (with_reducible apply MemOk.parts) | dsimp only
theorem execCdSegmentEnd_ok {s : State} {a0} (h : MemOk s) : OutOk (execCdSegmentEnd a0 s) := by
  unfold execCdSegmentEnd; refine next_ok ?_; repeat' first
    | with_reducible assumption | with_reducible apply State.enterSegment_ok | with_reducible apply State.setDrive_ok
    | with_reducible apply State.fset_ok | with_reducible apply ite_ok
    | (with_reducible refine foldl_ok (fun _ _ _ => ?_) _ ?_) | intro _ | split | (with_reducible apply mk_ok)
    | (with_reducible apply MemOk.parts) | dsimp only
theorem execRefValid_ok {s : State} {a0} {a1} (h : MemOk s) : OutOk (execRefValid a0 a1 s) := by
  unfold execRefValid; refine next_ok ?_; repeat' first
    | with_reducible assumption | with_reducible apply State.refReturns_ok | with_reducible apply State.raise_ok
    | with_reducible apply ite_ok | with_reducible apply elim_ok
    | (with_reducible refine foldl_ok (fun _ _ _ => ?_) _ ?_) | intro _
    | (simp only [↓mk_ok_iff]; with_reducible refine MemOk.parts ?_) | split | dsimp only
theorem execRefLoss_ok {s : State} {a0} (h : MemOk s) : OutOk (execRefLoss a0 s) := by
  unfold execRefLoss; refine next_ok ?_; repeat' first
    | with_reducible assumption | with_reducible apply State.refLost_ok | with_reducible apply State.raise_ok
    | with_reducible apply ite_ok | with_reducible apply elim_ok
    | (with_reducible refine foldl_ok (fun _ _ _ => ?_) _ ?_) | intro _
    | (simp only [↓mk_ok_iff]; with_reducible refine MemOk.parts ?_) | split | dsimp only
theorem execRefPulse_ok {s : State} {a0} (h : MemOk s) : OutOk (execRefPulse a0 s) := by
  unfold execRefPulse; refine next_ok ?_; repeat' first
    | with_reducible assumption | with_reducible apply State.measure_ok | with_reducible apply ite_ok
    | with_reducible apply elim_ok | (with_reducible refine foldl_ok (fun _ _ _ => ?_) _ ?_) | intro _
    | (simp only [↓mk_ok_iff]; with_reducible refine MemOk.parts ?_) | split | dsimp only
theorem execCdSpareReq_ok {s : State} {a0} (h : MemOk s) : OutOk (execCdSpareReq a0 s) := by
  unfold execCdSpareReq; refine next_ok ?_; repeat' first
    | with_reducible assumption | with_reducible apply State.spareReq_ok | with_reducible apply State.access_ok
    | with_reducible apply ite_ok | (with_reducible refine foldl_ok (fun _ _ _ => ?_) _ ?_) | intro _ | split
    | (with_reducible apply mk_ok) | (with_reducible apply MemOk.parts) | dsimp only
theorem execCdSpareSwitch_ok {s : State} (h : MemOk s) : OutOk (execCdSpareSwitch s) := by
  unfold execCdSpareSwitch; refine next_ok ?_; repeat' first
    | with_reducible assumption | with_reducible apply State.lockDeclared_ok | with_reducible apply State.setDrive_ok
    | with_reducible apply State.raise_ok | with_reducible apply State.fset_ok | with_reducible apply ite_ok
    | with_reducible apply elim_ok | (with_reducible refine foldl_ok (fun _ _ _ => ?_) _ ?_) | intro _
    | (simp only [↓mk_ok_iff]; with_reducible refine MemOk.parts ?_) | split | dsimp only
theorem execCdOutCtlWrite_ok {s : State} {a0} {a1} (h : MemOk s) : OutOk (execCdOutCtlWrite a0 a1 s) := by
  unfold execCdOutCtlWrite; refine next_ok ?_; repeat' first
    | with_reducible assumption | with_reducible apply State.outCtlWrite_ok | with_reducible apply State.access_ok
    | with_reducible apply ite_ok | (with_reducible refine foldl_ok (fun _ _ _ => ?_) _ ?_) | intro _ | split
    | (with_reducible apply mk_ok) | (with_reducible apply MemOk.parts) | dsimp only
theorem execSidSet_ok {s : State} {a0} (h : MemOk s) : OutOk (execSidSet a0 s) := by
  unfold execSidSet; refine next_ok ?_; repeat' first
    | with_reducible assumption | with_reducible apply State.sidSet_ok | with_reducible apply State.access_ok
    | with_reducible apply ite_ok | (with_reducible refine foldl_ok (fun _ _ _ => ?_) _ ?_) | intro _ | split
    | (with_reducible apply mk_ok) | (with_reducible apply MemOk.parts) | dsimp only
theorem execPtmUpdate_ok {s : State} {a0} (h : MemOk s) : OutOk (execPtmUpdate a0 s) := by
  unfold execPtmUpdate; refine next_ok ?_; repeat' first
    | with_reducible assumption | with_reducible apply State.draw_ok | with_reducible apply State.fset_ok
    | with_reducible apply State.wr_ok | with_reducible apply ite_ok
    | (with_reducible refine foldl_ok (fun _ _ _ => ?_) _ ?_) | intro _ | split | (with_reducible apply mk_ok)
    | (with_reducible apply MemOk.parts) | dsimp only
theorem execSidAlarmEnable_ok {s : State} {a0} {a1} (h : MemOk s) : OutOk (execSidAlarmEnable a0 a1 s) := by
  unfold execSidAlarmEnable; refine next_ok ?_; repeat' first
    | with_reducible assumption | with_reducible apply State.alarmCtl_ok | with_reducible apply State.access_ok
    | with_reducible apply ite_ok | (with_reducible refine foldl_ok (fun _ _ _ => ?_) _ ?_) | intro _ | split
    | (with_reducible apply mk_ok) | (with_reducible apply MemOk.parts) | dsimp only
theorem execSidAlarmFire_ok {s : State} {a0} (h : MemOk s) : OutOk (execSidAlarmFire a0 s) := by
  unfold execSidAlarmFire; refine next_ok ?_; repeat' first
    | with_reducible assumption | with_reducible apply State.alarmFire_ok | with_reducible apply ite_ok
    | (with_reducible refine foldl_ok (fun _ _ _ => ?_) _ ?_) | intro _ | split | (with_reducible apply mk_ok)
    | (with_reducible apply MemOk.parts) | dsimp only
theorem execApertureRefill_ok {s : State} (h : MemOk s) : OutOk (execApertureRefill s) := by
  unfold execApertureRefill; refine next_ok ?_; repeat' first
    | with_reducible assumption | with_reducible apply State.refillPipe_ok | with_reducible apply ite_ok
    | with_reducible apply elim_ok | (with_reducible refine foldl_ok (fun _ _ _ => ?_) _ ?_) | intro _
    | (simp only [↓mk_ok_iff]; with_reducible refine MemOk.parts ?_) | split | dsimp only
theorem execFetchGrant_ok {s : State} {a0} (h : MemOk s) : OutOk (execFetchGrant a0 s) := by
  unfold execFetchGrant; refine next_ok ?_; repeat' first
    | with_reducible assumption | with_reducible apply State.makeSwitches_ok | with_reducible apply State.refillPipe_ok
    | with_reducible apply State.grantFrom_ok | with_reducible apply ite_ok | with_reducible apply elim_ok
    | (with_reducible refine foldl_ok (fun _ _ _ => ?_) _ ?_) | intro _
    | (simp only [↓mk_ok_iff]; with_reducible refine MemOk.parts ?_) | split | dsimp only
theorem execTagIssue_ok {s : State} {a0} (h : MemOk s) : OutOk (execTagIssue a0 s) := by
  unfold execTagIssue; refine next_ok ?_; repeat' first
    | with_reducible assumption | with_reducible apply ite_ok | (with_reducible refine foldl_ok (fun _ _ _ => ?_) _ ?_)
    | intro _ | split | (with_reducible apply mk_ok) | (with_reducible apply MemOk.parts) | dsimp only
theorem execMcServeRequest_ok {s : State} {a0} {a1} {a2} {a3} (h : MemOk s) : OutOk (execMcServeRequest a0 a1 a2 a3 s) := by
  unfold execMcServeRequest; refine next_ok ?_; repeat' first
    | with_reducible assumption | with_reducible apply State.mcServe_ok | with_reducible apply State.openRow_ok
    | with_reducible apply State.scanServe_ok | with_reducible apply ite_ok | with_reducible apply elim_ok
    | (with_reducible refine foldl_ok (fun _ _ _ => ?_) _ ?_) | intro _
    | (simp only [↓mk_ok_iff]; with_reducible refine MemOk.parts ?_) | split | dsimp only
theorem execSchedUrgent_ok {s : State} {a0} (h : MemOk s) : OutOk (execSchedUrgent a0 s) := by
  unfold execSchedUrgent; refine next_ok ?_; repeat' first
    | with_reducible assumption | with_reducible apply ite_ok | (with_reducible refine foldl_ok (fun _ _ _ => ?_) _ ?_)
    | intro _ | split | (with_reducible apply mk_ok) | (with_reducible apply MemOk.parts) | dsimp only
theorem execFetchDataReturn_ok {s : State} {a0} {a1} (h : MemOk s) : OutOk (execFetchDataReturn a0 a1 s) := by
  unfold execFetchDataReturn; refine next_ok ?_; repeat' first
    | with_reducible assumption | with_reducible apply State.updWord_ok | with_reducible apply State.checkTiles_ok
    | with_reducible apply State.dropTag_ok | with_reducible apply State.crossingLoss_ok | with_reducible apply ite_ok
    | with_reducible apply elim_ok | (with_reducible refine foldl_ok (fun _ _ _ => ?_) _ ?_) | intro _
    | (simp only [↓mk_ok_iff]; with_reducible refine MemOk.parts ?_) | split | dsimp only
theorem execLandingWriteDone_ok {s : State} {a0} (h : MemOk s) : OutOk (execLandingWriteDone a0 s) := by
  unfold execLandingWriteDone; refine next_ok ?_; repeat' first
    | with_reducible assumption | with_reducible apply State.updWord_ok | with_reducible apply State.dropTag_ok
    | with_reducible apply State.platePut_ok | with_reducible apply ite_ok | with_reducible apply elim_ok
    | (with_reducible refine foldl_ok (fun _ _ _ => ?_) _ ?_) | intro _
    | (simp only [↓mk_ok_iff]; with_reducible refine MemOk.parts ?_) | split | dsimp only
theorem execHostReadSend_ok {s : State} (h : MemOk s) : OutOk (execHostReadSend s) := by
  unfold execHostReadSend; refine next_ok ?_; repeat' first
    | with_reducible assumption | with_reducible apply State.send_ok | with_reducible apply ite_ok
    | (with_reducible refine foldl_ok (fun _ _ _ => ?_) _ ?_) | intro _ | split | (with_reducible apply mk_ok)
    | (with_reducible apply MemOk.parts) | dsimp only
theorem execHostReadCompletion_ok {s : State} {a0} {a1} (h : MemOk s) : OutOk (execHostReadCompletion a0 a1 s) := by
  unfold execHostReadCompletion; refine next_ok ?_; repeat' first
    | with_reducible assumption | with_reducible apply State.hostReadError_ok | with_reducible apply State.aerLog_ok
    | with_reducible apply ite_ok | (with_reducible refine foldl_ok (fun _ _ _ => ?_) _ ?_) | intro _ | split
    | (with_reducible apply mk_ok) | (with_reducible apply MemOk.parts) | dsimp only
theorem execPipeConsumeWord_ok {s : State} {a0} {a1} {a2} {a3} {a4} (h : MemOk s) :
    OutOk (execPipeConsumeWord a0 a1 a2 a3 a4 s) := by
  unfold execPipeConsumeWord; refine next_ok ?_; repeat' first
    | with_reducible assumption | with_reducible apply State.consumeWord_ok | with_reducible apply ite_ok
    | with_reducible apply elim_ok | (with_reducible refine foldl_ok (fun _ _ _ => ?_) _ ?_) | intro _
    | (simp only [↓mk_ok_iff]; with_reducible refine MemOk.parts ?_) | split | dsimp only
theorem execPmapEntryWrite_ok {s : State} {a0} {a1} {a2} (h : MemOk s) : OutOk (execPmapEntryWrite a0 a1 a2 s) := by
  unfold execPmapEntryWrite; refine next_ok ?_; repeat' first
    | with_reducible assumption | with_reducible apply State.pmapWrite_ok | with_reducible apply State.access_ok
    | with_reducible apply ite_ok | (with_reducible refine foldl_ok (fun _ _ _ => ?_) _ ?_) | intro _ | split
    | (with_reducible apply mk_ok) | (with_reducible apply MemOk.parts) | dsimp only
theorem execPmapEntryRead_ok {s : State} {a0} {a1} (h : MemOk s) : OutOk (execPmapEntryRead a0 a1 s) := by
  unfold execPmapEntryRead; refine next_ok ?_; repeat' first
    | with_reducible assumption | with_reducible apply State.send_ok | with_reducible apply ite_ok
    | (with_reducible refine foldl_ok (fun _ _ _ => ?_) _ ?_) | intro _ | split | (with_reducible apply mk_ok)
    | (with_reducible apply MemOk.parts) | dsimp only
theorem execMcRefresh_ok {s : State} {a0} {a1} (h : MemOk s) : OutOk (execMcRefresh a0 a1 s) := by
  unfold execMcRefresh; refine next_ok ?_; repeat' first
    | with_reducible assumption | with_reducible apply ite_ok | (with_reducible refine foldl_ok (fun _ _ _ => ?_) _ ?_)
    | intro _ | split | (with_reducible apply mk_ok) | (with_reducible apply MemOk.parts) | dsimp only
theorem execMcEmergencyRetrain_ok {s : State} {a0} {a1} (h : MemOk s) : OutOk (execMcEmergencyRetrain a0 a1 s) := by
  unfold execMcEmergencyRetrain; refine next_ok ?_; repeat' first
    | with_reducible assumption | with_reducible apply ite_ok | (with_reducible refine foldl_ok (fun _ _ _ => ?_) _ ?_)
    | intro _ | split | (with_reducible apply mk_ok) | (with_reducible apply MemOk.parts) | dsimp only
theorem execRetireReqWrite_ok {s : State} {a0} (h : MemOk s) : OutOk (execRetireReqWrite a0 s) := by
  unfold execRetireReqWrite; refine next_ok ?_; repeat' first
    | with_reducible assumption | with_reducible apply State.retireReq_ok | with_reducible apply State.access_ok
    | with_reducible apply ite_ok | (with_reducible refine foldl_ok (fun _ _ _ => ?_) _ ?_) | intro _ | split
    | (with_reducible apply mk_ok) | (with_reducible apply MemOk.parts) | dsimp only
theorem execRetireStart_ok {s : State} (h : MemOk s) : OutOk (execRetireStart s) := by
  unfold execRetireStart; refine next_ok ?_; repeat' first
    | with_reducible assumption | with_reducible apply State.raise_ok | with_reducible apply State.fset_ok
    | with_reducible apply ite_ok | (with_reducible refine foldl_ok (fun _ _ _ => ?_) _ ?_) | intro _ | split
    | (with_reducible apply mk_ok) | (with_reducible apply MemOk.parts) | dsimp only
theorem execRetireCopyDone_ok {s : State} (h : MemOk s) : OutOk (execRetireCopyDone s) := by
  unfold execRetireCopyDone
  refine next_ok ?_
  split
  · have k : ∀ l : List Nat, MemOk (l.foldl State.uncorrectable s) := fun l =>
      foldl_ok (fun _ _ hs => State.uncorrectable_ok hs) _ h
    exact ite_ok h (State.fset_ok (State.wr_ok (State.fset_ok (mk_ok ⟨memWrite_wf (k _).1 _ _, (k _).2⟩))))
  · exact h
theorem execRetireComplete_ok {s : State} (h : MemOk s) : OutOk (execRetireComplete s) := by
  unfold execRetireComplete; refine next_ok ?_; repeat' first
    | with_reducible assumption | with_reducible apply State.raise_ok | with_reducible apply State.fset_ok
    | with_reducible apply ite_ok | (with_reducible refine foldl_ok (fun _ _ _ => ?_) _ ?_) | intro _ | split
    | (with_reducible apply mk_ok) | (with_reducible apply MemOk.parts) | dsimp only
theorem execEventOccurrence_ok {s : State} {a0} (h : MemOk s) : OutOk (execEventOccurrence a0 s) := by
  unfold execEventOccurrence; refine next_ok ?_; repeat' first
    | with_reducible assumption | with_reducible apply State.arrive_ok | with_reducible apply ite_ok
    | with_reducible apply elim_ok | (with_reducible refine foldl_ok (fun _ _ _ => ?_) _ ?_) | intro _
    | (simp only [↓mk_ok_iff]; with_reducible refine MemOk.parts ?_) | split | dsimp only
theorem execHostWakeSignal_ok {s : State} {a0} (h : MemOk s) : OutOk (execHostWakeSignal a0 s) := by
  unfold execHostWakeSignal; refine next_ok ?_; repeat' first
    | with_reducible assumption | with_reducible apply State.raise_ok | with_reducible apply ite_ok
    | (with_reducible refine foldl_ok (fun _ _ _ => ?_) _ ?_) | intro _ | split | (with_reducible apply mk_ok)
    | (with_reducible apply MemOk.parts) | dsimp only
theorem execGpioEdge_ok {s : State} {a0} {a1} (h : MemOk s) : OutOk (execGpioEdge a0 a1 s) := by
  unfold execGpioEdge; refine next_ok ?_; repeat' first
    | with_reducible assumption | with_reducible apply State.raise_ok | with_reducible apply ite_ok
    | (with_reducible refine foldl_ok (fun _ _ _ => ?_) _ ?_) | intro _ | split | (with_reducible apply mk_ok)
    | (with_reducible apply MemOk.parts) | dsimp only
theorem execMsixLaunch_ok {s : State} (h : MemOk s) : OutOk (execMsixLaunch s) := by
  unfold execMsixLaunch; refine next_ok ?_; repeat' first
    | with_reducible assumption | with_reducible apply State.launch_ok | with_reducible apply ite_ok
    | (with_reducible refine foldl_ok (fun _ _ _ => ?_) _ ?_) | intro _ | split | (with_reducible apply mk_ok)
    | (with_reducible apply MemOk.parts) | dsimp only
theorem execModIntervalEnd_ok {s : State} {a0} (h : MemOk s) : OutOk (execModIntervalEnd a0 s) := by
  unfold execModIntervalEnd; refine next_ok ?_; repeat' first
    | with_reducible assumption | with_reducible apply State.fset_ok | with_reducible apply ite_ok
    | (with_reducible refine foldl_ok (fun _ _ _ => ?_) _ ?_) | intro _ | split | (with_reducible apply mk_ok)
    | (with_reducible apply MemOk.parts) | dsimp only
theorem execStationHandlerEntry_ok {s : State} {a0} (h : MemOk s) : OutOk (execStationHandlerEntry a0 s) := by
  unfold execStationHandlerEntry; refine next_ok ?_; repeat' first
    | with_reducible assumption | with_reducible apply State.unpend_ok | with_reducible apply State.fset_ok
    | with_reducible apply ite_ok | (with_reducible refine foldl_ok (fun _ _ _ => ?_) _ ?_) | intro _ | split
    | (with_reducible apply mk_ok) | (with_reducible apply MemOk.parts) | dsimp only
theorem execStationHandlerReturn_ok {s : State} {a0} {a1} (h : MemOk s) : OutOk (execStationHandlerReturn a0 a1 s) := by
  unfold execStationHandlerReturn; refine next_ok ?_; repeat' first
    | with_reducible assumption | with_reducible apply State.fset_ok | with_reducible apply ite_ok
    | (with_reducible refine foldl_ok (fun _ _ _ => ?_) _ ?_) | intro _ | split | (with_reducible apply mk_ok)
    | (with_reducible apply MemOk.parts) | dsimp only
theorem execEvcSrcCfgWrite_ok {s : State} {a0} {a1} {a2} (h : MemOk s) : OutOk (execEvcSrcCfgWrite a0 a1 a2 s) := by
  unfold execEvcSrcCfgWrite; refine next_ok ?_; repeat' first
    | with_reducible assumption | with_reducible apply State.srcCfgWrite_ok | with_reducible apply State.access_ok
    | with_reducible apply ite_ok | (with_reducible refine foldl_ok (fun _ _ _ => ?_) _ ?_) | intro _ | split
    | (with_reducible apply mk_ok) | (with_reducible apply MemOk.parts) | dsimp only
theorem execEvcFnIdleWrite_ok {s : State} {a0} {a1} {a2} (h : MemOk s) : OutOk (execEvcFnIdleWrite a0 a1 a2 s) := by
  unfold execEvcFnIdleWrite; refine next_ok ?_; repeat' first
    | with_reducible assumption | with_reducible apply State.fnIdleWrite_ok | with_reducible apply State.access_ok
    | with_reducible apply ite_ok | (with_reducible refine foldl_ok (fun _ _ _ => ?_) _ ?_) | intro _ | split
    | (with_reducible apply mk_ok) | (with_reducible apply MemOk.parts) | dsimp only
theorem execMsixTableWrite_ok {s : State} {a0} {a1} {a2} {a3} (h : MemOk s) : OutOk (execMsixTableWrite a0 a1 a2 a3 s) := by
  unfold execMsixTableWrite; refine next_ok ?_; repeat' first
    | with_reducible assumption | with_reducible apply State.msixWrite_ok | with_reducible apply State.access_ok
    | with_reducible apply ite_ok | (with_reducible refine foldl_ok (fun _ _ _ => ?_) _ ?_) | intro _ | split
    | (with_reducible apply mk_ok) | (with_reducible apply MemOk.parts) | dsimp only
theorem execEventHoldTimeout_ok {s : State} {a0} (h : MemOk s) : OutOk (execEventHoldTimeout a0 s) := by
  unfold execEventHoldTimeout; refine next_ok ?_; repeat' first
    | with_reducible assumption | with_reducible apply State.holdCheck_ok | with_reducible apply ite_ok
    | (with_reducible refine foldl_ok (fun _ _ _ => ?_) _ ?_) | intro _ | split | (with_reducible apply mk_ok)
    | (with_reducible apply MemOk.parts) | dsimp only
theorem execAonWatchWrite_ok {s : State} {a0} {a1} (h : MemOk s) : OutOk (execAonWatchWrite a0 a1 s) := by
  unfold execAonWatchWrite; refine next_ok ?_; repeat' first
    | with_reducible assumption | with_reducible apply State.watchWrite_ok | with_reducible apply State.access_ok
    | with_reducible apply ite_ok | (with_reducible refine foldl_ok (fun _ _ _ => ?_) _ ?_) | intro _ | split
    | (with_reducible apply mk_ok) | (with_reducible apply MemOk.parts) | dsimp only
theorem execFinderWake_ok {s : State} {a0} (h : MemOk s) : OutOk (execFinderWake a0 s) := by
  unfold execFinderWake; refine next_ok ?_; repeat' first
    | with_reducible assumption | with_reducible apply State.finderWake_ok | with_reducible apply ite_ok
    | (with_reducible refine foldl_ok (fun _ _ _ => ?_) _ ?_) | intro _ | split | (with_reducible apply mk_ok)
    | (with_reducible apply MemOk.parts) | dsimp only
theorem execFinderHandover_ok {s : State} (h : MemOk s) : OutOk (execFinderHandover s) := by
  unfold execFinderHandover; refine next_ok ?_; repeat' first
    | with_reducible assumption | with_reducible apply State.arrive_ok | with_reducible apply ite_ok
    | with_reducible apply elim_ok | (with_reducible refine foldl_ok (fun _ _ _ => ?_) _ ?_) | intro _
    | (simp only [↓mk_ok_iff]; with_reducible refine MemOk.parts ?_) | split | dsimp only
theorem execTrainingAttemptStart_ok {s : State} {a0} {a1} {a2} {a3} (h : MemOk s) :
    OutOk (execTrainingAttemptStart a0 a1 a2 a3 s) := by
  unfold execTrainingAttemptStart; refine next_ok ?_; repeat' first
    | with_reducible assumption | with_reducible apply State.trainFail_ok | with_reducible apply State.auxNext_ok
    | with_reducible apply State.setPort_ok | with_reducible apply State.fset_ok | with_reducible apply ite_ok
    | with_reducible apply elim_ok | (with_reducible refine foldl_ok (fun _ _ _ => ?_) _ ?_) | intro _
    | (simp only [↓mk_ok_iff]; with_reducible refine MemOk.parts ?_) | split | dsimp only
theorem execTrainingAttemptEnd_ok {s : State} {a0} {a1} (h : MemOk s) : OutOk (execTrainingAttemptEnd a0 a1 s) := by
  unfold execTrainingAttemptEnd; refine next_ok ?_; repeat' first
    | with_reducible assumption | with_reducible apply State.askLinkStatus_ok | with_reducible apply State.trainFail_ok
    | with_reducible apply State.auxSettle_ok | with_reducible apply State.dropAttempt_ok
    | with_reducible apply State.setPort_ok | with_reducible apply State.setPortState_ok
    | with_reducible apply State.raise_ok | with_reducible apply State.fsat_ok | with_reducible apply State.fset_ok
    | with_reducible apply ite_ok | with_reducible apply elim_ok
    | (with_reducible refine foldl_ok (fun _ _ _ => ?_) _ ?_) | intro _
    | (simp only [↓mk_ok_iff]; with_reducible refine MemOk.parts ?_) | split | dsimp only
theorem execTrainRetryTimer_ok {s : State} {a0} (h : MemOk s) : OutOk (execTrainRetryTimer a0 s) := by
  unfold execTrainRetryTimer; refine next_ok ?_; repeat' first
    | with_reducible assumption | with_reducible apply State.train_ok | with_reducible apply State.setPort_ok
    | with_reducible apply ite_ok | (with_reducible refine foldl_ok (fun _ _ _ => ?_) _ ?_) | intro _ | split
    | (with_reducible apply mk_ok) | (with_reducible apply MemOk.parts) | dsimp only
theorem execPrtLinkCtlWrite_ok {s : State} {a0} {a1} {a2} (h : MemOk s) : OutOk (execPrtLinkCtlWrite a0 a1 a2 s) := by
  unfold execPrtLinkCtlWrite; refine next_ok ?_; repeat' first
    | with_reducible assumption | with_reducible apply State.linkCtlWrite_ok | with_reducible apply State.access_ok
    | with_reducible apply ite_ok | (with_reducible refine foldl_ok (fun _ _ _ => ?_) _ ?_) | intro _ | split
    | (with_reducible apply mk_ok) | (with_reducible apply MemOk.parts) | dsimp only
theorem execRetrain_ok {s : State} {a0} {a1} (h : MemOk s) : OutOk (execRetrain a0 a1 s) := by
  unfold execRetrain; refine next_ok ?_; repeat' first
    | with_reducible assumption | with_reducible apply State.linkCtlWrite_ok | with_reducible apply State.access_ok
    | with_reducible apply ite_ok | (with_reducible refine foldl_ok (fun _ _ _ => ?_) _ ?_) | intro _ | split
    | (with_reducible apply mk_ok) | (with_reducible apply MemOk.parts) | dsimp only
theorem execPrtManCtlWrite_ok {s : State} {a0} {a1} {a2} (h : MemOk s) : OutOk (execPrtManCtlWrite a0 a1 a2 s) := by
  unfold execPrtManCtlWrite; refine next_ok ?_; repeat' first
    | with_reducible assumption | with_reducible apply State.manCtlWrite_ok | with_reducible apply State.access_ok
    | with_reducible apply ite_ok | (with_reducible refine foldl_ok (fun _ _ _ => ?_) _ ?_) | intro _ | split
    | (with_reducible apply mk_ok) | (with_reducible apply MemOk.parts) | dsimp only
theorem execPrtQuadModeWrite_ok {s : State} {a0} {a1} (h : MemOk s) : OutOk (execPrtQuadModeWrite a0 a1 s) := by
  unfold execPrtQuadModeWrite; refine next_ok ?_; repeat' first
    | with_reducible assumption | with_reducible apply State.quadWrite_ok | with_reducible apply State.access_ok
    | with_reducible apply ite_ok | (with_reducible refine foldl_ok (fun _ _ _ => ?_) _ ?_) | intro _ | split
    | (with_reducible apply mk_ok) | (with_reducible apply MemOk.parts) | dsimp only
theorem execHpdFall_ok {s : State} {a0} (h : MemOk s) : OutOk (execHpdFall a0 s) := by
  unfold execHpdFall; refine next_ok ?_; repeat' first
    | with_reducible assumption | with_reducible apply State.setPort_ok | with_reducible apply State.fset_ok
    | with_reducible apply ite_ok | (with_reducible refine foldl_ok (fun _ _ _ => ?_) _ ?_) | intro _ | split
    | (with_reducible apply mk_ok) | (with_reducible apply MemOk.parts) | dsimp only
theorem execHpdRise_ok {s : State} {a0} (h : MemOk s) : OutOk (execHpdRise a0 s) := by
  unfold execHpdRise; refine next_ok ?_; repeat' first
    | with_reducible assumption | with_reducible apply State.askLinkStatus_ok | with_reducible apply State.setPort_ok
    | with_reducible apply State.raise_ok | with_reducible apply State.fsat_ok | with_reducible apply State.fset_ok
    | with_reducible apply ite_ok | (with_reducible refine foldl_ok (fun _ _ _ => ?_) _ ?_) | intro _ | split
    | (with_reducible apply mk_ok) | (with_reducible apply MemOk.parts) | dsimp only
theorem execHpdConnect_ok {s : State} {a0} (h : MemOk s) : OutOk (execHpdConnect a0 s) := by
  unfold execHpdConnect; refine next_ok ?_; repeat' first
    | with_reducible assumption | with_reducible apply State.trainAnew_ok | with_reducible apply State.setPortState_ok
    | with_reducible apply State.raise_ok | with_reducible apply State.fset_ok | with_reducible apply ite_ok
    | (with_reducible refine foldl_ok (fun _ _ _ => ?_) _ ?_) | intro _ | split | (with_reducible apply mk_ok)
    | (with_reducible apply MemOk.parts) | dsimp only
theorem execHpdDisconnect_ok {s : State} {a0} (h : MemOk s) : OutOk (execHpdDisconnect a0 s) := by
  unfold execHpdDisconnect; refine next_ok ?_; repeat' first
    | with_reducible assumption | with_reducible apply State.auxSettle_ok | with_reducible apply State.setPort_ok
    | with_reducible apply State.setPortState_ok | with_reducible apply State.raise_ok
    | with_reducible apply State.fset_ok | with_reducible apply ite_ok | with_reducible apply elim_ok
    | (with_reducible refine foldl_ok (fun _ _ _ => ?_) _ ?_) | intro _
    | (simp only [↓mk_ok_iff]; with_reducible refine MemOk.parts ?_) | split | dsimp only
theorem execAuxGo_ok {s : State} {a0} {a1} {a2} (h : MemOk s) : OutOk (execAuxGo a0 a1 a2 s) := by
  unfold execAuxGo; refine next_ok ?_; repeat' first
    | with_reducible assumption | with_reducible apply State.auxCmd_ok | with_reducible apply State.access_ok
    | with_reducible apply ite_ok | (with_reducible refine foldl_ok (fun _ _ _ => ?_) _ ?_) | intro _ | split
    | (with_reducible apply mk_ok) | (with_reducible apply MemOk.parts) | dsimp only
theorem execAuxReply_ok {s : State} {a0} {a1} {a2} {a3} {a4} (h : MemOk s) : OutOk (execAuxReply a0 a1 a2 a3 a4 s) := by
  unfold execAuxReply; refine next_ok ?_; repeat' first
    | with_reducible assumption | with_reducible apply State.auxNoReply_ok | with_reducible apply State.auxDone_ok
    | with_reducible apply State.trainAnew_ok | with_reducible apply State.auxFree_ok
    | with_reducible apply State.setPort_ok | with_reducible apply State.fset_ok | with_reducible apply State.wr_ok
    | with_reducible apply ite_ok | with_reducible apply elim_ok
    | (with_reducible refine foldl_ok (fun _ _ _ => ?_) _ ?_) | intro _
    | (simp only [↓mk_ok_iff]; with_reducible refine MemOk.parts ?_) | split | dsimp only
theorem execAuxTimeout_ok {s : State} {a0} (h : MemOk s) : OutOk (execAuxTimeout a0 s) := by
  unfold execAuxTimeout; refine next_ok ?_; repeat' first
    | with_reducible assumption | with_reducible apply State.auxNoReply_ok | with_reducible apply ite_ok
    | with_reducible apply elim_ok | (with_reducible refine foldl_ok (fun _ _ _ => ?_) _ ?_) | intro _
    | (simp only [↓mk_ok_iff]; with_reducible refine MemOk.parts ?_) | split | dsimp only
theorem execAuxDeferRetry_ok {s : State} {a0} (h : MemOk s) : OutOk (execAuxDeferRetry a0 s) := by
  unfold execAuxDeferRetry; refine next_ok ?_; repeat' first
    | with_reducible assumption | with_reducible apply State.setPort_ok | with_reducible apply ite_ok
    | (with_reducible refine foldl_ok (fun _ _ _ => ?_) _ ?_) | intro _ | split | (with_reducible apply mk_ok)
    | (with_reducible apply MemOk.parts) | dsimp only
theorem execLaneSliceFault_ok {s : State} {a0} {a1} (h : MemOk s) : OutOk (execLaneSliceFault a0 a1 s) := by
  unfold execLaneSliceFault; refine next_ok ?_; repeat' first
    | with_reducible assumption | with_reducible apply State.degrade_ok | with_reducible apply State.steerBegin_ok
    | with_reducible apply State.raise_ok | with_reducible apply ite_ok
    | (with_reducible refine foldl_ok (fun _ _ _ => ?_) _ ?_) | intro _ | split | (with_reducible apply mk_ok)
    | (with_reducible apply MemOk.parts) | dsimp only
theorem execSubstReq_ok {s : State} {a0} {a1} (h : MemOk s) : OutOk (execSubstReq a0 a1 s) := by
  unfold execSubstReq; refine next_ok ?_; repeat' first
    | with_reducible assumption | with_reducible apply State.laneWrite_ok | with_reducible apply State.access_ok
    | with_reducible apply ite_ok | (with_reducible refine foldl_ok (fun _ _ _ => ?_) _ ?_) | intro _ | split
    | (with_reducible apply mk_ok) | (with_reducible apply MemOk.parts) | dsimp only
theorem execLoopbackReq_ok {s : State} {a0} (h : MemOk s) : OutOk (execLoopbackReq a0 s) := by
  unfold execLoopbackReq; refine next_ok ?_; repeat' first
    | with_reducible assumption | with_reducible apply State.laneWrite_ok | with_reducible apply State.access_ok
    | with_reducible apply ite_ok | (with_reducible refine foldl_ok (fun _ _ _ => ?_) _ ?_) | intro _ | split
    | (with_reducible apply mk_ok) | (with_reducible apply MemOk.parts) | dsimp only
theorem execLaneSteerDone_ok {s : State} {a0} (h : MemOk s) : OutOk (execLaneSteerDone a0 s) := by
  unfold execLaneSteerDone; refine next_ok ?_; repeat' first
    | with_reducible assumption | with_reducible apply State.train_ok | with_reducible apply State.setPort_ok
    | with_reducible apply State.fset_ok | with_reducible apply ite_ok
    | (with_reducible refine foldl_ok (fun _ _ _ => ?_) _ ?_) | intro _ | split | (with_reducible apply mk_ok)
    | (with_reducible apply MemOk.parts) | dsimp only
theorem execLoopbackDone_ok {s : State} {a0} {a1} (h : MemOk s) : OutOk (execLoopbackDone a0 a1 s) := by
  unfold execLoopbackDone; refine next_ok ?_; repeat' first
    | with_reducible assumption | with_reducible apply State.setPort_ok | with_reducible apply State.fset_ok
    | with_reducible apply ite_ok | (with_reducible refine foldl_ok (fun _ _ _ => ?_) _ ?_) | intro _ | split
    | (with_reducible apply mk_ok) | (with_reducible apply MemOk.parts) | dsimp only
theorem execSelectionPoint_ok {s : State} {a0} (h : MemOk s) : OutOk (execSelectionPoint a0 s) := by
  unfold execSelectionPoint; refine next_ok ?_; repeat' first
    | with_reducible assumption | with_reducible apply State.selectFor_ok | with_reducible apply ite_ok
    | (with_reducible refine foldl_ok (fun _ _ _ => ?_) _ ?_) | intro _ | split | (with_reducible apply mk_ok)
    | (with_reducible apply MemOk.parts) | dsimp only
theorem execLatchWindowOpen_ok {s : State} {a0} (h : MemOk s) : OutOk (execLatchWindowOpen a0 s) := by
  unfold execLatchWindowOpen; refine next_ok ?_; repeat' first
    | with_reducible assumption | with_reducible apply State.putAdmitted_ok | with_reducible apply ite_ok
    | (with_reducible refine foldl_ok (fun _ _ _ => ?_) _ ?_) | intro _ | split | (with_reducible apply mk_ok)
    | (with_reducible apply MemOk.parts) | dsimp only
theorem execLatchCopyReceive_ok {s : State} {a0} {a1} {a2} (h : MemOk s) : OutOk (execLatchCopyReceive a0 a1 a2 s) := by
  unfold execLatchCopyReceive; refine next_ok ?_; repeat' first
    | with_reducible assumption | with_reducible apply State.newApertures_ok | with_reducible apply State.putAdmitted_ok
    | with_reducible apply State.crossingLoss_ok | with_reducible apply ite_ok | with_reducible apply elim_ok
    | (with_reducible refine foldl_ok (fun _ _ _ => ?_) _ ?_) | intro _
    | (simp only [↓mk_ok_iff]; with_reducible refine MemOk.parts ?_) | split | dsimp only
theorem execDecisionPoint_ok {s : State} {a0} (h : MemOk s) : OutOk (execDecisionPoint a0 s) := by
  unfold execDecisionPoint; refine next_ok ?_; repeat' first
    | with_reducible assumption | with_reducible apply State.moveLater_ok | with_reducible apply State.moveOne_ok
    | with_reducible apply State.putAdmitted_ok | with_reducible apply State.showHeld_ok
    | with_reducible apply State.fset_ok | with_reducible apply ite_ok | with_reducible apply elim_ok
    | (with_reducible refine foldl_ok (fun _ _ _ => ?_) _ ?_) | intro _
    | (simp only [↓mk_ok_iff]; with_reducible refine MemOk.parts ?_) | split | dsimp only
theorem execDecisionReceive_ok {s : State} {a0} {a1} (h : MemOk s) : OutOk (execDecisionReceive a0 a1 s) := by
  unfold execDecisionReceive; refine next_ok ?_; repeat' first
    | with_reducible assumption | with_reducible apply State.putAdmitted_ok | with_reducible apply ite_ok
    | (with_reducible refine foldl_ok (fun _ _ _ => ?_) _ ?_) | intro _ | split | (with_reducible apply mk_ok)
    | (with_reducible apply MemOk.parts) | dsimp only
theorem execSwitchPoint_ok {s : State} {a0} {a1} (h : MemOk s) : OutOk (execSwitchPoint a0 a1 s) := by
  unfold execSwitchPoint; refine next_ok ?_; repeat' first
    | with_reducible assumption | with_reducible apply State.makeSwitches_ok | with_reducible apply ite_ok
    | with_reducible apply elim_ok | (with_reducible refine foldl_ok (fun _ _ _ => ?_) _ ?_) | intro _
    | (simp only [↓mk_ok_iff]; with_reducible refine MemOk.parts ?_) | split | dsimp only
theorem execFrameBoundary_ok {s : State} {a0} (h : MemOk s) : OutOk (execFrameBoundary a0 s) := by
  unfold execFrameBoundary; refine next_ok ?_; repeat' first
    | with_reducible assumption | with_reducible apply State.frameBoundary_ok | with_reducible apply ite_ok
    | with_reducible apply elim_ok | (with_reducible refine foldl_ok (fun _ _ _ => ?_) _ ?_) | intro _
    | (simp only [↓mk_ok_iff]; with_reducible refine MemOk.parts ?_) | split | dsimp only
theorem execLineStart_ok {s : State} {a0} (h : MemOk s) : OutOk (execLineStart a0 s) := by
  unfold execLineStart; refine next_ok ?_; repeat' first
    | with_reducible assumption | with_reducible apply State.setHead_ok | with_reducible apply ite_ok
    | (with_reducible refine foldl_ok (fun _ _ _ => ?_) _ ?_) | intro _ | split | (with_reducible apply mk_ok)
    | (with_reducible apply MemOk.parts) | dsimp only
theorem execWcLineDrain_ok {s : State} {a0} {a1} (h : MemOk s) : OutOk (execWcLineDrain a0 a1 s) := by
  unfold execWcLineDrain; refine next_ok ?_; repeat' first
    | with_reducible assumption | with_reducible apply State.drainLine_ok | with_reducible apply State.touchMem_ok
    | with_reducible apply ite_ok | with_reducible apply elim_ok
    | (with_reducible refine foldl_ok (fun _ _ _ => ?_) _ ?_) | intro _
    | (simp only [↓mk_ok_iff]; with_reducible refine MemOk.parts ?_) | split | dsimp only
theorem execWcIdleTimeout_ok {s : State} {a0} (h : MemOk s) : OutOk (execWcIdleTimeout a0 s) := by
  unfold execWcIdleTimeout; refine next_ok ?_; repeat' first
    | with_reducible assumption | with_reducible apply State.startDrain_ok | with_reducible apply ite_ok
    | with_reducible apply elim_ok | (with_reducible refine foldl_ok (fun _ _ _ => ?_) _ ?_) | intro _
    | (simp only [↓mk_ok_iff]; with_reducible refine MemOk.parts ?_) | split | dsimp only
theorem execMeterRefill_ok {s : State} (h : MemOk s) : OutOk (execMeterRefill s) := by
  unfold execMeterRefill; refine next_ok ?_; repeat' first
    | with_reducible assumption | with_reducible apply State.meterRefill_ok | with_reducible apply ite_ok
    | with_reducible apply elim_ok | (with_reducible refine foldl_ok (fun _ _ _ => ?_) _ ?_) | intro _
    | (simp only [↓mk_ok_iff]; with_reducible refine MemOk.parts ?_) | split | dsimp only
theorem execApertureWrite_ok {s : State} {a0} {a1} {a2} {a3} (h : MemOk s) : OutOk (execApertureWrite a0 a1 a2 a3 s) := by
  unfold execApertureWrite; refine next_ok ?_; repeat' first
    | with_reducible assumption | with_reducible apply State.apertureWrite_ok | with_reducible apply ite_ok
    | with_reducible apply elim_ok | (with_reducible refine foldl_ok (fun _ _ _ => ?_) _ ?_) | intro _
    | (simp only [↓mk_ok_iff]; with_reducible refine MemOk.parts ?_) | split | dsimp only
theorem execApertureRead_ok {s : State} {a0} {a1} {a2} {a3} (h : MemOk s) : OutOk (execApertureRead a0 a1 a2 a3 s) := by
  unfold execApertureRead; refine next_ok ?_; repeat' first
    | with_reducible assumption | with_reducible apply State.apertureRead_ok | with_reducible apply ite_ok
    | with_reducible apply elim_ok | (with_reducible refine foldl_ok (fun _ _ _ => ?_) _ ?_) | intro _
    | (simp only [↓mk_ok_iff]; with_reducible refine MemOk.parts ?_) | split | dsimp only
theorem execIngOpen_ok {s : State} {a0} {a1} {a2} {a3} (h : MemOk s) : OutOk (execIngOpen a0 a1 a2 a3 s) := by
  unfold execIngOpen; refine next_ok ?_; repeat' first
    | with_reducible assumption | with_reducible apply State.slotOpen_ok | with_reducible apply State.access_ok
    | with_reducible apply ite_ok | with_reducible apply elim_ok
    | (with_reducible refine foldl_ok (fun _ _ _ => ?_) _ ?_) | intro _
    | (simp only [↓mk_ok_iff]; with_reducible refine MemOk.parts ?_) | split | dsimp only
theorem execIngDone_ok {s : State} {a0} {a1} (h : MemOk s) : OutOk (execIngDone a0 a1 s) := by
  unfold execIngDone; refine next_ok ?_; repeat' first
    | with_reducible assumption | with_reducible apply State.slotDone_ok | with_reducible apply State.access_ok
    | with_reducible apply ite_ok | with_reducible apply elim_ok
    | (with_reducible refine foldl_ok (fun _ _ _ => ?_) _ ?_) | intro _
    | (simp only [↓mk_ok_iff]; with_reducible refine MemOk.parts ?_) | split | dsimp only
theorem execIngestCompletion_ok {s : State} {a0} (h : MemOk s) : OutOk (execIngestCompletion a0 s) := by
  unfold execIngestCompletion; refine next_ok ?_; repeat' first
    | with_reducible assumption | with_reducible apply State.slotComplete_ok | with_reducible apply State.openExamine_ok
    | with_reducible apply State.endIncomplete_ok | with_reducible apply State.setStream_ok
    | with_reducible apply State.touchMem_ok | with_reducible apply ite_ok | with_reducible apply elim_ok
    | (with_reducible refine foldl_ok (fun _ _ _ => ?_) _ ?_) | intro _
    | (simp only [↓mk_ok_iff]; with_reducible refine MemOk.parts ?_) | split | dsimp only
theorem execIngCfgWrite_ok {s : State} {a0} {a1} {a2} (h : MemOk s) : OutOk (execIngCfgWrite a0 a1 a2 s) := by
  unfold execIngCfgWrite; refine next_ok ?_; repeat' first
    | with_reducible assumption | with_reducible apply State.ingCfgWrite_ok | with_reducible apply State.access_ok
    | with_reducible apply ite_ok | with_reducible apply elim_ok
    | (with_reducible refine foldl_ok (fun _ _ _ => ?_) _ ?_) | intro _
    | (simp only [↓mk_ok_iff]; with_reducible refine MemOk.parts ?_) | split | dsimp only
theorem execIngRateWrite_ok {s : State} {a0} {a1} {a2} (h : MemOk s) : OutOk (execIngRateWrite a0 a1 a2 s) := by
  unfold execIngRateWrite; refine next_ok ?_; repeat' first
    | with_reducible assumption | with_reducible apply State.ingRateWrite_ok | with_reducible apply State.access_ok
    | with_reducible apply ite_ok | (with_reducible refine foldl_ok (fun _ _ _ => ?_) _ ?_) | intro _ | split
    | (with_reducible apply mk_ok) | (with_reducible apply MemOk.parts) | dsimp only
theorem execDmaDescriptorRead_ok {s : State} {a0} {a1} (h : MemOk s) : OutOk (execDmaDescriptorRead a0 a1 s) := by
  unfold execDmaDescriptorRead; refine next_ok ?_; repeat' first
    | with_reducible assumption | with_reducible apply State.descData_ok | with_reducible apply ite_ok
    | with_reducible apply elim_ok | (with_reducible refine foldl_ok (fun _ _ _ => ?_) _ ?_) | intro _
    | (simp only [↓mk_ok_iff]; with_reducible refine MemOk.parts ?_) | split | dsimp only
theorem execDmaSourceData_ok {s : State} {a0} {a1} (h : MemOk s) : OutOk (execDmaSourceData a0 a1 s) := by
  unfold execDmaSourceData; refine next_ok ?_; repeat' first
    | with_reducible assumption | with_reducible apply State.sourceData_ok | with_reducible apply ite_ok
    | with_reducible apply elim_ok | (with_reducible refine foldl_ok (fun _ _ _ => ?_) _ ?_) | intro _
    | (simp only [↓mk_ok_iff]; with_reducible refine MemOk.parts ?_) | split | dsimp only
theorem execDmaMoverBeat_ok {s : State} {a0} (h : MemOk s) : OutOk (execDmaMoverBeat a0 s) := by
  unfold execDmaMoverBeat; refine next_ok ?_; repeat' first
    | with_reducible assumption | with_reducible apply State.moverBeat_ok | with_reducible apply ite_ok
    | with_reducible apply elim_ok | (with_reducible refine foldl_ok (fun _ _ _ => ?_) _ ?_) | intro _
    | (simp only [↓mk_ok_iff]; with_reducible refine MemOk.parts ?_) | split | dsimp only
theorem execDmaWriteAck_ok {s : State} {a0} {a1} (h : MemOk s) : OutOk (execDmaWriteAck a0 a1 s) := by
  unfold execDmaWriteAck; refine next_ok ?_; repeat' first
    | with_reducible assumption | with_reducible apply State.writeAck_ok | with_reducible apply ite_ok
    | with_reducible apply elim_ok | (with_reducible refine foldl_ok (fun _ _ _ => ?_) _ ?_) | intro _
    | (simp only [↓mk_ok_iff]; with_reducible refine MemOk.parts ?_) | split | dsimp only
theorem execPipeComposeLine_ok {s : State} {a0} {a1} {a2} (h : MemOk s) : OutOk (execPipeComposeLine a0 a1 a2 s) := by
  unfold execPipeComposeLine; refine next_ok ?_; repeat' first
    | with_reducible assumption | with_reducible apply State.wbCapture_ok | with_reducible apply State.composeLine_ok
    | with_reducible apply ite_ok | with_reducible apply elim_ok
    | (with_reducible refine foldl_ok (fun _ _ _ => ?_) _ ?_) | intro _
    | (simp only [↓mk_ok_iff]; with_reducible refine MemOk.parts ?_) | split | dsimp only
theorem execDmaWbFrameStart_ok {s : State} {a0} (h : MemOk s) : OutOk (execDmaWbFrameStart a0 s) := by
  unfold execDmaWbFrameStart; refine next_ok ?_; repeat' first
    | with_reducible assumption | with_reducible apply State.wbCapture_ok | with_reducible apply State.askDesc_ok
    | with_reducible apply State.setChanState_ok | with_reducible apply State.setChan_ok
    | with_reducible apply State.setFrameRun_ok | with_reducible apply State.raise_ok
    | with_reducible apply State.fsat_ok | with_reducible apply ite_ok | with_reducible apply elim_ok
    | (with_reducible refine foldl_ok (fun _ _ _ => ?_) _ ?_) | intro _
    | (simp only [↓mk_ok_iff]; with_reducible refine MemOk.parts ?_) | split | dsimp only
theorem execDmaStart_ok {s : State} {a0} {a1} (h : MemOk s) : OutOk (execDmaStart a0 a1 s) := by
  unfold execDmaStart; refine next_ok ?_; repeat' first
    | with_reducible assumption | with_reducible apply State.dmaCommand_ok | with_reducible apply ite_ok
    | with_reducible apply elim_ok | (with_reducible refine foldl_ok (fun _ _ _ => ?_) _ ?_) | intro _
    | (simp only [↓mk_ok_iff]; with_reducible refine MemOk.parts ?_) | split | dsimp only
theorem execDmaStop_ok {s : State} {a0} {a1} (h : MemOk s) : OutOk (execDmaStop a0 a1 s) := by
  unfold execDmaStop; refine next_ok ?_; repeat' first
    | with_reducible assumption | with_reducible apply State.dmaCommand_ok | with_reducible apply ite_ok
    | with_reducible apply elim_ok | (with_reducible refine foldl_ok (fun _ _ _ => ?_) _ ?_) | intro _
    | (simp only [↓mk_ok_iff]; with_reducible refine MemOk.parts ?_) | split | dsimp only
theorem execDmaResume_ok {s : State} {a0} {a1} (h : MemOk s) : OutOk (execDmaResume a0 a1 s) := by
  unfold execDmaResume; refine next_ok ?_; repeat' first
    | with_reducible assumption | with_reducible apply State.dmaCommand_ok | with_reducible apply ite_ok
    | with_reducible apply elim_ok | (with_reducible refine foldl_ok (fun _ _ _ => ?_) _ ?_) | intro _
    | (simp only [↓mk_ok_iff]; with_reducible refine MemOk.parts ?_) | split | dsimp only
theorem execDmaAbort_ok {s : State} {a0} {a1} (h : MemOk s) : OutOk (execDmaAbort a0 a1 s) := by
  unfold execDmaAbort; refine next_ok ?_; repeat' first
    | with_reducible assumption | with_reducible apply State.dmaCommand_ok | with_reducible apply ite_ok
    | with_reducible apply elim_ok | (with_reducible refine foldl_ok (fun _ _ _ => ?_) _ ?_) | intro _
    | (simp only [↓mk_ok_iff]; with_reducible refine MemOk.parts ?_) | split | dsimp only
theorem execDmakick_ok {s : State} {a0} (h : MemOk s) : OutOk (execDmakick a0 s) := by
  unfold execDmakick; refine next_ok ?_; repeat' first
    | with_reducible assumption | with_reducible apply State.startChan_ok | with_reducible apply State.retire_ok
    | with_reducible apply State.issue_ok | with_reducible apply State.hostDown_ok
    | with_reducible apply State.seqFault_ok | with_reducible apply State.refusal_ok | with_reducible apply ite_ok
    | with_reducible apply elim_ok | (with_reducible refine foldl_ok (fun _ _ _ => ?_) _ ?_) | intro _
    | (simp only [↓mk_ok_iff]; with_reducible refine MemOk.parts ?_) | split | dsimp only
theorem execCheckpointSigned_ok {s : State} (h : MemOk s) : OutOk (execCheckpointSigned s) := by
  unfold execCheckpointSigned; refine next_ok ?_; repeat' first
    | with_reducible assumption | with_reducible apply State.checkpointSigned_ok | with_reducible apply ite_ok
    | with_reducible apply elim_ok | (with_reducible refine foldl_ok (fun _ _ _ => ?_) _ ?_) | intro _
    | (simp only [↓mk_ok_iff]; with_reducible refine MemOk.parts ?_) | split | dsimp only
theorem execSealSigned_ok {s : State} (h : MemOk s) : OutOk (execSealSigned s) := by
  unfold execSealSigned; refine next_ok ?_; repeat' first
    | with_reducible assumption | with_reducible apply State.sealSigned_ok | with_reducible apply ite_ok
    | with_reducible apply elim_ok | (with_reducible refine foldl_ok (fun _ _ _ => ?_) _ ?_) | intro _
    | (simp only [↓mk_ok_iff]; with_reducible refine MemOk.parts ?_) | split | dsimp only
theorem execSealProgrammed_ok {s : State} (h : MemOk s) : OutOk (execSealProgrammed s) := by
  unfold execSealProgrammed; refine next_ok ?_; repeat' first
    | with_reducible assumption | with_reducible apply State.sealProgrammed_ok | with_reducible apply ite_ok
    | with_reducible apply elim_ok | (with_reducible refine foldl_ok (fun _ _ _ => ?_) _ ?_) | intro _
    | (simp only [↓mk_ok_iff]; with_reducible refine MemOk.parts ?_) | split | dsimp only
theorem execPwrWarnAssert_ok {s : State} (h : MemOk s) : OutOk (execPwrWarnAssert s) := by
  unfold execPwrWarnAssert; refine next_ok ?_; repeat' first
    | with_reducible assumption | with_reducible apply State.warnAssert_ok | with_reducible apply ite_ok
    | with_reducible apply elim_ok | (with_reducible refine foldl_ok (fun _ _ _ => ?_) _ ?_) | intro _
    | (simp only [↓mk_ok_iff]; with_reducible refine MemOk.parts ?_) | split | dsimp only
theorem execPwrWarnDeassert_ok {s : State} (h : MemOk s) : OutOk (execPwrWarnDeassert s) := by
  unfold execPwrWarnDeassert; refine next_ok ?_; repeat' first
    | with_reducible assumption | with_reducible apply State.warnDeassert_ok | with_reducible apply ite_ok
    | with_reducible apply elim_ok | (with_reducible refine foldl_ok (fun _ _ _ => ?_) _ ?_) | intro _
    | (simp only [↓mk_ok_iff]; with_reducible refine MemOk.parts ?_) | split | dsimp only
theorem execSectorEraseDone_ok {ok} {s : State} (h : MemOk s) : OutOk (execSectorEraseDone ok s) := by
  unfold execSectorEraseDone
  refine next_ok ?_
  split
  · exact h
  · exact ite_ok (mk_ok ⟨h.1, h.2.1, flashErase_wf h.2.2 _ _⟩) (State.raise_ok h)
theorem execFrameRecordComplete_ok {s : State} {a0} {a1} (h : MemOk s) : OutOk (execFrameRecordComplete a0 a1 s) := by
  unfold execFrameRecordComplete; refine next_ok ?_; repeat' first
    | with_reducible assumption | with_reducible apply State.frameRecord_ok | with_reducible apply ite_ok
    | with_reducible apply elim_ok | (with_reducible refine foldl_ok (fun _ _ _ => ?_) _ ?_) | intro _
    | (simp only [↓mk_ok_iff]; with_reducible refine MemOk.parts ?_) | split | dsimp only
theorem execJrnEnable_ok {s : State} {a0} (h : MemOk s) : OutOk (execJrnEnable a0 s) := by
  unfold execJrnEnable; refine next_ok ?_; repeat' first
    | with_reducible assumption | with_reducible apply State.jrnCtlWrite_ok | with_reducible apply State.access_ok
    | with_reducible apply ite_ok | with_reducible apply elim_ok
    | (with_reducible refine foldl_ok (fun _ _ _ => ?_) _ ?_) | intro _
    | (simp only [↓mk_ok_iff]; with_reducible refine MemOk.parts ?_) | split | dsimp only
theorem execCpNow_ok {s : State} (h : MemOk s) : OutOk (execCpNow s) := by
  unfold execCpNow; refine next_ok ?_; repeat' first
    | with_reducible assumption | with_reducible apply State.jrnCtlWrite_ok | with_reducible apply State.access_ok
    | with_reducible apply ite_ok | with_reducible apply elim_ok
    | (with_reducible refine foldl_ok (fun _ _ _ => ?_) _ ?_) | intro _
    | (simp only [↓mk_ok_iff]; with_reducible refine MemOk.parts ?_) | split | dsimp only
theorem execJrnRdWrite_ok {s : State} {a0} (h : MemOk s) : OutOk (execJrnRdWrite a0 s) := by
  unfold execJrnRdWrite; refine next_ok ?_; repeat' first
    | with_reducible assumption | with_reducible apply State.jrnRdWrite_ok | with_reducible apply State.access_ok
    | with_reducible apply ite_ok | with_reducible apply elim_ok
    | (with_reducible refine foldl_ok (fun _ _ _ => ?_) _ ?_) | intro _
    | (simp only [↓mk_ok_iff]; with_reducible refine MemOk.parts ?_) | split | dsimp only
theorem execJournalEntry_ok {s : State} {a0} (h : MemOk s) : OutOk (execJournalEntry a0 s) := by
  unfold execJournalEntry; refine next_ok ?_; repeat' first
    | with_reducible assumption | with_reducible apply State.journalEntry_ok | with_reducible apply ite_ok
    | with_reducible apply elim_ok | (with_reducible refine foldl_ok (fun _ _ _ => ?_) _ ?_) | intro _
    | (simp only [↓mk_ok_iff]; with_reducible refine MemOk.parts ?_) | split | dsimp only
theorem execPlateAccess_ok {s : State} {a0} {a1} {a2} {a3} (h : MemOk s) : OutOk (execPlateAccess a0 a1 a2 a3 s) := by
  unfold execPlateAccess; refine next_ok ?_; repeat' first
    | with_reducible assumption | with_reducible apply State.plateAccess_ok | with_reducible apply ite_ok
    | with_reducible apply elim_ok | (with_reducible refine foldl_ok (fun _ _ _ => ?_) _ ?_) | intro _
    | (simp only [↓mk_ok_iff]; with_reducible refine MemOk.parts ?_) | split | dsimp only
theorem execPstCeRowClear_ok {s : State} {a0} {a1} (h : MemOk s) : OutOk (execPstCeRowClear a0 a1 s) := by
  unfold execPstCeRowClear; refine next_ok ?_; repeat' first
    | with_reducible assumption | with_reducible apply State.access_ok | with_reducible apply State.wr_ok
    | with_reducible apply ite_ok | with_reducible apply elim_ok
    | (with_reducible refine foldl_ok (fun _ _ _ => ?_) _ ?_) | intro _
    | (simp only [↓mk_ok_iff]; with_reducible refine MemOk.parts ?_) | split | dsimp only
theorem execPstOwnReq_ok {s : State} {a0} {a1} (h : MemOk s) : OutOk (execPstOwnReq a0 a1 s) := by
  unfold execPstOwnReq; refine next_ok ?_; repeat' first
    | with_reducible assumption | with_reducible apply State.ownReq_ok | with_reducible apply State.access_ok
    | with_reducible apply ite_ok | with_reducible apply elim_ok
    | (with_reducible refine foldl_ok (fun _ _ _ => ?_) _ ?_) | intro _
    | (simp only [↓mk_ok_iff]; with_reducible refine MemOk.parts ?_) | split | dsimp only
theorem execHandoverComplete_ok {s : State} {a0} (h : MemOk s) : OutOk (execHandoverComplete a0 s) := by
  unfold execHandoverComplete; refine next_ok ?_; repeat' first
    | with_reducible assumption | with_reducible apply State.handoverDone_ok | with_reducible apply ite_ok
    | with_reducible apply elim_ok | (with_reducible refine foldl_ok (fun _ _ _ => ?_) _ ?_) | intro _
    | (simp only [↓mk_ok_iff]; with_reducible refine MemOk.parts ?_) | split | dsimp only
theorem execPstSubstReq_ok {s : State} {a0} (h : MemOk s) : OutOk (execPstSubstReq a0 s) := by
  unfold execPstSubstReq; refine next_ok ?_; repeat' first
    | with_reducible assumption | with_reducible apply State.substReq_ok | with_reducible apply State.access_ok
    | with_reducible apply ite_ok | with_reducible apply elim_ok
    | (with_reducible refine foldl_ok (fun _ _ _ => ?_) _ ?_) | intro _
    | (simp only [↓mk_ok_iff]; with_reducible refine MemOk.parts ?_) | split | dsimp only
theorem execSubstCopyDone_ok {s : State} (h : MemOk s) : OutOk (execSubstCopyDone s) := by
  unfold execSubstCopyDone; refine next_ok ?_; repeat' first
    | with_reducible assumption | with_reducible apply State.substDone_ok | with_reducible apply ite_ok
    | with_reducible apply elim_ok | (with_reducible refine foldl_ok (fun _ _ _ => ?_) _ ?_) | intro _
    | (simp only [↓mk_ok_iff]; with_reducible refine MemOk.parts ?_) | split | dsimp only
theorem execBlinkGo_ok {s : State} {a0} {a1} (h : MemOk s) : OutOk (execBlinkGo a0 a1 s) := by
  unfold execBlinkGo; refine next_ok ?_; repeat' first
    | with_reducible assumption | with_reducible apply State.blinkCtlWrite_ok | with_reducible apply State.access_ok
    | with_reducible apply ite_ok | with_reducible apply elim_ok
    | (with_reducible refine foldl_ok (fun _ _ _ => ?_) _ ?_) | intro _
    | (simp only [↓mk_ok_iff]; with_reducible refine MemOk.parts ?_) | split | dsimp only
theorem execBlinkStop_ok {s : State} {a0} (h : MemOk s) : OutOk (execBlinkStop a0 s) := by
  unfold execBlinkStop; refine next_ok ?_; repeat' first
    | with_reducible assumption | with_reducible apply State.blinkCtlWrite_ok | with_reducible apply State.access_ok
    | with_reducible apply ite_ok | with_reducible apply elim_ok
    | (with_reducible refine foldl_ok (fun _ _ _ => ?_) _ ?_) | intro _
    | (simp only [↓mk_ok_iff]; with_reducible refine MemOk.parts ?_) | split | dsimp only
theorem execBlinkCopyInDone_ok {s : State} {a0} (h : MemOk s) : OutOk (execBlinkCopyInDone a0 s) := by
  unfold execBlinkCopyInDone; refine next_ok ?_; repeat' first
    | with_reducible assumption | with_reducible apply ite_ok | with_reducible apply elim_ok
    | (with_reducible refine foldl_ok (fun _ _ _ => ?_) _ ?_) | intro _
    | (simp only [↓mk_ok_iff]; with_reducible refine MemOk.parts ?_) | split | dsimp only
theorem execBlinkMarchDone_ok {s : State} {a0} {a1} {a2} {a3} (h : MemOk s) : OutOk (execBlinkMarchDone a0 a1 a2 a3 s) := by
  unfold execBlinkMarchDone; refine next_ok ?_; repeat' first
    | with_reducible assumption | with_reducible apply State.marchDone_ok | with_reducible apply ite_ok
    | with_reducible apply elim_ok | (with_reducible refine foldl_ok (fun _ _ _ => ?_) _ ?_) | intro _
    | (simp only [↓mk_ok_iff]; with_reducible refine MemOk.parts ?_) | split | dsimp only
theorem execBlinkCopyBackDone_ok {s : State} {a0} (h : MemOk s) : OutOk (execBlinkCopyBackDone a0 s) := by
  unfold execBlinkCopyBackDone; refine next_ok ?_; repeat' first
    | with_reducible assumption | with_reducible apply State.stripeDone_ok | with_reducible apply ite_ok
    | with_reducible apply elim_ok | (with_reducible refine foldl_ok (fun _ _ _ => ?_) _ ?_) | intro _
    | (simp only [↓mk_ok_iff]; with_reducible refine MemOk.parts ?_) | split | dsimp only
theorem execPwrTargetEval_ok {s : State} (h : MemOk s) : OutOk (execPwrTargetEval s) := by
  unfold execPwrTargetEval; refine next_ok ?_; repeat' first
    | with_reducible assumption | with_reducible apply State.powerEval_ok | with_reducible apply ite_ok
    | with_reducible apply elim_ok | (with_reducible refine foldl_ok (fun _ _ _ => ?_) _ ?_) | intro _
    | (simp only [↓mk_ok_iff]; with_reducible refine MemOk.parts ?_) | split | dsimp only
theorem execPwrDeeperTimer_ok {s : State} (h : MemOk s) : OutOk (execPwrDeeperTimer s) := by
  unfold execPwrDeeperTimer; refine next_ok ?_; repeat' first
    | with_reducible assumption | with_reducible apply State.powerEval_ok | with_reducible apply State.enterState_ok
    | with_reducible apply ite_ok | with_reducible apply elim_ok
    | (with_reducible refine foldl_ok (fun _ _ _ => ?_) _ ?_) | intro _
    | (simp only [↓mk_ok_iff]; with_reducible refine MemOk.parts ?_) | split | dsimp only
theorem execPwrLatWrite_ok {s : State} {a0} {a1} {a2} (h : MemOk s) : OutOk (execPwrLatWrite a0 a1 a2 s) := by
  unfold execPwrLatWrite; refine next_ok ?_; repeat' first
    | with_reducible assumption | with_reducible apply State.pwrLatWrite_ok | with_reducible apply State.access_ok
    | with_reducible apply ite_ok | with_reducible apply elim_ok
    | (with_reducible refine foldl_ok (fun _ _ _ => ?_) _ ?_) | intro _
    | (simp only [↓mk_ok_iff]; with_reducible refine MemOk.parts ?_) | split | dsimp only
theorem execReplicaReloadDone_ok {s : State} {a0} (h : MemOk s) : OutOk (execReplicaReloadDone a0 s) := by
  unfold execReplicaReloadDone; refine next_ok ?_; repeat' first
    | with_reducible assumption | with_reducible apply State.releaseHeld_ok | with_reducible apply ite_ok
    | with_reducible apply elim_ok | (with_reducible refine foldl_ok (fun _ _ _ => ?_) _ ?_) | intro _
    | (simp only [↓mk_ok_iff]; with_reducible refine MemOk.parts ?_) | split | dsimp only
theorem execPipeCheckFail_ok {s : State} {a0} {a1} {a2} {a3} {a4} (h : MemOk s) : OutOk (execPipeCheckFail a0 a1 a2 a3 a4 s) := by
  unfold execPipeCheckFail; refine next_ok ?_; repeat' first
    | with_reducible assumption | with_reducible apply State.pipeCheckFail_ok | with_reducible apply ite_ok
    | with_reducible apply elim_ok | (with_reducible refine foldl_ok (fun _ _ _ => ?_) _ ?_) | intro _
    | (simp only [↓mk_ok_iff]; with_reducible refine MemOk.parts ?_) | split | dsimp only
theorem execPipeSwapReq_ok {s : State} {a0} (h : MemOk s) : OutOk (execPipeSwapReq a0 s) := by
  unfold execPipeSwapReq; refine next_ok ?_; repeat' first
    | with_reducible assumption | with_reducible apply State.swapReq_ok | with_reducible apply State.access_ok
    | with_reducible apply ite_ok | with_reducible apply elim_ok
    | (with_reducible refine foldl_ok (fun _ _ _ => ?_) _ ?_) | intro _
    | (simp only [↓mk_ok_iff]; with_reducible refine MemOk.parts ?_) | split | dsimp only
theorem execPipeSpareLoaded_ok {s : State} {a0} (h : MemOk s) : OutOk (execPipeSpareLoaded a0 s) := by
  unfold execPipeSpareLoaded; refine next_ok ?_; repeat' first
    | with_reducible assumption | with_reducible apply State.swapsEnd_ok | with_reducible apply ite_ok
    | with_reducible apply elim_ok | (with_reducible refine foldl_ok (fun _ _ _ => ?_) _ ?_) | intro _
    | (simp only [↓mk_ok_iff]; with_reducible refine MemOk.parts ?_) | split | dsimp only
theorem execRestore_ok {s : State} (h : MemOk s) : OutOk (execRestore s) := by
  unfold execRestore; refine next_ok ?_; repeat' first
    | with_reducible assumption | with_reducible apply State.shedWrite_ok | with_reducible apply State.access_ok
    | with_reducible apply ite_ok | with_reducible apply elim_ok
    | (with_reducible refine foldl_ok (fun _ _ _ => ?_) _ ?_) | intro _
    | (simp only [↓mk_ok_iff]; with_reducible refine MemOk.parts ?_) | split | dsimp only
theorem execRestoreAll_ok {s : State} (h : MemOk s) : OutOk (execRestoreAll s) := by
  unfold execRestoreAll; refine next_ok ?_; repeat' first
    | with_reducible assumption | with_reducible apply State.shedWrite_ok | with_reducible apply State.access_ok
    | with_reducible apply ite_ok | with_reducible apply elim_ok
    | (with_reducible refine foldl_ok (fun _ _ _ => ?_) _ ?_) | intro _
    | (simp only [↓mk_ok_iff]; with_reducible refine MemOk.parts ?_) | split | dsimp only
theorem execPwrExitDone_ok {s : State} (h : MemOk s) : OutOk (execPwrExitDone s) := by
  unfold execPwrExitDone; refine next_ok ?_; repeat' first
    | with_reducible assumption | with_reducible apply State.exitDone_ok | with_reducible apply ite_ok
    | with_reducible apply elim_ok | (with_reducible refine foldl_ok (fun _ _ _ => ?_) _ ?_) | intro _
    | (simp only [↓mk_ok_iff]; with_reducible refine MemOk.parts ?_) | split | dsimp only
theorem execImonAlertAssert_ok {s : State} (h : MemOk s) : OutOk (execImonAlertAssert s) := by
  unfold execImonAlertAssert; refine next_ok ?_; repeat' first
    | with_reducible assumption | with_reducible apply State.raise_ok | with_reducible apply State.fset_ok
    | with_reducible apply ite_ok | with_reducible apply elim_ok
    | (with_reducible refine foldl_ok (fun _ _ _ => ?_) _ ?_) | intro _
    | (simp only [↓mk_ok_iff]; with_reducible refine MemOk.parts ?_) | split | dsimp only
theorem execImonAlertDeassert_ok {s : State} (h : MemOk s) : OutOk (execImonAlertDeassert s) := by
  unfold execImonAlertDeassert; refine next_ok ?_; repeat' first
    | with_reducible assumption | with_reducible apply State.raise_ok | with_reducible apply State.fset_ok
    | with_reducible apply ite_ok | with_reducible apply elim_ok
    | (with_reducible refine foldl_ok (fun _ _ _ => ?_) _ ?_) | intro _
    | (simp only [↓mk_ok_iff]; with_reducible refine MemOk.parts ?_) | split | dsimp only
theorem execLifeTick_ok {s : State} (h : MemOk s) : OutOk (execLifeTick s) := by
  unfold execLifeTick; refine next_ok ?_; repeat' first
    | with_reducible assumption | with_reducible apply State.lifeTick_ok | with_reducible apply ite_ok
    | with_reducible apply elim_ok | (with_reducible refine foldl_ok (fun _ _ _ => ?_) _ ?_) | intro _
    | (simp only [↓mk_ok_iff]; with_reducible refine MemOk.parts ?_) | split | dsimp only
theorem execPcieLinkDown_ok {s : State} (h : MemOk s) : OutOk (execPcieLinkDown s) := by
  unfold execPcieLinkDown; refine next_ok ?_; repeat' first
    | with_reducible assumption | with_reducible apply State.linkLost_ok | with_reducible apply ite_ok
    | with_reducible apply elim_ok | (with_reducible refine foldl_ok (fun _ _ _ => ?_) _ ?_) | intro _
    | (simp only [↓mk_ok_iff]; with_reducible refine MemOk.parts ?_) | split | dsimp only
theorem execPcieLinkUp_ok {s : State} {a0} {a1} (h : MemOk s) : OutOk (execPcieLinkUp a0 a1 s) := by
  unfold execPcieLinkUp; refine next_ok ?_; repeat' first
    | with_reducible assumption | with_reducible apply State.linkBack_ok | with_reducible apply ite_ok
    | with_reducible apply elim_ok | (with_reducible refine foldl_ok (fun _ _ _ => ?_) _ ?_) | intro _
    | (simp only [↓mk_ok_iff]; with_reducible refine MemOk.parts ?_) | split | dsimp only
theorem execVddAonRise_ok {s : State} (h : MemOk s) : OutOk (execVddAonRise s) := by
  unfold execVddAonRise; refine next_ok ?_; repeat' first
    | with_reducible assumption | with_reducible apply State.coldReset_ok | with_reducible apply ite_ok
    | with_reducible apply elim_ok | (with_reducible refine foldl_ok (fun _ _ _ => ?_) _ ?_) | intro _
    | (simp only [↓mk_ok_iff]; with_reducible refine MemOk.parts ?_) | split | dsimp only
theorem execRailFault_ok {s : State} (h : MemOk s) : OutOk (execRailFault s) := by
  unfold execRailFault; refine next_ok ?_; repeat' first
    | with_reducible assumption | with_reducible apply State.railFault_ok | with_reducible apply ite_ok
    | with_reducible apply elim_ok | (with_reducible refine foldl_ok (fun _ _ _ => ?_) _ ?_) | intro _
    | (simp only [↓mk_ok_iff]; with_reducible refine MemOk.parts ?_) | split | dsimp only
theorem execRailRecover_ok {s : State} (h : MemOk s) : OutOk (execRailRecover s) := by
  unfold execRailRecover; refine next_ok ?_; repeat' first
    | with_reducible assumption | with_reducible apply State.beginPost_ok | with_reducible apply ite_ok
    | with_reducible apply elim_ok | (with_reducible refine foldl_ok (fun _ _ _ => ?_) _ ?_) | intro _
    | (simp only [↓mk_ok_iff]; with_reducible refine MemOk.parts ?_) | split | dsimp only
theorem execPerstAssert_ok {s : State} (h : MemOk s) : OutOk (execPerstAssert s) := by
  unfold execPerstAssert; refine next_ok ?_; repeat' first
    | with_reducible assumption | with_reducible apply State.perstAssert_ok | with_reducible apply ite_ok
    | with_reducible apply elim_ok | (with_reducible refine foldl_ok (fun _ _ _ => ?_) _ ?_) | intro _
    | (simp only [↓mk_ok_iff]; with_reducible refine MemOk.parts ?_) | split | dsimp only
theorem execPerstRelease_ok {s : State} {a0} (h : MemOk s) : OutOk (execPerstRelease a0 s) := by
  unfold execPerstRelease; refine next_ok ?_; repeat' first
    | with_reducible assumption | with_reducible apply State.perstRelease_ok | with_reducible apply ite_ok
    | with_reducible apply elim_ok | (with_reducible refine foldl_ok (fun _ _ _ => ?_) _ ?_) | intro _
    | (simp only [↓mk_ok_iff]; with_reducible refine MemOk.parts ?_) | split | dsimp only
theorem execThermalSample_ok {s : State} {a0} (h : MemOk s) : OutOk (execThermalSample a0 s) := by
  unfold execThermalSample; refine next_ok ?_; repeat' first
    | with_reducible assumption | with_reducible apply State.thermalSample_ok | with_reducible apply ite_ok
    | with_reducible apply elim_ok | (with_reducible refine foldl_ok (fun _ _ _ => ?_) _ ?_) | intro _
    | (simp only [↓mk_ok_iff]; with_reducible refine MemOk.parts ?_) | split | dsimp only
theorem execVfEnableClear_ok {s : State} (h : MemOk s) : OutOk (execVfEnableClear s) := by
  unfold execVfEnableClear; refine next_ok ?_; repeat' first
    | with_reducible assumption | with_reducible apply State.vfClear_ok | with_reducible apply ite_ok
    | with_reducible apply elim_ok | (with_reducible refine foldl_ok (fun _ _ _ => ?_) _ ?_) | intro _
    | (simp only [↓mk_ok_iff]; with_reducible refine MemOk.parts ?_) | split | dsimp only
theorem execFunctionLevelReset_ok {s : State} {a0} (h : MemOk s) : OutOk (execFunctionLevelReset a0 s) := by
  unfold execFunctionLevelReset; refine next_ok ?_; repeat' first
    | with_reducible assumption | with_reducible apply State.flr_ok | with_reducible apply ite_ok
    | with_reducible apply elim_ok | (with_reducible refine foldl_ok (fun _ _ _ => ?_) _ ?_) | intro _
    | (simp only [↓mk_ok_iff]; with_reducible refine MemOk.parts ?_) | split | dsimp only
theorem execFlrComplete_ok {s : State} {a0} (h : MemOk s) : OutOk (execFlrComplete a0 s) := by
  unfold execFlrComplete; refine next_ok ?_; repeat' first
    | with_reducible assumption | with_reducible apply State.send_ok | with_reducible apply State.setFn_ok
    | with_reducible apply ite_ok | with_reducible apply elim_ok
    | (with_reducible refine foldl_ok (fun _ _ _ => ?_) _ ?_) | intro _
    | (simp only [↓mk_ok_iff]; with_reducible refine MemOk.parts ?_) | split | dsimp only
theorem execPartitionWrite_ok {s : State} {a0} {a1} (h : MemOk s) : OutOk (execPartitionWrite a0 a1 s) := by
  unfold execPartitionWrite; refine next_ok ?_; repeat' first
    | with_reducible assumption | with_reducible apply State.partWrite_ok | with_reducible apply State.access_ok
    | with_reducible apply ite_ok | with_reducible apply elim_ok
    | (with_reducible refine foldl_ok (fun _ _ _ => ?_) _ ?_) | intro _
    | (simp only [↓mk_ok_iff]; with_reducible refine MemOk.parts ?_) | split | dsimp only
theorem execReclaim_ok {s : State} {a0} (h : MemOk s) : OutOk (execReclaim a0 s) := by
  unfold execReclaim; refine next_ok ?_; repeat' first
    | with_reducible assumption | with_reducible apply State.reclaim_ok | with_reducible apply State.access_ok
    | with_reducible apply ite_ok | with_reducible apply elim_ok
    | (with_reducible refine foldl_ok (fun _ _ _ => ?_) _ ?_) | intro _
    | (simp only [↓mk_ok_iff]; with_reducible refine MemOk.parts ?_) | split | dsimp only
theorem execL0pRequest_ok {s : State} {a0} (h : MemOk s) : OutOk (execL0pRequest a0 s) := by
  unfold execL0pRequest; refine next_ok ?_; repeat' first
    | with_reducible assumption | with_reducible apply State.fsat_ok | with_reducible apply State.fset_ok
    | with_reducible apply ite_ok | with_reducible apply elim_ok
    | (with_reducible refine foldl_ok (fun _ _ _ => ?_) _ ?_) | intro _
    | (simp only [↓mk_ok_iff]; with_reducible refine MemOk.parts ?_) | split | dsimp only
theorem execPcieLinkDegrade_ok {s : State} {a0} {a1} (h : MemOk s) : OutOk (execPcieLinkDegrade a0 a1 s) := by
  unfold execPcieLinkDegrade; refine next_ok ?_; repeat' first
    | with_reducible assumption | with_reducible apply State.raise_ok | with_reducible apply State.fset_ok
    | with_reducible apply ite_ok | with_reducible apply elim_ok
    | (with_reducible refine foldl_ok (fun _ _ _ => ?_) _ ?_) | intro _
    | (simp only [↓mk_ok_iff]; with_reducible refine MemOk.parts ?_) | split | dsimp only
theorem execResizableBarWrite_ok {s : State} {a0} {a1} (h : MemOk s) : OutOk (execResizableBarWrite a0 a1 s) := by
  unfold execResizableBarWrite; refine next_ok ?_; repeat' first
    | with_reducible assumption | with_reducible apply State.setFn_ok | with_reducible apply ite_ok
    | with_reducible apply elim_ok | (with_reducible refine foldl_ok (fun _ _ _ => ?_) _ ?_) | intro _
    | (simp only [↓mk_ok_iff]; with_reducible refine MemOk.parts ?_) | split | dsimp only
theorem execConfigurationRequest_ok {s : State} {a0} {a1} (h : MemOk s) : OutOk (execConfigurationRequest a0 a1 s) := by
  unfold execConfigurationRequest; refine next_ok ?_; repeat' first
    | with_reducible assumption | with_reducible apply State.configure_ok | with_reducible apply State.send_ok
    | with_reducible apply State.aerLog_ok | with_reducible apply ite_ok | with_reducible apply elim_ok
    | (with_reducible refine foldl_ok (fun _ _ _ => ?_) _ ?_) | intro _
    | (simp only [↓mk_ok_iff]; with_reducible refine MemOk.parts ?_) | split | dsimp only
theorem execUnsupportedRequest_ok {s : State} {a0} {a1} {a2} (h : MemOk s) : OutOk (execUnsupportedRequest a0 a1 a2 s) := by
  unfold execUnsupportedRequest; refine next_ok ?_; repeat' first
    | with_reducible assumption | with_reducible apply State.send_ok | with_reducible apply State.aerLog_ok
    | with_reducible apply ite_ok | with_reducible apply elim_ok
    | (with_reducible refine foldl_ok (fun _ _ _ => ?_) _ ?_) | intro _
    | (simp only [↓mk_ok_iff]; with_reducible refine MemOk.parts ?_) | split | dsimp only
theorem execIdeCheckFailed_ok {s : State} {a0} {a1} (h : MemOk s) : OutOk (execIdeCheckFailed a0 a1 s) := by
  unfold execIdeCheckFailed; refine next_ok ?_; repeat' first
    | with_reducible assumption | with_reducible apply State.setIde_ok | with_reducible apply State.aerLog_ok
    | with_reducible apply ite_ok | with_reducible apply elim_ok
    | (with_reducible refine foldl_ok (fun _ _ _ => ?_) _ ?_) | intro _
    | (simp only [↓mk_ok_iff]; with_reducible refine MemOk.parts ?_) | split | dsimp only
theorem execDoeRequest_ok {s : State} {a0} (h : MemOk s) : OutOk (execDoeRequest a0 s) := by
  unfold execDoeRequest; refine next_ok ?_; repeat' first
    | with_reducible assumption | with_reducible apply State.doeAnswer_ok | with_reducible apply ite_ok
    | with_reducible apply elim_ok | (with_reducible refine foldl_ok (fun _ _ _ => ?_) _ ?_) | intro _
    | (simp only [↓mk_ok_iff]; with_reducible refine MemOk.parts ?_) | split | dsimp only
theorem execPostEnd_ok {s : State} {a0} (h : MemOk s) : OutOk (execPostEnd a0 s) := by
  unfold execPostEnd; refine next_ok ?_; repeat' first
    | with_reducible assumption | with_reducible apply State.postEnd_ok | with_reducible apply ite_ok
    | with_reducible apply elim_ok | (with_reducible refine foldl_ok (fun _ _ _ => ?_) _ ?_) | intro _
    | (simp only [↓mk_ok_iff]; with_reducible refine MemOk.parts ?_) | split | dsimp only
theorem execShortPost_ok {s : State} {a0} {a1} (h : MemOk s) : OutOk (execShortPost a0 a1 s) := by
  unfold execShortPost; refine next_ok ?_; repeat' first
    | with_reducible assumption | with_reducible apply State.shortPost_ok | with_reducible apply ite_ok
    | with_reducible apply elim_ok | (with_reducible refine foldl_ok (fun _ _ _ => ?_) _ ?_) | intro _
    | (simp only [↓mk_ok_iff]; with_reducible refine MemOk.parts ?_) | split | dsimp only
theorem execSsIdentify_ok {bus} {s : State} (h : MemOk s) : OutOk (execSsIdentify bus s) := by
  unfold execSsIdentify
  exact next_ok (State.ssRun_ok h fun s a b n hs => State.draw_ok hs)
theorem execSsReadFail_ok {bus} {s : State} (h : MemOk s) : OutOk (execSsReadFail bus s) := by
  unfold execSsReadFail
  exact next_ok (State.ssRun_ok h fun s a b n hs => State.draw_ok hs)
theorem execSsReadFlash_ok {bus} {s : State} (h : MemOk s) : OutOk (execSsReadFlash bus s) := by
  unfold execSsReadFlash
  exact next_ok (State.ssRun_ok h fun s a b n hs => by split <;> exact hs)
theorem execSsEraseSector_ok {bus ok} {s : State} (h : MemOk s) : OutOk (execSsEraseSector bus ok s) := by
  unfold execSsEraseSector
  exact next_ok (State.ssRun_ok h fun s a b n hs => by
    repeat' split
    all_goals first | exact hs | exact mk_ok ⟨hs.1, hs.2.1, flashErase_wf hs.2.2 _ _⟩)
theorem execSsProgramFlash_ok {bus ok} {s : State} (h : MemOk s) : OutOk (execSsProgramFlash bus ok s) := by
  unfold execSsProgramFlash
  exact next_ok (State.ssRun_ok h fun s a b n hs => by
    repeat' split
    all_goals first | exact hs | exact mk_ok ⟨hs.1, hs.2.1, flashProgram_wf hs.2.2 _ _⟩)
theorem execSsReadSensors_ok {bus} {s : State} (h : MemOk s) : OutOk (execSsReadSensors bus s) := by
  unfold execSsReadSensors
  exact next_ok (State.ssRun_ok h fun s a b n hs => hs)
theorem execSsPlateMarch_ok {s : State} {a0} {a1} {a2} (h : MemOk s) : OutOk (execSsPlateMarch a0 a1 a2 s) := by
  unfold execSsPlateMarch; refine next_ok ?_; repeat' first
    | with_reducible assumption | with_reducible apply State.marchFill_ok
    | (with_reducible refine State.repairAll_ok (by assumption) ?_) | with_reducible apply State.repairAll_ok1
    | with_reducible apply State.ssRun_ok | with_reducible apply ite_ok | with_reducible apply elim_ok
    | (with_reducible refine foldl_ok (fun _ _ _ => ?_) _ ?_) | intro _
    | (simp only [↓mk_ok_iff]; with_reducible refine MemOk.parts ?_) | split | dsimp only
theorem execSsMemReport_ok {bus} {s : State} (h : MemOk s) : OutOk (execSsMemReport bus s) := by
  unfold execSsMemReport
  exact next_ok (State.ssRun_ok h fun s a b n hs => by split <;> first | exact hs | exact State.draw_ok hs)
theorem execSsBadOpcode_ok {bus} {s : State} (h : MemOk s) : OutOk (execSsBadOpcode bus s) := by
  unfold execSsBadOpcode
  exact next_ok (State.ssRun_ok h fun s a b n hs => hs)
theorem execStationPoisonRead_ok {s : State} {a0} {a1} (h : MemOk s) : OutOk (execStationPoisonRead a0 a1 s) := by
  unfold execStationPoisonRead; refine next_ok ?_; repeat' first
    | with_reducible assumption | with_reducible apply State.fsat_ok | with_reducible apply ite_ok
    | with_reducible apply elim_ok | (with_reducible refine foldl_ok (fun _ _ _ => ?_) _ ?_) | intro _
    | (simp only [↓mk_ok_iff]; with_reducible refine MemOk.parts ?_) | split | dsimp only
theorem execStationRestartDone_ok {s : State} (h : MemOk s) : OutOk (execStationRestartDone s) := by
  unfold execStationRestartDone; refine next_ok ?_; repeat' first
    | with_reducible assumption | with_reducible apply State.doeAnswer_ok | with_reducible apply ite_ok
    | with_reducible apply elim_ok | (with_reducible refine foldl_ok (fun _ _ _ => ?_) _ ?_) | intro _
    | (simp only [↓mk_ok_iff]; with_reducible refine MemOk.parts ?_) | split | dsimp only
theorem execSelftestGo_ok {s : State} {a0} (h : MemOk s) : OutOk (execSelftestGo a0 s) := by
  unfold execSelftestGo; refine next_ok ?_; repeat' first
    | with_reducible assumption | with_reducible apply State.selftestWrite_ok | with_reducible apply State.access_ok
    | with_reducible apply ite_ok | with_reducible apply elim_ok
    | (with_reducible refine foldl_ok (fun _ _ _ => ?_) _ ?_) | intro _
    | (simp only [↓mk_ok_iff]; with_reducible refine MemOk.parts ?_) | split | dsimp only
theorem execSelftestDone_ok {s : State} {a0} (h : MemOk s) : OutOk (execSelftestDone a0 s) := by
  unfold execSelftestDone; refine next_ok ?_; repeat' first
    | with_reducible assumption | with_reducible apply State.fset_ok | with_reducible apply ite_ok
    | with_reducible apply elim_ok | (with_reducible refine foldl_ok (fun _ _ _ => ?_) _ ?_) | intro _
    | (simp only [↓mk_ok_iff]; with_reducible refine MemOk.parts ?_) | split | dsimp only
theorem execSysLockWrite_ok {v} {s : State} (h : MemOk s) : OutOk (execSysLockWrite v s) :=
  next_ok (State.access_ok h fun _ hs => ite_ok (State.fset_ok hs) hs)
theorem execRegisterWrite_ok {s : State} {a0} {a1} {a2} {a3} (h : MemOk s) : OutOk (execRegisterWrite a0 a1 a2 a3 s) := by
  unfold execRegisterWrite; refine next_ok ?_; repeat' first
    | with_reducible assumption | with_reducible apply State.busWrite_ok | with_reducible apply ite_ok
    | with_reducible apply elim_ok | (with_reducible refine foldl_ok (fun _ _ _ => ?_) _ ?_) | intro _
    | (simp only [↓mk_ok_iff]; with_reducible refine MemOk.parts ?_) | split | dsimp only
theorem execCdNowSnapshot_ok {s : State} {a0} (h : MemOk s) : OutOk (execCdNowSnapshot a0 s) := by
  unfold execCdNowSnapshot; refine next_ok ?_; repeat' first
    | with_reducible assumption | with_reducible apply State.hostRead_ok | with_reducible apply ite_ok
    | with_reducible apply elim_ok | (with_reducible refine foldl_ok (fun _ _ _ => ?_) _ ?_) | intro _
    | (simp only [↓mk_ok_iff]; with_reducible refine MemOk.parts ?_) | split | dsimp only
theorem execSidPtmOfsSnapshot_ok {s : State} (h : MemOk s) : OutOk (execSidPtmOfsSnapshot s) := by
  unfold execSidPtmOfsSnapshot; refine next_ok ?_; repeat' first
    | with_reducible assumption | with_reducible apply State.hostRead_ok | with_reducible apply ite_ok
    | with_reducible apply elim_ok | (with_reducible refine foldl_ok (fun _ _ _ => ?_) _ ?_) | intro _
    | (simp only [↓mk_ok_iff]; with_reducible refine MemOk.parts ?_) | split | dsimp only
theorem execSidNowSnapshot_ok {s : State} (h : MemOk s) : OutOk (execSidNowSnapshot s) := by
  unfold execSidNowSnapshot; refine next_ok ?_; repeat' first
    | with_reducible assumption | with_reducible apply State.hostRead_ok | with_reducible apply ite_ok
    | with_reducible apply elim_ok | (with_reducible refine foldl_ok (fun _ _ _ => ?_) _ ?_) | intro _
    | (simp only [↓mk_ok_iff]; with_reducible refine MemOk.parts ?_) | split | dsimp only
theorem execFetApCreditSnapshot_ok {s : State} (h : MemOk s) : OutOk (execFetApCreditSnapshot s) := by
  unfold execFetApCreditSnapshot; refine next_ok ?_; repeat' first
    | with_reducible assumption | with_reducible apply State.hostRead_ok | with_reducible apply ite_ok
    | with_reducible apply elim_ok | (with_reducible refine foldl_ok (fun _ _ _ => ?_) _ ?_) | intro _
    | (simp only [↓mk_ok_iff]; with_reducible refine MemOk.parts ?_) | split | dsimp only
theorem execJrnSeqSnapshot_ok {s : State} (h : MemOk s) : OutOk (execJrnSeqSnapshot s) := by
  unfold execJrnSeqSnapshot; refine next_ok ?_; repeat' first
    | with_reducible assumption | with_reducible apply State.hostRead_ok | with_reducible apply ite_ok
    | with_reducible apply elim_ok | (with_reducible refine foldl_ok (fun _ _ _ => ?_) _ ?_) | intro _
    | (simp only [↓mk_ok_iff]; with_reducible refine MemOk.parts ?_) | split | dsimp only
theorem execIngFenceValSnapshot_ok {s : State} {a0} (h : MemOk s) : OutOk (execIngFenceValSnapshot a0 s) := by
  unfold execIngFenceValSnapshot; refine next_ok ?_; repeat' first
    | with_reducible assumption | with_reducible apply State.hostRead_ok | with_reducible apply ite_ok
    | with_reducible apply elim_ok | (with_reducible refine foldl_ok (fun _ _ _ => ?_) _ ?_) | intro _
    | (simp only [↓mk_ok_iff]; with_reducible refine MemOk.parts ?_) | split | dsimp only
theorem execVfPmapSnapshot_ok {s : State} {a0} (h : MemOk s) : OutOk (execVfPmapSnapshot a0 s) := by
  unfold execVfPmapSnapshot; refine next_ok ?_; repeat' first
    | with_reducible assumption | with_reducible apply State.hostRead_ok | with_reducible apply ite_ok
    | with_reducible apply elim_ok | (with_reducible refine foldl_ok (fun _ _ _ => ?_) _ ?_) | intro _
    | (simp only [↓mk_ok_iff]; with_reducible refine MemOk.parts ?_) | split | dsimp only
theorem execStorePerformed_ok {s : State} {a0} {a1} {a2} (h : MemOk s) : OutOk (execStorePerformed a0 a1 a2 s) := by
  unfold execStorePerformed; refine next_ok ?_; repeat' first
    | with_reducible assumption | with_reducible apply State.storePerformed_ok | with_reducible apply ite_ok
    | with_reducible apply elim_ok | (with_reducible refine foldl_ok (fun _ _ _ => ?_) _ ?_) | intro _
    | (simp only [↓mk_ok_iff]; with_reducible refine MemOk.parts ?_) | split | dsimp only
theorem execLdwDataReturn_ok {s : State} {a0} {a1} (h : MemOk s) : OutOk (execLdwDataReturn a0 a1 s) := by
  unfold execLdwDataReturn; refine next_ok ?_; repeat' first
    | with_reducible assumption | with_reducible apply State.loadReturn_ok | with_reducible apply ite_ok
    | with_reducible apply elim_ok | (with_reducible refine foldl_ok (fun _ _ _ => ?_) _ ?_) | intro _
    | (simp only [↓mk_ok_iff]; with_reducible refine MemOk.parts ?_) | split | dsimp only
theorem execCrossingTransfer_ok {s : State} {a0} {a1} {a2} {a3} (h : MemOk s) : OutOk (execCrossingTransfer a0 a1 a2 a3 s) := by
  unfold execCrossingTransfer; refine next_ok ?_; repeat' first
    | with_reducible assumption | with_reducible apply State.passAll_ok | with_reducible apply ite_ok
    | with_reducible apply elim_ok | (with_reducible refine foldl_ok (fun _ _ _ => ?_) _ ?_) | intro _
    | (simp only [↓mk_ok_iff]; with_reducible refine MemOk.parts ?_) | split | dsimp only
theorem execCrossingResend_ok {s : State} {a0} {a1} (h : MemOk s) : OutOk (execCrossingResend a0 a1 s) := by
  unfold execCrossingResend; refine next_ok ?_; repeat' first
    | with_reducible assumption | with_reducible apply State.passAll_ok | with_reducible apply State.transferDone_ok
    | with_reducible apply State.transferLost_ok | with_reducible apply State.fset_ok | with_reducible apply ite_ok
    | with_reducible apply elim_ok | (with_reducible refine foldl_ok (fun _ _ _ => ?_) _ ?_) | intro _
    | (simp only [↓mk_ok_iff]; with_reducible refine MemOk.parts ?_) | split | dsimp only
theorem execIslandWakeDone_ok {s : State} {a0} (h : MemOk s) : OutOk (execIslandWakeDone a0 s) := by
  unfold execIslandWakeDone; refine next_ok ?_; repeat' first
    | with_reducible assumption | with_reducible apply State.passAll_ok | with_reducible apply ite_ok
    | with_reducible apply elim_ok | (with_reducible refine foldl_ok (fun _ _ _ => ?_) _ ?_) | intro _
    | (simp only [↓mk_ok_iff]; with_reducible refine MemOk.parts ?_) | split | dsimp only
theorem execHostReadTimeout_ok {s : State} {a0} (h : MemOk s) : OutOk (execHostReadTimeout a0 s) := by
  unfold execHostReadTimeout; refine next_ok ?_; repeat' first
    | with_reducible assumption | with_reducible apply State.hostReadTimeout_ok | with_reducible apply ite_ok
    | with_reducible apply elim_ok | (with_reducible refine foldl_ok (fun _ _ _ => ?_) _ ?_) | intro _
    | (simp only [↓mk_ok_iff]; with_reducible refine MemOk.parts ?_) | split | dsimp only

end Sys2Proof.Machine
end

