-- ==== Sys2Proof/Laws/Registers.lean ====
section
/-! SUPPORT. Laws of bit fields and of register words: what a read finds after a write. -/

namespace Sys2Proof.Machine

/-- Splitting a number at a bit. -/
theorem shift_of_low {a b k : Nat} (h : a < 2 ^ k) : (a + b * 2 ^ k) / 2 ^ k = b := by
  rw [Nat.add_mul_div_right _ _ (Nat.two_pow_pos k), Nat.div_eq_of_lt h, Nat.zero_add]

/-- The number of `setBits` as its part below the field and the rest. -/
theorem setBits_eq (n lo w v : Nat) :
    setBits n lo w v = n % 2 ^ lo + ((v % 2 ^ w) + n / 2 ^ (lo + w) * 2 ^ w) * 2 ^ lo := by
  have h1 : 2 ^ (lo + w) * (n / 2 ^ (lo + w)) = n / 2 ^ (lo + w) * 2 ^ w * 2 ^ lo := by
    rw [Nat.mul_assoc, ← Nat.pow_add, Nat.add_comm w lo, Nat.mul_comm]
  rw [setBits, h1, Nat.mul_comm (2 ^ lo), Nat.add_mul, Nat.add_assoc]

/-- The field just set is read, cut to its width. -/
@[simp] theorem getBits_setBits_same (n lo w v : Nat) : getBits (setBits n lo w v) lo w = v % 2 ^ w := by
  rw [getBits, setBits_eq, shift_of_low (Nat.mod_lt _ (Nat.two_pow_pos lo)), Nat.add_mul_mod_self_right, Nat.mod_mod]

/-- A field above the field set keeps its value. -/
theorem getBits_setBits_above {n lo w v lo' w' : Nat} (h : lo + w ≤ lo') :
    getBits (setBits n lo w v) lo' w' = getBits n lo' w' := by
  have hlow : n % 2 ^ lo + (v % 2 ^ w) * 2 ^ lo < 2 ^ (lo + w) := by
    have h1 := Nat.mod_lt n (Nat.two_pow_pos lo)
    have h2 : v % 2 ^ w + 1 ≤ 2 ^ w := Nat.mod_lt v (Nat.two_pow_pos w)
    calc n % 2 ^ lo + (v % 2 ^ w) * 2 ^ lo < 2 ^ lo + (v % 2 ^ w) * 2 ^ lo := by omega
      _ = (v % 2 ^ w + 1) * 2 ^ lo := by rw [Nat.add_mul, Nat.one_mul, Nat.add_comm]
      _ ≤ 2 ^ w * 2 ^ lo := Nat.mul_le_mul_right _ h2
      _ = 2 ^ (lo + w) := by rw [← Nat.pow_add, Nat.add_comm]
  have hd : setBits n lo w v / 2 ^ (lo + w) = n / 2 ^ (lo + w) := by
    rw [setBits, Nat.mul_comm (2 ^ lo), Nat.mul_comm (2 ^ (lo + w))]; exact shift_of_low hlow
  obtain ⟨d, rfl⟩ := Nat.le.dest h
  simp only [getBits]
  rw [Nat.pow_add 2 (lo + w) d, ← Nat.div_div_eq_div_mul, hd, Nat.div_div_eq_div_mul]

/-- A field below the field set keeps its value. -/
theorem getBits_setBits_below {n lo w v lo' w' : Nat} (h : lo' + w' ≤ lo) :
    getBits (setBits n lo w v) lo' w' = getBits n lo' w' := by
  have key : ∀ a b : Nat, a % 2 ^ lo = b % 2 ^ lo → getBits a lo' w' = getBits b lo' w' := by
    intro a b hab
    have hm : ∀ x : Nat, x / 2 ^ lo' % 2 ^ w' = x % 2 ^ lo / 2 ^ lo' % 2 ^ w' := by
      intro x
      obtain ⟨d, rfl⟩ := Nat.le.dest h
      have hp : 2 ^ (lo' + w' + d) = 2 ^ lo' * 2 ^ (w' + d) := by rw [← Nat.pow_add, Nat.add_assoc]
      rw [hp, Nat.mod_mul_right_div_self, Nat.pow_add, Nat.mod_mul_right_mod]
    simp only [getBits]
    rw [hm a, hm b, hab]
  refine key _ _ ?_
  rw [setBits_eq, Nat.add_mul_mod_self_right, Nat.mod_mod]

/-- Two fields that do not overlap. -/
def Fld.apart (f g : Fld) : Prop := f.lo + f.width ≤ g.lo ∨ g.lo + g.width ≤ f.lo

/-- A field apart from the field set keeps its value. -/
theorem getBits_setBits_apart {n v : Nat} {f g : Fld} (h : f.apart g) :
    getBits (setBits n f.lo f.width v) g.lo g.width = getBits n g.lo g.width :=
  h.elim getBits_setBits_above getBits_setBits_below

/-- Cutting a number to 32 bits leaves its fields within 32 bits. -/
theorem getBits_mod {n lo w : Nat} (h : lo + w ≤ 32) : getBits (n % 2 ^ 32) lo w = getBits n lo w := by
  obtain ⟨d, hd⟩ := Nat.le.dest h
  have hp : (2 : Nat) ^ 32 = 2 ^ lo * 2 ^ (w + d) := by rw [← Nat.pow_add, ← Nat.add_assoc, hd]
  rw [getBits, getBits, hp, Nat.mod_mul_right_div_self, Nat.pow_add, Nat.mod_mul_right_mod]

/-! Registers. -/

/-- The register just written reads what was written, cut to 32 bits. -/
@[simp] theorem State.rd_wr_same (s : State) (off v : Nat) : (s.wr off v).rd off = v % 2 ^ 32 := by
  by_cases h : v % 2 ^ 32 = resetWord off
  · simp only [State.rd, State.wr, h, if_true, tabGet_tabDel_same]
  · simp only [State.rd, State.wr, if_neg h, tabGet_tabPut_same, BitVec.toNat_ofNat]

/-- Another register reads as before. -/
theorem State.rd_wr_other (s : State) {off off' : Nat} (v : Nat) (h : off' ≠ off) : (s.wr off v).rd off' = s.rd off' := by
  by_cases hv : v % 2 ^ 32 = resetWord off
  · simp only [State.rd, State.wr, if_pos hv, tabGet_tabDel_other h]
  · simp only [State.rd, State.wr, if_neg hv, tabGet_tabPut_other h]

/-- The field just set reads what was set, cut to its width. -/
theorem State.fget_fset_same (s : State) (off : Nat) (f : Fld) (v : Nat) (h : f.lo + f.width ≤ 32) :
    (s.fset off f v).fget off f = v % 2 ^ f.width := by
  rw [State.fget, State.fset, State.rd_wr_same, getBits_mod h, getBits_setBits_same]

/-- A field apart from it reads as before. -/
theorem State.fget_fset_apart (s : State) (off : Nat) {f g : Fld} (v : Nat) (h : f.apart g) (hg : g.lo + g.width ≤ 32) :
    (s.fset off f v).fget off g = s.fget off g := by
  rw [State.fget, State.fset, State.rd_wr_same, getBits_mod hg, getBits_setBits_apart h, State.fget]

/-- A field of another register reads as before. -/
theorem State.fget_fset_other (s : State) {off off' : Nat} (f g : Fld) (v : Nat) (h : off' ≠ off) :
    (s.fset off f v).fget off' g = s.fget off' g := by
  rw [State.fget, State.fset, State.rd_wr_other _ _ h, State.fget]

/-- Another register reads as before when a field is set. -/
theorem State.rd_fset_other (s : State) {off off' : Nat} (f : Fld) (v : Nat) (h : off' ≠ off) :
    (s.fset off f v).rd off' = s.rd off' := by
  rw [State.fset, State.rd_wr_other _ _ h]

/-- A field of another register reads as before when a register is written. -/
theorem State.fget_wr_other (s : State) {off off' : Nat} (g : Fld) (v : Nat) (h : off' ≠ off) :
    (s.wr off v).fget off' g = s.fget off' g := by
  rw [State.fget, State.rd_wr_other _ _ h, State.fget]

/-- Words read depend on the register table alone. -/
theorem State.rd_congr {s t : State} (h : s.regs = t.regs) (off : Nat) : s.rd off = t.rd off := by
  simp only [State.rd, h]

/-- A write that cannot reach its register, or does, according to power and reset (R13, R377, R396): everything `access` can
do. -/
theorem State.access_cases (s : State) (off : Nat) (f : State → State) :
    (s.inReset || (s.safe && !safeOffset off)) = true ∧ s.access off f = s ∨
    (s.inReset || (s.safe && !safeOffset off)) = false ∧ s.islandOn (islandOf off) = true ∧ s.access off f = f s ∨
    (s.inReset || (s.safe && !safeOffset off)) = false ∧ s.islandOn (islandOf off) = false ∧
      s.access off f = s.sleepAccess (islandOf off) := by
  unfold State.access
  by_cases h1 : (s.inReset || (s.safe && !safeOffset off)) = true
  · exact .inl ⟨h1, by rw [if_pos h1]⟩
  · by_cases h2 : s.islandOn (islandOf off) = true
    · exact .inr (.inl ⟨by simpa using h1, h2, by rw [if_neg h1, if_pos h2]⟩)
    · exact .inr (.inr ⟨by simpa using h1, by simpa using h2, by rw [if_neg h1, if_neg h2]⟩)

end Sys2Proof.Machine
end

