-- ==== Sys2Proof/Laws/State.lean ====
section
/-! SUPPORT. Each basic update of the state leaves every field but its own; true by rfl, so that no proof unfolds a record
update. -/

namespace Sys2Proof.Machine

/-- A sequencer just set is read. -/
@[simp] theorem State.seq_setSeq_same (s : State) (q : Nat) (x : Seq) : (s.setSeq q x).seq q = x := by
  simp [State.seq, State.setSeq, tabGet_tabPut_same]
/-- Another sequencer is as before. -/
theorem State.seq_setSeq_other (s : State) {q q' : Nat} (x : Seq) (h : q' ≠ q) : (s.setSeq q x).seq q' = s.seq q' := by
  simp [State.seq, State.setSeq, tabGet_tabPut_other h]
/-- A sequencer is as before when no sequencer changed. -/
@[simp] theorem State.seq_wr (s : State) (off v q : Nat) : (s.wr off v).seq q = s.seq q := rfl
/-- Registers are as before when a sequencer is set. -/
@[simp] theorem State.rd_setSeq (s : State) (q : Nat) (x : Seq) (off : Nat) : (s.setSeq q x).rd off = s.rd off := rfl
/-- Fields are as before when a sequencer is set. -/
@[simp] theorem State.fget_setSeq (s : State) (q : Nat) (x : Seq) (off : Nat) (f : Fld) :
    (s.setSeq q x).fget off f = s.fget off f := rfl
/-- A sequencer is as before when a field is set. -/
@[simp] theorem State.seq_fset (s : State) (off : Nat) (f : Fld) (v q : Nat) : (s.fset off f v).seq q = s.seq q := rfl
/-- A function's configuration space just set is read. -/
@[simp] theorem State.fn_setFn_same (s : State) (f : Nat) (c : PciFn) : (s.setFn f c).fn f = c := by
  simp [State.fn, State.setFn, tabGet_tabPut_same]
/-- A raster just set is read. -/
@[simp] theorem State.head_setHead_same (s : State) (h : Nat) (r : HeadRun) : (s.setHead h r).head h = r := by
  simp [State.head, State.setHead, tabGet_tabPut_same]
/-- A channel just set is read. -/
@[simp] theorem State.chan_setChan_same (s : State) (c : Nat) (x : Chan) : (s.setChan c x).chan c = x := by
  simp [State.chan, State.setChan, tabGet_tabPut_same]
/-- A drive just set is read. -/
@[simp] theorem State.drive_setDrive_same (s : State) (d : Nat) (x : Drive) : (s.setDrive d x).drive d = x := by
  simp [State.drive, State.setDrive, tabGet_tabPut_same]

@[simp] theorem State.sid_wr (s : State) (off v : Nat) : (s.wr off v).sid = s.sid := rfl
@[simp] theorem State.fresh_wr (s : State) (off v : Nat) : (s.wr off v).fresh = s.fresh := rfl
@[simp] theorem State.shadow_wr (s : State) (off v : Nat) : (s.wr off v).shadow = s.shadow := rfl
@[simp] theorem State.active_wr (s : State) (off v : Nat) : (s.wr off v).active = s.active := rfl
@[simp] theorem State.mem_wr (s : State) (off v : Nat) : (s.wr off v).mem = s.mem := rfl
@[simp] theorem State.epoch_wr (s : State) (off v : Nat) : (s.wr off v).epoch = s.epoch := rfl
@[simp] theorem State.poison_wr (s : State) (off v : Nat) : (s.wr off v).poison = s.poison := rfl
@[simp] theorem State.frameErrors_wr (s : State) (off v : Nat) : (s.wr off v).frameErrors = s.frameErrors := rfl
@[simp] theorem State.retireQueue_wr (s : State) (off v : Nat) : (s.wr off v).retireQueue = s.retireQueue := rfl
@[simp] theorem State.retiring_wr (s : State) (off v : Nat) : (s.wr off v).retiring = s.retiring := rfl
@[simp] theorem State.retired_wr (s : State) (off v : Nat) : (s.wr off v).retired = s.retired := rfl
@[simp] theorem State.hostTx_wr (s : State) (off v : Nat) : (s.wr off v).hostTx = s.hostTx := rfl
@[simp] theorem State.occs_wr (s : State) (off v : Nat) : (s.wr off v).occs = s.occs := rfl
@[simp] theorem State.pendTime_wr (s : State) (off v : Nat) : (s.wr off v).pendTime = s.pendTime := rfl
@[simp] theorem State.heldSince_wr (s : State) (off v : Nat) : (s.wr off v).heldSince = s.heldSince := rfl
@[simp] theorem State.ringLost_wr (s : State) (off v : Nat) : (s.wr off v).ringLost = s.ringLost := rfl
@[simp] theorem State.stationRecords_wr (s : State) (off v : Nat) : (s.wr off v).stationRecords = s.stationRecords := rfl
@[simp] theorem State.stationLevels_wr (s : State) (off v : Nat) : (s.wr off v).stationLevels = s.stationLevels := rfl
@[simp] theorem State.stationEntry_wr (s : State) (off v : Nat) : (s.wr off v).stationEntry = s.stationEntry := rfl
@[simp] theorem State.modEnd_wr (s : State) (off v : Nat) : (s.wr off v).modEnd = s.modEnd := rfl
@[simp] theorem State.finder_wr (s : State) (off v : Nat) : (s.wr off v).finder = s.finder := rfl
@[simp] theorem State.wakeN_wr (s : State) (off v : Nat) : (s.wr off v).wakeN = s.wakeN := rfl
@[simp] theorem State.seqs_wr (s : State) (off v : Nat) : (s.wr off v).seqs = s.seqs := rfl
@[simp] theorem State.shadowTurn_wr (s : State) (off v : Nat) : (s.wr off v).shadowTurn = s.shadowTurn := rfl
@[simp] theorem State.benchQ_wr (s : State) (off v : Nat) : (s.wr off v).benchQ = s.benchQ := rfl
@[simp] theorem State.fns_wr (s : State) (off v : Nat) : (s.wr off v).fns = s.fns := rfl
@[simp] theorem State.heads_wr (s : State) (off v : Nat) : (s.wr off v).heads = s.heads := rfl
@[simp] theorem State.commits_wr (s : State) (off v : Nat) : (s.wr off v).commits = s.commits := rfl
@[simp] theorem State.nextCommit_wr (s : State) (off v : Nat) : (s.wr off v).nextCommit = s.nextCommit := rfl
@[simp] theorem State.admitted_wr (s : State) (off v : Nat) : (s.wr off v).admitted = s.admitted := rfl
@[simp] theorem State.activePlans_wr (s : State) (off v : Nat) : (s.wr off v).activePlans = s.activePlans := rfl
@[simp] theorem State.gcTokens_wr (s : State) (off v : Nat) : (s.wr off v).gcTokens = s.gcTokens := rfl
@[simp] theorem State.pmapStamp_wr (s : State) (off v : Nat) : (s.wr off v).pmapStamp = s.pmapStamp := rfl
@[simp] theorem State.mcBusy_wr (s : State) (off v : Nat) : (s.wr off v).mcBusy = s.mcBusy := rfl
@[simp] theorem State.drives_wr (s : State) (off v : Nat) : (s.wr off v).drives = s.drives := rfl
@[simp] theorem State.slots_wr (s : State) (off v : Nat) : (s.wr off v).slots = s.slots := rfl
@[simp] theorem State.pipeRoles_wr (s : State) (off v : Nat) : (s.wr off v).pipeRoles = s.pipeRoles := rfl
@[simp] theorem State.splits_wr (s : State) (off v : Nat) : (s.wr off v).splits = s.splits := rfl
@[simp] theorem State.apertures_wr (s : State) (off v : Nat) : (s.wr off v).apertures = s.apertures := rfl
@[simp] theorem State.benchGroups_wr (s : State) (off v : Nat) : (s.wr off v).benchGroups = s.benchGroups := rfl
@[simp] theorem State.spareFor_wr (s : State) (off v : Nat) : (s.wr off v).spareFor = s.spareFor := rfl
@[simp] theorem State.alarmsSpent_wr (s : State) (off v : Nat) : (s.wr off v).alarmsSpent = s.alarmsSpent := rfl
@[simp] theorem State.flashLog_wr (s : State) (off v : Nat) : (s.wr off v).flashLog = s.flashLog := rfl
@[simp] theorem State.ptmOffset_wr (s : State) (off v : Nat) : (s.wr off v).ptmOffset = s.ptmOffset := rfl
@[simp] theorem State.tags_wr (s : State) (off v : Nat) : (s.wr off v).tags = s.tags := rfl
@[simp] theorem State.landed_wr (s : State) (off v : Nat) : (s.wr off v).landed = s.landed := rfl
@[simp] theorem State.hostReads_wr (s : State) (off v : Nat) : (s.wr off v).hostReads = s.hostReads := rfl
@[simp] theorem State.nextRead_wr (s : State) (off v : Nat) : (s.wr off v).nextRead = s.nextRead := rfl
@[simp] theorem State.beGap_wr (s : State) (off v : Nat) : (s.wr off v).beGap = s.beGap := rfl
@[simp] theorem State.shown_wr (s : State) (off v : Nat) : (s.wr off v).shown = s.shown := rfl
@[simp] theorem State.selectedAt_wr (s : State) (off v : Nat) : (s.wr off v).selectedAt = s.selectedAt := rfl
@[simp] theorem State.holds_wr (s : State) (off v : Nat) : (s.wr off v).holds = s.holds := rfl
@[simp] theorem State.frames_wr (s : State) (off v : Nat) : (s.wr off v).frames = s.frames := rfl
@[simp] theorem State.staticRun_wr (s : State) (off v : Nat) : (s.wr off v).staticRun = s.staticRun := rfl
@[simp] theorem State.retained_wr (s : State) (off v : Nat) : (s.wr off v).retained = s.retained := rfl
@[simp] theorem State.pipeSubst_wr (s : State) (off v : Nat) : (s.wr off v).pipeSubst = s.pipeSubst := rfl
@[simp] theorem State.waking_wr (s : State) (off v : Nat) : (s.wr off v).waking = s.waking := rfl
@[simp] theorem State.timedOut_wr (s : State) (off v : Nat) : (s.wr off v).timedOut = s.timedOut := rfl
@[simp] theorem State.redirected_wr (s : State) (off v : Nat) : (s.wr off v).redirected = s.redirected := rfl
@[simp] theorem State.pmeWait_wr (s : State) (off v : Nat) : (s.wr off v).pmeWait = s.pmeWait := rfl
@[simp] theorem State.ports_wr (s : State) (off v : Nat) : (s.wr off v).ports = s.ports := rfl
@[simp] theorem State.steering_wr (s : State) (off v : Nat) : (s.wr off v).steering = s.steering := rfl
@[simp] theorem State.switches_wr (s : State) (off v : Nat) : (s.wr off v).switches = s.switches := rfl
@[simp] theorem State.shedSteps_wr (s : State) (off v : Nat) : (s.wr off v).shedSteps = s.shedSteps := rfl
@[simp] theorem State.hostGone_wr (s : State) (off v : Nat) : (s.wr off v).hostGone = s.hostGone := rfl
@[simp] theorem State.linkBackAt_wr (s : State) (off v : Nat) : (s.wr off v).linkBackAt = s.linkBackAt := rfl
@[simp] theorem State.committedAt_wr (s : State) (off v : Nat) : (s.wr off v).committedAt = s.committedAt := rfl
@[simp] theorem State.selectedFor_wr (s : State) (off v : Nat) : (s.wr off v).selectedFor = s.selectedFor := rfl
@[simp] theorem State.mismatch_wr (s : State) (off v : Nat) : (s.wr off v).mismatch = s.mismatch := rfl
@[simp] theorem State.wbBusy_wr (s : State) (off v : Nat) : (s.wr off v).wbBusy = s.wbBusy := rfl
@[simp] theorem State.swaps_wr (s : State) (off v : Nat) : (s.wr off v).swaps = s.swaps := rfl
@[simp] theorem State.streams_wr (s : State) (off v : Nat) : (s.wr off v).streams = s.streams := rfl
@[simp] theorem State.slotRanges_wr (s : State) (off v : Nat) : (s.wr off v).slotRanges = s.slotRanges := rfl
@[simp] theorem State.chans_wr (s : State) (off v : Nat) : (s.wr off v).chans = s.chans := rfl
@[simp] theorem State.moverTurn_wr (s : State) (off v : Nat) : (s.wr off v).moverTurn = s.moverTurn := rfl
@[simp] theorem State.moverAt_wr (s : State) (off v : Nat) : (s.wr off v).moverAt = s.moverAt := rfl
@[simp] theorem State.moverBurst_wr (s : State) (off v : Nat) : (s.wr off v).moverBurst = s.moverBurst := rfl
@[simp] theorem State.jrn_wr (s : State) (off v : Nat) : (s.wr off v).jrn = s.jrn := rfl
@[simp] theorem State.epochNo_wr (s : State) (off v : Nat) : (s.wr off v).epochNo = s.epochNo := rfl
@[simp] theorem State.flash_wr (s : State) (off v : Nat) : (s.wr off v).flash = s.flash := rfl
@[simp] theorem State.plateMem_wr (s : State) (off v : Nat) : (s.wr off v).plateMem = s.plateMem := rfl
@[simp] theorem State.platePoison_wr (s : State) (off v : Nat) : (s.wr off v).platePoison = s.platePoison := rfl
@[simp] theorem State.plateAnswers_wr (s : State) (off v : Nat) : (s.wr off v).plateAnswers = s.plateAnswers := rfl
@[simp] theorem State.handovers_wr (s : State) (off v : Nat) : (s.wr off v).handovers = s.handovers := rfl
@[simp] theorem State.blinks_wr (s : State) (off v : Nat) : (s.wr off v).blinks = s.blinks := rfl
@[simp] theorem State.subst_wr (s : State) (off v : Nat) : (s.wr off v).subst = s.subst := rfl
@[simp] theorem State.substWait_wr (s : State) (off v : Nat) : (s.wr off v).substWait = s.substWait := rfl
@[simp] theorem State.exitTo_wr (s : State) (off v : Nat) : (s.wr off v).exitTo = s.exitTo := rfl
@[simp] theorem State.pwrTarget_wr (s : State) (off v : Nat) : (s.wr off v).pwrTarget = s.pwrTarget := rfl
@[simp] theorem State.heldOccs_wr (s : State) (off v : Nat) : (s.wr off v).heldOccs = s.heldOccs := rfl
@[simp] theorem State.reloaded_wr (s : State) (off v : Nat) : (s.wr off v).reloaded = s.reloaded := rfl
@[simp] theorem State.perst_wr (s : State) (off v : Nat) : (s.wr off v).perst = s.perst := rfl
@[simp] theorem State.railBad_wr (s : State) (off v : Nat) : (s.wr off v).railBad = s.railBad := rfl
@[simp] theorem State.tripped_wr (s : State) (off v : Nat) : (s.wr off v).tripped = s.tripped := rfl
@[simp] theorem State.posting_wr (s : State) (off v : Nat) : (s.wr off v).posting = s.posting := rfl
@[simp] theorem State.plateEpoch_wr (s : State) (off v : Nat) : (s.wr off v).plateEpoch = s.plateEpoch := rfl
@[simp] theorem State.crossings_wr (s : State) (off v : Nat) : (s.wr off v).crossings = s.crossings := rfl
@[simp] theorem State.ide_wr (s : State) (off v : Nat) : (s.wr off v).ide = s.ide := rfl
@[simp] theorem State.ltrSent_wr (s : State) (off v : Nat) : (s.wr off v).ltrSent = s.ltrSent := rfl
@[simp] theorem State.thermal_wr (s : State) (off v : Nat) : (s.wr off v).thermal = s.thermal := rfl
@[simp] theorem State.pipeCe_wr (s : State) (off v : Nat) : (s.wr off v).pipeCe = s.pipeCe := rfl
@[simp] theorem State.testing_wr (s : State) (off v : Nat) : (s.wr off v).testing = s.testing := rfl
@[simp] theorem State.ssCmd_wr (s : State) (off v : Nat) : (s.wr off v).ssCmd = s.ssCmd := rfl
@[simp] theorem State.stationDown_wr (s : State) (off v : Nat) : (s.wr off v).stationDown = s.stationDown := rfl
@[simp] theorem State.rollback_wr (s : State) (off v : Nat) : (s.wr off v).rollback = s.rollback := rfl
@[simp] theorem State.resetHeld_wr (s : State) (off v : Nat) : (s.wr off v).resetHeld = s.resetHeld := rfl
@[simp] theorem State.doeWait_wr (s : State) (off v : Nat) : (s.wr off v).doeWait = s.doeWait := rfl
@[simp] theorem State.mcQueue_wr (s : State) (off v : Nat) : (s.wr off v).mcQueue = s.mcQueue := rfl
@[simp] theorem State.mcTurn_wr (s : State) (off v : Nat) : (s.wr off v).mcTurn = s.mcTurn := rfl
@[simp] theorem State.found_wr (s : State) (off v : Nat) : (s.wr off v).found = s.found := rfl
@[simp] theorem State.sidFrac_wr (s : State) (off v : Nat) : (s.wr off v).sidFrac = s.sidFrac := rfl
@[simp] theorem State.sidRate_wr (s : State) (off v : Nat) : (s.wr off v).sidRate = s.sidRate := rfl
@[simp] theorem State.ptmAt_wr (s : State) (off v : Nat) : (s.wr off v).ptmAt = s.ptmAt := rfl
@[simp] theorem State.outRise_wr (s : State) (off v : Nat) : (s.wr off v).outRise = s.outRise := rfl
@[simp] theorem State.rowOpen_wr (s : State) (off v : Nat) : (s.wr off v).rowOpen = s.rowOpen := rfl
@[simp] theorem State.ticked_wr (s : State) (off v : Nat) : (s.wr off v).ticked = s.ticked := rfl
@[simp] theorem State.held_wr (s : State) (off v : Nat) : (s.wr off v).held = s.held := rfl
@[simp] theorem State.sealAt_wr (s : State) (off v : Nat) : (s.wr off v).sealAt = s.sealAt := rfl
@[simp] theorem State.march_wr (s : State) (off v : Nat) : (s.wr off v).march = s.march := rfl
@[simp] theorem State.avs_wr (s : State) (off v : Nat) : (s.wr off v).avs = s.avs := rfl
@[simp] theorem State.pending_wr (s : State) (off v : Nat) : (s.wr off v).pending = s.pending := rfl
@[simp] theorem State.sid_fset (s : State) (off : Nat) (f : Fld) (v : Nat) : (s.fset off f v).sid = s.sid := rfl
@[simp] theorem State.fresh_fset (s : State) (off : Nat) (f : Fld) (v : Nat) : (s.fset off f v).fresh = s.fresh := rfl
@[simp] theorem State.shadow_fset (s : State) (off : Nat) (f : Fld) (v : Nat) : (s.fset off f v).shadow = s.shadow := rfl
@[simp] theorem State.active_fset (s : State) (off : Nat) (f : Fld) (v : Nat) : (s.fset off f v).active = s.active := rfl
@[simp] theorem State.mem_fset (s : State) (off : Nat) (f : Fld) (v : Nat) : (s.fset off f v).mem = s.mem := rfl
@[simp] theorem State.epoch_fset (s : State) (off : Nat) (f : Fld) (v : Nat) : (s.fset off f v).epoch = s.epoch := rfl
@[simp] theorem State.poison_fset (s : State) (off : Nat) (f : Fld) (v : Nat) : (s.fset off f v).poison = s.poison := rfl
@[simp] theorem State.frameErrors_fset (s : State) (off : Nat) (f : Fld) (v : Nat) : (s.fset off f v).frameErrors = s.frameErrors := rfl
@[simp] theorem State.retireQueue_fset (s : State) (off : Nat) (f : Fld) (v : Nat) : (s.fset off f v).retireQueue = s.retireQueue := rfl
@[simp] theorem State.retiring_fset (s : State) (off : Nat) (f : Fld) (v : Nat) : (s.fset off f v).retiring = s.retiring := rfl
@[simp] theorem State.retired_fset (s : State) (off : Nat) (f : Fld) (v : Nat) : (s.fset off f v).retired = s.retired := rfl
@[simp] theorem State.hostTx_fset (s : State) (off : Nat) (f : Fld) (v : Nat) : (s.fset off f v).hostTx = s.hostTx := rfl
@[simp] theorem State.occs_fset (s : State) (off : Nat) (f : Fld) (v : Nat) : (s.fset off f v).occs = s.occs := rfl
@[simp] theorem State.pendTime_fset (s : State) (off : Nat) (f : Fld) (v : Nat) : (s.fset off f v).pendTime = s.pendTime := rfl
@[simp] theorem State.heldSince_fset (s : State) (off : Nat) (f : Fld) (v : Nat) : (s.fset off f v).heldSince = s.heldSince := rfl
@[simp] theorem State.ringLost_fset (s : State) (off : Nat) (f : Fld) (v : Nat) : (s.fset off f v).ringLost = s.ringLost := rfl
@[simp] theorem State.stationRecords_fset (s : State) (off : Nat) (f : Fld) (v : Nat) : (s.fset off f v).stationRecords = s.stationRecords := rfl
@[simp] theorem State.stationLevels_fset (s : State) (off : Nat) (f : Fld) (v : Nat) : (s.fset off f v).stationLevels = s.stationLevels := rfl
@[simp] theorem State.stationEntry_fset (s : State) (off : Nat) (f : Fld) (v : Nat) : (s.fset off f v).stationEntry = s.stationEntry := rfl
@[simp] theorem State.modEnd_fset (s : State) (off : Nat) (f : Fld) (v : Nat) : (s.fset off f v).modEnd = s.modEnd := rfl
@[simp] theorem State.finder_fset (s : State) (off : Nat) (f : Fld) (v : Nat) : (s.fset off f v).finder = s.finder := rfl
@[simp] theorem State.wakeN_fset (s : State) (off : Nat) (f : Fld) (v : Nat) : (s.fset off f v).wakeN = s.wakeN := rfl
@[simp] theorem State.seqs_fset (s : State) (off : Nat) (f : Fld) (v : Nat) : (s.fset off f v).seqs = s.seqs := rfl
@[simp] theorem State.shadowTurn_fset (s : State) (off : Nat) (f : Fld) (v : Nat) : (s.fset off f v).shadowTurn = s.shadowTurn := rfl
@[simp] theorem State.benchQ_fset (s : State) (off : Nat) (f : Fld) (v : Nat) : (s.fset off f v).benchQ = s.benchQ := rfl
@[simp] theorem State.fns_fset (s : State) (off : Nat) (f : Fld) (v : Nat) : (s.fset off f v).fns = s.fns := rfl
@[simp] theorem State.heads_fset (s : State) (off : Nat) (f : Fld) (v : Nat) : (s.fset off f v).heads = s.heads := rfl
@[simp] theorem State.commits_fset (s : State) (off : Nat) (f : Fld) (v : Nat) : (s.fset off f v).commits = s.commits := rfl
@[simp] theorem State.nextCommit_fset (s : State) (off : Nat) (f : Fld) (v : Nat) : (s.fset off f v).nextCommit = s.nextCommit := rfl
@[simp] theorem State.admitted_fset (s : State) (off : Nat) (f : Fld) (v : Nat) : (s.fset off f v).admitted = s.admitted := rfl
@[simp] theorem State.activePlans_fset (s : State) (off : Nat) (f : Fld) (v : Nat) : (s.fset off f v).activePlans = s.activePlans := rfl
@[simp] theorem State.gcTokens_fset (s : State) (off : Nat) (f : Fld) (v : Nat) : (s.fset off f v).gcTokens = s.gcTokens := rfl
@[simp] theorem State.pmapStamp_fset (s : State) (off : Nat) (f : Fld) (v : Nat) : (s.fset off f v).pmapStamp = s.pmapStamp := rfl
@[simp] theorem State.mcBusy_fset (s : State) (off : Nat) (f : Fld) (v : Nat) : (s.fset off f v).mcBusy = s.mcBusy := rfl
@[simp] theorem State.drives_fset (s : State) (off : Nat) (f : Fld) (v : Nat) : (s.fset off f v).drives = s.drives := rfl
@[simp] theorem State.slots_fset (s : State) (off : Nat) (f : Fld) (v : Nat) : (s.fset off f v).slots = s.slots := rfl
@[simp] theorem State.pipeRoles_fset (s : State) (off : Nat) (f : Fld) (v : Nat) : (s.fset off f v).pipeRoles = s.pipeRoles := rfl
@[simp] theorem State.splits_fset (s : State) (off : Nat) (f : Fld) (v : Nat) : (s.fset off f v).splits = s.splits := rfl
@[simp] theorem State.apertures_fset (s : State) (off : Nat) (f : Fld) (v : Nat) : (s.fset off f v).apertures = s.apertures := rfl
@[simp] theorem State.benchGroups_fset (s : State) (off : Nat) (f : Fld) (v : Nat) : (s.fset off f v).benchGroups = s.benchGroups := rfl
@[simp] theorem State.spareFor_fset (s : State) (off : Nat) (f : Fld) (v : Nat) : (s.fset off f v).spareFor = s.spareFor := rfl
@[simp] theorem State.alarmsSpent_fset (s : State) (off : Nat) (f : Fld) (v : Nat) : (s.fset off f v).alarmsSpent = s.alarmsSpent := rfl
@[simp] theorem State.flashLog_fset (s : State) (off : Nat) (f : Fld) (v : Nat) : (s.fset off f v).flashLog = s.flashLog := rfl
@[simp] theorem State.ptmOffset_fset (s : State) (off : Nat) (f : Fld) (v : Nat) : (s.fset off f v).ptmOffset = s.ptmOffset := rfl
@[simp] theorem State.tags_fset (s : State) (off : Nat) (f : Fld) (v : Nat) : (s.fset off f v).tags = s.tags := rfl
@[simp] theorem State.landed_fset (s : State) (off : Nat) (f : Fld) (v : Nat) : (s.fset off f v).landed = s.landed := rfl
@[simp] theorem State.hostReads_fset (s : State) (off : Nat) (f : Fld) (v : Nat) : (s.fset off f v).hostReads = s.hostReads := rfl
@[simp] theorem State.nextRead_fset (s : State) (off : Nat) (f : Fld) (v : Nat) : (s.fset off f v).nextRead = s.nextRead := rfl
@[simp] theorem State.beGap_fset (s : State) (off : Nat) (f : Fld) (v : Nat) : (s.fset off f v).beGap = s.beGap := rfl
@[simp] theorem State.shown_fset (s : State) (off : Nat) (f : Fld) (v : Nat) : (s.fset off f v).shown = s.shown := rfl
@[simp] theorem State.selectedAt_fset (s : State) (off : Nat) (f : Fld) (v : Nat) : (s.fset off f v).selectedAt = s.selectedAt := rfl
@[simp] theorem State.holds_fset (s : State) (off : Nat) (f : Fld) (v : Nat) : (s.fset off f v).holds = s.holds := rfl
@[simp] theorem State.frames_fset (s : State) (off : Nat) (f : Fld) (v : Nat) : (s.fset off f v).frames = s.frames := rfl
@[simp] theorem State.staticRun_fset (s : State) (off : Nat) (f : Fld) (v : Nat) : (s.fset off f v).staticRun = s.staticRun := rfl
@[simp] theorem State.retained_fset (s : State) (off : Nat) (f : Fld) (v : Nat) : (s.fset off f v).retained = s.retained := rfl
@[simp] theorem State.pipeSubst_fset (s : State) (off : Nat) (f : Fld) (v : Nat) : (s.fset off f v).pipeSubst = s.pipeSubst := rfl
@[simp] theorem State.waking_fset (s : State) (off : Nat) (f : Fld) (v : Nat) : (s.fset off f v).waking = s.waking := rfl
@[simp] theorem State.timedOut_fset (s : State) (off : Nat) (f : Fld) (v : Nat) : (s.fset off f v).timedOut = s.timedOut := rfl
@[simp] theorem State.redirected_fset (s : State) (off : Nat) (f : Fld) (v : Nat) : (s.fset off f v).redirected = s.redirected := rfl
@[simp] theorem State.pmeWait_fset (s : State) (off : Nat) (f : Fld) (v : Nat) : (s.fset off f v).pmeWait = s.pmeWait := rfl
@[simp] theorem State.ports_fset (s : State) (off : Nat) (f : Fld) (v : Nat) : (s.fset off f v).ports = s.ports := rfl
@[simp] theorem State.steering_fset (s : State) (off : Nat) (f : Fld) (v : Nat) : (s.fset off f v).steering = s.steering := rfl
@[simp] theorem State.switches_fset (s : State) (off : Nat) (f : Fld) (v : Nat) : (s.fset off f v).switches = s.switches := rfl
@[simp] theorem State.shedSteps_fset (s : State) (off : Nat) (f : Fld) (v : Nat) : (s.fset off f v).shedSteps = s.shedSteps := rfl
@[simp] theorem State.hostGone_fset (s : State) (off : Nat) (f : Fld) (v : Nat) : (s.fset off f v).hostGone = s.hostGone := rfl
@[simp] theorem State.linkBackAt_fset (s : State) (off : Nat) (f : Fld) (v : Nat) : (s.fset off f v).linkBackAt = s.linkBackAt := rfl
@[simp] theorem State.committedAt_fset (s : State) (off : Nat) (f : Fld) (v : Nat) : (s.fset off f v).committedAt = s.committedAt := rfl
@[simp] theorem State.selectedFor_fset (s : State) (off : Nat) (f : Fld) (v : Nat) : (s.fset off f v).selectedFor = s.selectedFor := rfl
@[simp] theorem State.mismatch_fset (s : State) (off : Nat) (f : Fld) (v : Nat) : (s.fset off f v).mismatch = s.mismatch := rfl
@[simp] theorem State.wbBusy_fset (s : State) (off : Nat) (f : Fld) (v : Nat) : (s.fset off f v).wbBusy = s.wbBusy := rfl
@[simp] theorem State.swaps_fset (s : State) (off : Nat) (f : Fld) (v : Nat) : (s.fset off f v).swaps = s.swaps := rfl
@[simp] theorem State.streams_fset (s : State) (off : Nat) (f : Fld) (v : Nat) : (s.fset off f v).streams = s.streams := rfl
@[simp] theorem State.slotRanges_fset (s : State) (off : Nat) (f : Fld) (v : Nat) : (s.fset off f v).slotRanges = s.slotRanges := rfl
@[simp] theorem State.chans_fset (s : State) (off : Nat) (f : Fld) (v : Nat) : (s.fset off f v).chans = s.chans := rfl
@[simp] theorem State.moverTurn_fset (s : State) (off : Nat) (f : Fld) (v : Nat) : (s.fset off f v).moverTurn = s.moverTurn := rfl
@[simp] theorem State.moverAt_fset (s : State) (off : Nat) (f : Fld) (v : Nat) : (s.fset off f v).moverAt = s.moverAt := rfl
@[simp] theorem State.moverBurst_fset (s : State) (off : Nat) (f : Fld) (v : Nat) : (s.fset off f v).moverBurst = s.moverBurst := rfl
@[simp] theorem State.jrn_fset (s : State) (off : Nat) (f : Fld) (v : Nat) : (s.fset off f v).jrn = s.jrn := rfl
@[simp] theorem State.epochNo_fset (s : State) (off : Nat) (f : Fld) (v : Nat) : (s.fset off f v).epochNo = s.epochNo := rfl
@[simp] theorem State.flash_fset (s : State) (off : Nat) (f : Fld) (v : Nat) : (s.fset off f v).flash = s.flash := rfl
@[simp] theorem State.plateMem_fset (s : State) (off : Nat) (f : Fld) (v : Nat) : (s.fset off f v).plateMem = s.plateMem := rfl
@[simp] theorem State.platePoison_fset (s : State) (off : Nat) (f : Fld) (v : Nat) : (s.fset off f v).platePoison = s.platePoison := rfl
@[simp] theorem State.plateAnswers_fset (s : State) (off : Nat) (f : Fld) (v : Nat) : (s.fset off f v).plateAnswers = s.plateAnswers := rfl
@[simp] theorem State.handovers_fset (s : State) (off : Nat) (f : Fld) (v : Nat) : (s.fset off f v).handovers = s.handovers := rfl
@[simp] theorem State.blinks_fset (s : State) (off : Nat) (f : Fld) (v : Nat) : (s.fset off f v).blinks = s.blinks := rfl
@[simp] theorem State.subst_fset (s : State) (off : Nat) (f : Fld) (v : Nat) : (s.fset off f v).subst = s.subst := rfl
@[simp] theorem State.substWait_fset (s : State) (off : Nat) (f : Fld) (v : Nat) : (s.fset off f v).substWait = s.substWait := rfl
@[simp] theorem State.exitTo_fset (s : State) (off : Nat) (f : Fld) (v : Nat) : (s.fset off f v).exitTo = s.exitTo := rfl
@[simp] theorem State.pwrTarget_fset (s : State) (off : Nat) (f : Fld) (v : Nat) : (s.fset off f v).pwrTarget = s.pwrTarget := rfl
@[simp] theorem State.heldOccs_fset (s : State) (off : Nat) (f : Fld) (v : Nat) : (s.fset off f v).heldOccs = s.heldOccs := rfl
@[simp] theorem State.reloaded_fset (s : State) (off : Nat) (f : Fld) (v : Nat) : (s.fset off f v).reloaded = s.reloaded := rfl
@[simp] theorem State.perst_fset (s : State) (off : Nat) (f : Fld) (v : Nat) : (s.fset off f v).perst = s.perst := rfl
@[simp] theorem State.railBad_fset (s : State) (off : Nat) (f : Fld) (v : Nat) : (s.fset off f v).railBad = s.railBad := rfl
@[simp] theorem State.tripped_fset (s : State) (off : Nat) (f : Fld) (v : Nat) : (s.fset off f v).tripped = s.tripped := rfl
@[simp] theorem State.posting_fset (s : State) (off : Nat) (f : Fld) (v : Nat) : (s.fset off f v).posting = s.posting := rfl
@[simp] theorem State.plateEpoch_fset (s : State) (off : Nat) (f : Fld) (v : Nat) : (s.fset off f v).plateEpoch = s.plateEpoch := rfl
@[simp] theorem State.crossings_fset (s : State) (off : Nat) (f : Fld) (v : Nat) : (s.fset off f v).crossings = s.crossings := rfl
@[simp] theorem State.ide_fset (s : State) (off : Nat) (f : Fld) (v : Nat) : (s.fset off f v).ide = s.ide := rfl
@[simp] theorem State.ltrSent_fset (s : State) (off : Nat) (f : Fld) (v : Nat) : (s.fset off f v).ltrSent = s.ltrSent := rfl
@[simp] theorem State.thermal_fset (s : State) (off : Nat) (f : Fld) (v : Nat) : (s.fset off f v).thermal = s.thermal := rfl
@[simp] theorem State.pipeCe_fset (s : State) (off : Nat) (f : Fld) (v : Nat) : (s.fset off f v).pipeCe = s.pipeCe := rfl
@[simp] theorem State.testing_fset (s : State) (off : Nat) (f : Fld) (v : Nat) : (s.fset off f v).testing = s.testing := rfl
@[simp] theorem State.ssCmd_fset (s : State) (off : Nat) (f : Fld) (v : Nat) : (s.fset off f v).ssCmd = s.ssCmd := rfl
@[simp] theorem State.stationDown_fset (s : State) (off : Nat) (f : Fld) (v : Nat) : (s.fset off f v).stationDown = s.stationDown := rfl
@[simp] theorem State.rollback_fset (s : State) (off : Nat) (f : Fld) (v : Nat) : (s.fset off f v).rollback = s.rollback := rfl
@[simp] theorem State.resetHeld_fset (s : State) (off : Nat) (f : Fld) (v : Nat) : (s.fset off f v).resetHeld = s.resetHeld := rfl
@[simp] theorem State.doeWait_fset (s : State) (off : Nat) (f : Fld) (v : Nat) : (s.fset off f v).doeWait = s.doeWait := rfl
@[simp] theorem State.mcQueue_fset (s : State) (off : Nat) (f : Fld) (v : Nat) : (s.fset off f v).mcQueue = s.mcQueue := rfl
@[simp] theorem State.mcTurn_fset (s : State) (off : Nat) (f : Fld) (v : Nat) : (s.fset off f v).mcTurn = s.mcTurn := rfl
@[simp] theorem State.found_fset (s : State) (off : Nat) (f : Fld) (v : Nat) : (s.fset off f v).found = s.found := rfl
@[simp] theorem State.sidFrac_fset (s : State) (off : Nat) (f : Fld) (v : Nat) : (s.fset off f v).sidFrac = s.sidFrac := rfl
@[simp] theorem State.sidRate_fset (s : State) (off : Nat) (f : Fld) (v : Nat) : (s.fset off f v).sidRate = s.sidRate := rfl
@[simp] theorem State.ptmAt_fset (s : State) (off : Nat) (f : Fld) (v : Nat) : (s.fset off f v).ptmAt = s.ptmAt := rfl
@[simp] theorem State.outRise_fset (s : State) (off : Nat) (f : Fld) (v : Nat) : (s.fset off f v).outRise = s.outRise := rfl
@[simp] theorem State.rowOpen_fset (s : State) (off : Nat) (f : Fld) (v : Nat) : (s.fset off f v).rowOpen = s.rowOpen := rfl
@[simp] theorem State.ticked_fset (s : State) (off : Nat) (f : Fld) (v : Nat) : (s.fset off f v).ticked = s.ticked := rfl
@[simp] theorem State.held_fset (s : State) (off : Nat) (f : Fld) (v : Nat) : (s.fset off f v).held = s.held := rfl
@[simp] theorem State.sealAt_fset (s : State) (off : Nat) (f : Fld) (v : Nat) : (s.fset off f v).sealAt = s.sealAt := rfl
@[simp] theorem State.march_fset (s : State) (off : Nat) (f : Fld) (v : Nat) : (s.fset off f v).march = s.march := rfl
@[simp] theorem State.avs_fset (s : State) (off : Nat) (f : Fld) (v : Nat) : (s.fset off f v).avs = s.avs := rfl
@[simp] theorem State.pending_fset (s : State) (off : Nat) (f : Fld) (v : Nat) : (s.fset off f v).pending = s.pending := rfl
@[simp] theorem State.sid_setSeq (s : State) (q : Nat) (x : Seq) : (s.setSeq q x).sid = s.sid := rfl
@[simp] theorem State.fresh_setSeq (s : State) (q : Nat) (x : Seq) : (s.setSeq q x).fresh = s.fresh := rfl
@[simp] theorem State.regs_setSeq (s : State) (q : Nat) (x : Seq) : (s.setSeq q x).regs = s.regs := rfl
@[simp] theorem State.shadow_setSeq (s : State) (q : Nat) (x : Seq) : (s.setSeq q x).shadow = s.shadow := rfl
@[simp] theorem State.active_setSeq (s : State) (q : Nat) (x : Seq) : (s.setSeq q x).active = s.active := rfl
@[simp] theorem State.mem_setSeq (s : State) (q : Nat) (x : Seq) : (s.setSeq q x).mem = s.mem := rfl
@[simp] theorem State.epoch_setSeq (s : State) (q : Nat) (x : Seq) : (s.setSeq q x).epoch = s.epoch := rfl
@[simp] theorem State.poison_setSeq (s : State) (q : Nat) (x : Seq) : (s.setSeq q x).poison = s.poison := rfl
@[simp] theorem State.frameErrors_setSeq (s : State) (q : Nat) (x : Seq) : (s.setSeq q x).frameErrors = s.frameErrors := rfl
@[simp] theorem State.retireQueue_setSeq (s : State) (q : Nat) (x : Seq) : (s.setSeq q x).retireQueue = s.retireQueue := rfl
@[simp] theorem State.retiring_setSeq (s : State) (q : Nat) (x : Seq) : (s.setSeq q x).retiring = s.retiring := rfl
@[simp] theorem State.retired_setSeq (s : State) (q : Nat) (x : Seq) : (s.setSeq q x).retired = s.retired := rfl
@[simp] theorem State.hostTx_setSeq (s : State) (q : Nat) (x : Seq) : (s.setSeq q x).hostTx = s.hostTx := rfl
@[simp] theorem State.occs_setSeq (s : State) (q : Nat) (x : Seq) : (s.setSeq q x).occs = s.occs := rfl
@[simp] theorem State.pendTime_setSeq (s : State) (q : Nat) (x : Seq) : (s.setSeq q x).pendTime = s.pendTime := rfl
@[simp] theorem State.heldSince_setSeq (s : State) (q : Nat) (x : Seq) : (s.setSeq q x).heldSince = s.heldSince := rfl
@[simp] theorem State.ringLost_setSeq (s : State) (q : Nat) (x : Seq) : (s.setSeq q x).ringLost = s.ringLost := rfl
@[simp] theorem State.stationRecords_setSeq (s : State) (q : Nat) (x : Seq) : (s.setSeq q x).stationRecords = s.stationRecords := rfl
@[simp] theorem State.stationLevels_setSeq (s : State) (q : Nat) (x : Seq) : (s.setSeq q x).stationLevels = s.stationLevels := rfl
@[simp] theorem State.stationEntry_setSeq (s : State) (q : Nat) (x : Seq) : (s.setSeq q x).stationEntry = s.stationEntry := rfl
@[simp] theorem State.modEnd_setSeq (s : State) (q : Nat) (x : Seq) : (s.setSeq q x).modEnd = s.modEnd := rfl
@[simp] theorem State.finder_setSeq (s : State) (q : Nat) (x : Seq) : (s.setSeq q x).finder = s.finder := rfl
@[simp] theorem State.wakeN_setSeq (s : State) (q : Nat) (x : Seq) : (s.setSeq q x).wakeN = s.wakeN := rfl
@[simp] theorem State.shadowTurn_setSeq (s : State) (q : Nat) (x : Seq) : (s.setSeq q x).shadowTurn = s.shadowTurn := rfl
@[simp] theorem State.benchQ_setSeq (s : State) (q : Nat) (x : Seq) : (s.setSeq q x).benchQ = s.benchQ := rfl
@[simp] theorem State.fns_setSeq (s : State) (q : Nat) (x : Seq) : (s.setSeq q x).fns = s.fns := rfl
@[simp] theorem State.heads_setSeq (s : State) (q : Nat) (x : Seq) : (s.setSeq q x).heads = s.heads := rfl
@[simp] theorem State.commits_setSeq (s : State) (q : Nat) (x : Seq) : (s.setSeq q x).commits = s.commits := rfl
@[simp] theorem State.nextCommit_setSeq (s : State) (q : Nat) (x : Seq) : (s.setSeq q x).nextCommit = s.nextCommit := rfl
@[simp] theorem State.admitted_setSeq (s : State) (q : Nat) (x : Seq) : (s.setSeq q x).admitted = s.admitted := rfl
@[simp] theorem State.activePlans_setSeq (s : State) (q : Nat) (x : Seq) : (s.setSeq q x).activePlans = s.activePlans := rfl
@[simp] theorem State.gcTokens_setSeq (s : State) (q : Nat) (x : Seq) : (s.setSeq q x).gcTokens = s.gcTokens := rfl
@[simp] theorem State.pmapStamp_setSeq (s : State) (q : Nat) (x : Seq) : (s.setSeq q x).pmapStamp = s.pmapStamp := rfl
@[simp] theorem State.mcBusy_setSeq (s : State) (q : Nat) (x : Seq) : (s.setSeq q x).mcBusy = s.mcBusy := rfl
@[simp] theorem State.drives_setSeq (s : State) (q : Nat) (x : Seq) : (s.setSeq q x).drives = s.drives := rfl
@[simp] theorem State.slots_setSeq (s : State) (q : Nat) (x : Seq) : (s.setSeq q x).slots = s.slots := rfl
@[simp] theorem State.pipeRoles_setSeq (s : State) (q : Nat) (x : Seq) : (s.setSeq q x).pipeRoles = s.pipeRoles := rfl
@[simp] theorem State.splits_setSeq (s : State) (q : Nat) (x : Seq) : (s.setSeq q x).splits = s.splits := rfl
@[simp] theorem State.apertures_setSeq (s : State) (q : Nat) (x : Seq) : (s.setSeq q x).apertures = s.apertures := rfl
@[simp] theorem State.benchGroups_setSeq (s : State) (q : Nat) (x : Seq) : (s.setSeq q x).benchGroups = s.benchGroups := rfl
@[simp] theorem State.spareFor_setSeq (s : State) (q : Nat) (x : Seq) : (s.setSeq q x).spareFor = s.spareFor := rfl
@[simp] theorem State.alarmsSpent_setSeq (s : State) (q : Nat) (x : Seq) : (s.setSeq q x).alarmsSpent = s.alarmsSpent := rfl
@[simp] theorem State.flashLog_setSeq (s : State) (q : Nat) (x : Seq) : (s.setSeq q x).flashLog = s.flashLog := rfl
@[simp] theorem State.ptmOffset_setSeq (s : State) (q : Nat) (x : Seq) : (s.setSeq q x).ptmOffset = s.ptmOffset := rfl
@[simp] theorem State.tags_setSeq (s : State) (q : Nat) (x : Seq) : (s.setSeq q x).tags = s.tags := rfl
@[simp] theorem State.landed_setSeq (s : State) (q : Nat) (x : Seq) : (s.setSeq q x).landed = s.landed := rfl
@[simp] theorem State.hostReads_setSeq (s : State) (q : Nat) (x : Seq) : (s.setSeq q x).hostReads = s.hostReads := rfl
@[simp] theorem State.nextRead_setSeq (s : State) (q : Nat) (x : Seq) : (s.setSeq q x).nextRead = s.nextRead := rfl
@[simp] theorem State.beGap_setSeq (s : State) (q : Nat) (x : Seq) : (s.setSeq q x).beGap = s.beGap := rfl
@[simp] theorem State.shown_setSeq (s : State) (q : Nat) (x : Seq) : (s.setSeq q x).shown = s.shown := rfl
@[simp] theorem State.selectedAt_setSeq (s : State) (q : Nat) (x : Seq) : (s.setSeq q x).selectedAt = s.selectedAt := rfl
@[simp] theorem State.holds_setSeq (s : State) (q : Nat) (x : Seq) : (s.setSeq q x).holds = s.holds := rfl
@[simp] theorem State.frames_setSeq (s : State) (q : Nat) (x : Seq) : (s.setSeq q x).frames = s.frames := rfl
@[simp] theorem State.staticRun_setSeq (s : State) (q : Nat) (x : Seq) : (s.setSeq q x).staticRun = s.staticRun := rfl
@[simp] theorem State.retained_setSeq (s : State) (q : Nat) (x : Seq) : (s.setSeq q x).retained = s.retained := rfl
@[simp] theorem State.pipeSubst_setSeq (s : State) (q : Nat) (x : Seq) : (s.setSeq q x).pipeSubst = s.pipeSubst := rfl
@[simp] theorem State.waking_setSeq (s : State) (q : Nat) (x : Seq) : (s.setSeq q x).waking = s.waking := rfl
@[simp] theorem State.timedOut_setSeq (s : State) (q : Nat) (x : Seq) : (s.setSeq q x).timedOut = s.timedOut := rfl
@[simp] theorem State.redirected_setSeq (s : State) (q : Nat) (x : Seq) : (s.setSeq q x).redirected = s.redirected := rfl
@[simp] theorem State.pmeWait_setSeq (s : State) (q : Nat) (x : Seq) : (s.setSeq q x).pmeWait = s.pmeWait := rfl
@[simp] theorem State.ports_setSeq (s : State) (q : Nat) (x : Seq) : (s.setSeq q x).ports = s.ports := rfl
@[simp] theorem State.steering_setSeq (s : State) (q : Nat) (x : Seq) : (s.setSeq q x).steering = s.steering := rfl
@[simp] theorem State.switches_setSeq (s : State) (q : Nat) (x : Seq) : (s.setSeq q x).switches = s.switches := rfl
@[simp] theorem State.shedSteps_setSeq (s : State) (q : Nat) (x : Seq) : (s.setSeq q x).shedSteps = s.shedSteps := rfl
@[simp] theorem State.hostGone_setSeq (s : State) (q : Nat) (x : Seq) : (s.setSeq q x).hostGone = s.hostGone := rfl
@[simp] theorem State.linkBackAt_setSeq (s : State) (q : Nat) (x : Seq) : (s.setSeq q x).linkBackAt = s.linkBackAt := rfl
@[simp] theorem State.committedAt_setSeq (s : State) (q : Nat) (x : Seq) : (s.setSeq q x).committedAt = s.committedAt := rfl
@[simp] theorem State.selectedFor_setSeq (s : State) (q : Nat) (x : Seq) : (s.setSeq q x).selectedFor = s.selectedFor := rfl
@[simp] theorem State.mismatch_setSeq (s : State) (q : Nat) (x : Seq) : (s.setSeq q x).mismatch = s.mismatch := rfl
@[simp] theorem State.wbBusy_setSeq (s : State) (q : Nat) (x : Seq) : (s.setSeq q x).wbBusy = s.wbBusy := rfl
@[simp] theorem State.swaps_setSeq (s : State) (q : Nat) (x : Seq) : (s.setSeq q x).swaps = s.swaps := rfl
@[simp] theorem State.streams_setSeq (s : State) (q : Nat) (x : Seq) : (s.setSeq q x).streams = s.streams := rfl
@[simp] theorem State.slotRanges_setSeq (s : State) (q : Nat) (x : Seq) : (s.setSeq q x).slotRanges = s.slotRanges := rfl
@[simp] theorem State.chans_setSeq (s : State) (q : Nat) (x : Seq) : (s.setSeq q x).chans = s.chans := rfl
@[simp] theorem State.moverTurn_setSeq (s : State) (q : Nat) (x : Seq) : (s.setSeq q x).moverTurn = s.moverTurn := rfl
@[simp] theorem State.moverAt_setSeq (s : State) (q : Nat) (x : Seq) : (s.setSeq q x).moverAt = s.moverAt := rfl
@[simp] theorem State.moverBurst_setSeq (s : State) (q : Nat) (x : Seq) : (s.setSeq q x).moverBurst = s.moverBurst := rfl
@[simp] theorem State.jrn_setSeq (s : State) (q : Nat) (x : Seq) : (s.setSeq q x).jrn = s.jrn := rfl
@[simp] theorem State.epochNo_setSeq (s : State) (q : Nat) (x : Seq) : (s.setSeq q x).epochNo = s.epochNo := rfl
@[simp] theorem State.flash_setSeq (s : State) (q : Nat) (x : Seq) : (s.setSeq q x).flash = s.flash := rfl
@[simp] theorem State.plateMem_setSeq (s : State) (q : Nat) (x : Seq) : (s.setSeq q x).plateMem = s.plateMem := rfl
@[simp] theorem State.platePoison_setSeq (s : State) (q : Nat) (x : Seq) : (s.setSeq q x).platePoison = s.platePoison := rfl
@[simp] theorem State.plateAnswers_setSeq (s : State) (q : Nat) (x : Seq) : (s.setSeq q x).plateAnswers = s.plateAnswers := rfl
@[simp] theorem State.handovers_setSeq (s : State) (q : Nat) (x : Seq) : (s.setSeq q x).handovers = s.handovers := rfl
@[simp] theorem State.blinks_setSeq (s : State) (q : Nat) (x : Seq) : (s.setSeq q x).blinks = s.blinks := rfl
@[simp] theorem State.subst_setSeq (s : State) (q : Nat) (x : Seq) : (s.setSeq q x).subst = s.subst := rfl
@[simp] theorem State.substWait_setSeq (s : State) (q : Nat) (x : Seq) : (s.setSeq q x).substWait = s.substWait := rfl
@[simp] theorem State.exitTo_setSeq (s : State) (q : Nat) (x : Seq) : (s.setSeq q x).exitTo = s.exitTo := rfl
@[simp] theorem State.pwrTarget_setSeq (s : State) (q : Nat) (x : Seq) : (s.setSeq q x).pwrTarget = s.pwrTarget := rfl
@[simp] theorem State.heldOccs_setSeq (s : State) (q : Nat) (x : Seq) : (s.setSeq q x).heldOccs = s.heldOccs := rfl
@[simp] theorem State.reloaded_setSeq (s : State) (q : Nat) (x : Seq) : (s.setSeq q x).reloaded = s.reloaded := rfl
@[simp] theorem State.perst_setSeq (s : State) (q : Nat) (x : Seq) : (s.setSeq q x).perst = s.perst := rfl
@[simp] theorem State.railBad_setSeq (s : State) (q : Nat) (x : Seq) : (s.setSeq q x).railBad = s.railBad := rfl
@[simp] theorem State.tripped_setSeq (s : State) (q : Nat) (x : Seq) : (s.setSeq q x).tripped = s.tripped := rfl
@[simp] theorem State.posting_setSeq (s : State) (q : Nat) (x : Seq) : (s.setSeq q x).posting = s.posting := rfl
@[simp] theorem State.plateEpoch_setSeq (s : State) (q : Nat) (x : Seq) : (s.setSeq q x).plateEpoch = s.plateEpoch := rfl
@[simp] theorem State.crossings_setSeq (s : State) (q : Nat) (x : Seq) : (s.setSeq q x).crossings = s.crossings := rfl
@[simp] theorem State.ide_setSeq (s : State) (q : Nat) (x : Seq) : (s.setSeq q x).ide = s.ide := rfl
@[simp] theorem State.ltrSent_setSeq (s : State) (q : Nat) (x : Seq) : (s.setSeq q x).ltrSent = s.ltrSent := rfl
@[simp] theorem State.thermal_setSeq (s : State) (q : Nat) (x : Seq) : (s.setSeq q x).thermal = s.thermal := rfl
@[simp] theorem State.pipeCe_setSeq (s : State) (q : Nat) (x : Seq) : (s.setSeq q x).pipeCe = s.pipeCe := rfl
@[simp] theorem State.testing_setSeq (s : State) (q : Nat) (x : Seq) : (s.setSeq q x).testing = s.testing := rfl
@[simp] theorem State.ssCmd_setSeq (s : State) (q : Nat) (x : Seq) : (s.setSeq q x).ssCmd = s.ssCmd := rfl
@[simp] theorem State.stationDown_setSeq (s : State) (q : Nat) (x : Seq) : (s.setSeq q x).stationDown = s.stationDown := rfl
@[simp] theorem State.rollback_setSeq (s : State) (q : Nat) (x : Seq) : (s.setSeq q x).rollback = s.rollback := rfl
@[simp] theorem State.resetHeld_setSeq (s : State) (q : Nat) (x : Seq) : (s.setSeq q x).resetHeld = s.resetHeld := rfl
@[simp] theorem State.doeWait_setSeq (s : State) (q : Nat) (x : Seq) : (s.setSeq q x).doeWait = s.doeWait := rfl
@[simp] theorem State.mcQueue_setSeq (s : State) (q : Nat) (x : Seq) : (s.setSeq q x).mcQueue = s.mcQueue := rfl
@[simp] theorem State.mcTurn_setSeq (s : State) (q : Nat) (x : Seq) : (s.setSeq q x).mcTurn = s.mcTurn := rfl
@[simp] theorem State.found_setSeq (s : State) (q : Nat) (x : Seq) : (s.setSeq q x).found = s.found := rfl
@[simp] theorem State.sidFrac_setSeq (s : State) (q : Nat) (x : Seq) : (s.setSeq q x).sidFrac = s.sidFrac := rfl
@[simp] theorem State.sidRate_setSeq (s : State) (q : Nat) (x : Seq) : (s.setSeq q x).sidRate = s.sidRate := rfl
@[simp] theorem State.ptmAt_setSeq (s : State) (q : Nat) (x : Seq) : (s.setSeq q x).ptmAt = s.ptmAt := rfl
@[simp] theorem State.outRise_setSeq (s : State) (q : Nat) (x : Seq) : (s.setSeq q x).outRise = s.outRise := rfl
@[simp] theorem State.rowOpen_setSeq (s : State) (q : Nat) (x : Seq) : (s.setSeq q x).rowOpen = s.rowOpen := rfl
@[simp] theorem State.ticked_setSeq (s : State) (q : Nat) (x : Seq) : (s.setSeq q x).ticked = s.ticked := rfl
@[simp] theorem State.held_setSeq (s : State) (q : Nat) (x : Seq) : (s.setSeq q x).held = s.held := rfl
@[simp] theorem State.sealAt_setSeq (s : State) (q : Nat) (x : Seq) : (s.setSeq q x).sealAt = s.sealAt := rfl
@[simp] theorem State.march_setSeq (s : State) (q : Nat) (x : Seq) : (s.setSeq q x).march = s.march := rfl
@[simp] theorem State.avs_setSeq (s : State) (q : Nat) (x : Seq) : (s.setSeq q x).avs = s.avs := rfl
@[simp] theorem State.pending_setSeq (s : State) (q : Nat) (x : Seq) : (s.setSeq q x).pending = s.pending := rfl
@[simp] theorem State.sid_setFn (s : State) (f : Nat) (c : PciFn) : (s.setFn f c).sid = s.sid := rfl
@[simp] theorem State.fresh_setFn (s : State) (f : Nat) (c : PciFn) : (s.setFn f c).fresh = s.fresh := rfl
@[simp] theorem State.regs_setFn (s : State) (f : Nat) (c : PciFn) : (s.setFn f c).regs = s.regs := rfl
@[simp] theorem State.shadow_setFn (s : State) (f : Nat) (c : PciFn) : (s.setFn f c).shadow = s.shadow := rfl
@[simp] theorem State.active_setFn (s : State) (f : Nat) (c : PciFn) : (s.setFn f c).active = s.active := rfl
@[simp] theorem State.mem_setFn (s : State) (f : Nat) (c : PciFn) : (s.setFn f c).mem = s.mem := rfl
@[simp] theorem State.epoch_setFn (s : State) (f : Nat) (c : PciFn) : (s.setFn f c).epoch = s.epoch := rfl
@[simp] theorem State.poison_setFn (s : State) (f : Nat) (c : PciFn) : (s.setFn f c).poison = s.poison := rfl
@[simp] theorem State.frameErrors_setFn (s : State) (f : Nat) (c : PciFn) : (s.setFn f c).frameErrors = s.frameErrors := rfl
@[simp] theorem State.retireQueue_setFn (s : State) (f : Nat) (c : PciFn) : (s.setFn f c).retireQueue = s.retireQueue := rfl
@[simp] theorem State.retiring_setFn (s : State) (f : Nat) (c : PciFn) : (s.setFn f c).retiring = s.retiring := rfl
@[simp] theorem State.retired_setFn (s : State) (f : Nat) (c : PciFn) : (s.setFn f c).retired = s.retired := rfl
@[simp] theorem State.hostTx_setFn (s : State) (f : Nat) (c : PciFn) : (s.setFn f c).hostTx = s.hostTx := rfl
@[simp] theorem State.occs_setFn (s : State) (f : Nat) (c : PciFn) : (s.setFn f c).occs = s.occs := rfl
@[simp] theorem State.pendTime_setFn (s : State) (f : Nat) (c : PciFn) : (s.setFn f c).pendTime = s.pendTime := rfl
@[simp] theorem State.heldSince_setFn (s : State) (f : Nat) (c : PciFn) : (s.setFn f c).heldSince = s.heldSince := rfl
@[simp] theorem State.ringLost_setFn (s : State) (f : Nat) (c : PciFn) : (s.setFn f c).ringLost = s.ringLost := rfl
@[simp] theorem State.stationRecords_setFn (s : State) (f : Nat) (c : PciFn) : (s.setFn f c).stationRecords = s.stationRecords := rfl
@[simp] theorem State.stationLevels_setFn (s : State) (f : Nat) (c : PciFn) : (s.setFn f c).stationLevels = s.stationLevels := rfl
@[simp] theorem State.stationEntry_setFn (s : State) (f : Nat) (c : PciFn) : (s.setFn f c).stationEntry = s.stationEntry := rfl
@[simp] theorem State.modEnd_setFn (s : State) (f : Nat) (c : PciFn) : (s.setFn f c).modEnd = s.modEnd := rfl
@[simp] theorem State.finder_setFn (s : State) (f : Nat) (c : PciFn) : (s.setFn f c).finder = s.finder := rfl
@[simp] theorem State.wakeN_setFn (s : State) (f : Nat) (c : PciFn) : (s.setFn f c).wakeN = s.wakeN := rfl
@[simp] theorem State.seqs_setFn (s : State) (f : Nat) (c : PciFn) : (s.setFn f c).seqs = s.seqs := rfl
@[simp] theorem State.shadowTurn_setFn (s : State) (f : Nat) (c : PciFn) : (s.setFn f c).shadowTurn = s.shadowTurn := rfl
@[simp] theorem State.benchQ_setFn (s : State) (f : Nat) (c : PciFn) : (s.setFn f c).benchQ = s.benchQ := rfl
@[simp] theorem State.heads_setFn (s : State) (f : Nat) (c : PciFn) : (s.setFn f c).heads = s.heads := rfl
@[simp] theorem State.commits_setFn (s : State) (f : Nat) (c : PciFn) : (s.setFn f c).commits = s.commits := rfl
@[simp] theorem State.nextCommit_setFn (s : State) (f : Nat) (c : PciFn) : (s.setFn f c).nextCommit = s.nextCommit := rfl
@[simp] theorem State.admitted_setFn (s : State) (f : Nat) (c : PciFn) : (s.setFn f c).admitted = s.admitted := rfl
@[simp] theorem State.activePlans_setFn (s : State) (f : Nat) (c : PciFn) : (s.setFn f c).activePlans = s.activePlans := rfl
@[simp] theorem State.gcTokens_setFn (s : State) (f : Nat) (c : PciFn) : (s.setFn f c).gcTokens = s.gcTokens := rfl
@[simp] theorem State.pmapStamp_setFn (s : State) (f : Nat) (c : PciFn) : (s.setFn f c).pmapStamp = s.pmapStamp := rfl
@[simp] theorem State.mcBusy_setFn (s : State) (f : Nat) (c : PciFn) : (s.setFn f c).mcBusy = s.mcBusy := rfl
@[simp] theorem State.drives_setFn (s : State) (f : Nat) (c : PciFn) : (s.setFn f c).drives = s.drives := rfl
@[simp] theorem State.slots_setFn (s : State) (f : Nat) (c : PciFn) : (s.setFn f c).slots = s.slots := rfl
@[simp] theorem State.pipeRoles_setFn (s : State) (f : Nat) (c : PciFn) : (s.setFn f c).pipeRoles = s.pipeRoles := rfl
@[simp] theorem State.splits_setFn (s : State) (f : Nat) (c : PciFn) : (s.setFn f c).splits = s.splits := rfl
@[simp] theorem State.apertures_setFn (s : State) (f : Nat) (c : PciFn) : (s.setFn f c).apertures = s.apertures := rfl
@[simp] theorem State.benchGroups_setFn (s : State) (f : Nat) (c : PciFn) : (s.setFn f c).benchGroups = s.benchGroups := rfl
@[simp] theorem State.spareFor_setFn (s : State) (f : Nat) (c : PciFn) : (s.setFn f c).spareFor = s.spareFor := rfl
@[simp] theorem State.alarmsSpent_setFn (s : State) (f : Nat) (c : PciFn) : (s.setFn f c).alarmsSpent = s.alarmsSpent := rfl
@[simp] theorem State.flashLog_setFn (s : State) (f : Nat) (c : PciFn) : (s.setFn f c).flashLog = s.flashLog := rfl
@[simp] theorem State.ptmOffset_setFn (s : State) (f : Nat) (c : PciFn) : (s.setFn f c).ptmOffset = s.ptmOffset := rfl
@[simp] theorem State.tags_setFn (s : State) (f : Nat) (c : PciFn) : (s.setFn f c).tags = s.tags := rfl
@[simp] theorem State.landed_setFn (s : State) (f : Nat) (c : PciFn) : (s.setFn f c).landed = s.landed := rfl
@[simp] theorem State.hostReads_setFn (s : State) (f : Nat) (c : PciFn) : (s.setFn f c).hostReads = s.hostReads := rfl
@[simp] theorem State.nextRead_setFn (s : State) (f : Nat) (c : PciFn) : (s.setFn f c).nextRead = s.nextRead := rfl
@[simp] theorem State.beGap_setFn (s : State) (f : Nat) (c : PciFn) : (s.setFn f c).beGap = s.beGap := rfl
@[simp] theorem State.shown_setFn (s : State) (f : Nat) (c : PciFn) : (s.setFn f c).shown = s.shown := rfl
@[simp] theorem State.selectedAt_setFn (s : State) (f : Nat) (c : PciFn) : (s.setFn f c).selectedAt = s.selectedAt := rfl
@[simp] theorem State.holds_setFn (s : State) (f : Nat) (c : PciFn) : (s.setFn f c).holds = s.holds := rfl
@[simp] theorem State.frames_setFn (s : State) (f : Nat) (c : PciFn) : (s.setFn f c).frames = s.frames := rfl
@[simp] theorem State.staticRun_setFn (s : State) (f : Nat) (c : PciFn) : (s.setFn f c).staticRun = s.staticRun := rfl
@[simp] theorem State.retained_setFn (s : State) (f : Nat) (c : PciFn) : (s.setFn f c).retained = s.retained := rfl
@[simp] theorem State.pipeSubst_setFn (s : State) (f : Nat) (c : PciFn) : (s.setFn f c).pipeSubst = s.pipeSubst := rfl
@[simp] theorem State.waking_setFn (s : State) (f : Nat) (c : PciFn) : (s.setFn f c).waking = s.waking := rfl
@[simp] theorem State.timedOut_setFn (s : State) (f : Nat) (c : PciFn) : (s.setFn f c).timedOut = s.timedOut := rfl
@[simp] theorem State.redirected_setFn (s : State) (f : Nat) (c : PciFn) : (s.setFn f c).redirected = s.redirected := rfl
@[simp] theorem State.pmeWait_setFn (s : State) (f : Nat) (c : PciFn) : (s.setFn f c).pmeWait = s.pmeWait := rfl
@[simp] theorem State.ports_setFn (s : State) (f : Nat) (c : PciFn) : (s.setFn f c).ports = s.ports := rfl
@[simp] theorem State.steering_setFn (s : State) (f : Nat) (c : PciFn) : (s.setFn f c).steering = s.steering := rfl
@[simp] theorem State.switches_setFn (s : State) (f : Nat) (c : PciFn) : (s.setFn f c).switches = s.switches := rfl
@[simp] theorem State.shedSteps_setFn (s : State) (f : Nat) (c : PciFn) : (s.setFn f c).shedSteps = s.shedSteps := rfl
@[simp] theorem State.hostGone_setFn (s : State) (f : Nat) (c : PciFn) : (s.setFn f c).hostGone = s.hostGone := rfl
@[simp] theorem State.linkBackAt_setFn (s : State) (f : Nat) (c : PciFn) : (s.setFn f c).linkBackAt = s.linkBackAt := rfl
@[simp] theorem State.committedAt_setFn (s : State) (f : Nat) (c : PciFn) : (s.setFn f c).committedAt = s.committedAt := rfl
@[simp] theorem State.selectedFor_setFn (s : State) (f : Nat) (c : PciFn) : (s.setFn f c).selectedFor = s.selectedFor := rfl
@[simp] theorem State.mismatch_setFn (s : State) (f : Nat) (c : PciFn) : (s.setFn f c).mismatch = s.mismatch := rfl
@[simp] theorem State.wbBusy_setFn (s : State) (f : Nat) (c : PciFn) : (s.setFn f c).wbBusy = s.wbBusy := rfl
@[simp] theorem State.swaps_setFn (s : State) (f : Nat) (c : PciFn) : (s.setFn f c).swaps = s.swaps := rfl
@[simp] theorem State.streams_setFn (s : State) (f : Nat) (c : PciFn) : (s.setFn f c).streams = s.streams := rfl
@[simp] theorem State.slotRanges_setFn (s : State) (f : Nat) (c : PciFn) : (s.setFn f c).slotRanges = s.slotRanges := rfl
@[simp] theorem State.chans_setFn (s : State) (f : Nat) (c : PciFn) : (s.setFn f c).chans = s.chans := rfl
@[simp] theorem State.moverTurn_setFn (s : State) (f : Nat) (c : PciFn) : (s.setFn f c).moverTurn = s.moverTurn := rfl
@[simp] theorem State.moverAt_setFn (s : State) (f : Nat) (c : PciFn) : (s.setFn f c).moverAt = s.moverAt := rfl
@[simp] theorem State.moverBurst_setFn (s : State) (f : Nat) (c : PciFn) : (s.setFn f c).moverBurst = s.moverBurst := rfl
@[simp] theorem State.jrn_setFn (s : State) (f : Nat) (c : PciFn) : (s.setFn f c).jrn = s.jrn := rfl
@[simp] theorem State.epochNo_setFn (s : State) (f : Nat) (c : PciFn) : (s.setFn f c).epochNo = s.epochNo := rfl
@[simp] theorem State.flash_setFn (s : State) (f : Nat) (c : PciFn) : (s.setFn f c).flash = s.flash := rfl
@[simp] theorem State.plateMem_setFn (s : State) (f : Nat) (c : PciFn) : (s.setFn f c).plateMem = s.plateMem := rfl
@[simp] theorem State.platePoison_setFn (s : State) (f : Nat) (c : PciFn) : (s.setFn f c).platePoison = s.platePoison := rfl
@[simp] theorem State.plateAnswers_setFn (s : State) (f : Nat) (c : PciFn) : (s.setFn f c).plateAnswers = s.plateAnswers := rfl
@[simp] theorem State.handovers_setFn (s : State) (f : Nat) (c : PciFn) : (s.setFn f c).handovers = s.handovers := rfl
@[simp] theorem State.blinks_setFn (s : State) (f : Nat) (c : PciFn) : (s.setFn f c).blinks = s.blinks := rfl
@[simp] theorem State.subst_setFn (s : State) (f : Nat) (c : PciFn) : (s.setFn f c).subst = s.subst := rfl
@[simp] theorem State.substWait_setFn (s : State) (f : Nat) (c : PciFn) : (s.setFn f c).substWait = s.substWait := rfl
@[simp] theorem State.exitTo_setFn (s : State) (f : Nat) (c : PciFn) : (s.setFn f c).exitTo = s.exitTo := rfl
@[simp] theorem State.pwrTarget_setFn (s : State) (f : Nat) (c : PciFn) : (s.setFn f c).pwrTarget = s.pwrTarget := rfl
@[simp] theorem State.heldOccs_setFn (s : State) (f : Nat) (c : PciFn) : (s.setFn f c).heldOccs = s.heldOccs := rfl
@[simp] theorem State.reloaded_setFn (s : State) (f : Nat) (c : PciFn) : (s.setFn f c).reloaded = s.reloaded := rfl
@[simp] theorem State.perst_setFn (s : State) (f : Nat) (c : PciFn) : (s.setFn f c).perst = s.perst := rfl
@[simp] theorem State.railBad_setFn (s : State) (f : Nat) (c : PciFn) : (s.setFn f c).railBad = s.railBad := rfl
@[simp] theorem State.tripped_setFn (s : State) (f : Nat) (c : PciFn) : (s.setFn f c).tripped = s.tripped := rfl
@[simp] theorem State.posting_setFn (s : State) (f : Nat) (c : PciFn) : (s.setFn f c).posting = s.posting := rfl
@[simp] theorem State.plateEpoch_setFn (s : State) (f : Nat) (c : PciFn) : (s.setFn f c).plateEpoch = s.plateEpoch := rfl
@[simp] theorem State.crossings_setFn (s : State) (f : Nat) (c : PciFn) : (s.setFn f c).crossings = s.crossings := rfl
@[simp] theorem State.ide_setFn (s : State) (f : Nat) (c : PciFn) : (s.setFn f c).ide = s.ide := rfl
@[simp] theorem State.ltrSent_setFn (s : State) (f : Nat) (c : PciFn) : (s.setFn f c).ltrSent = s.ltrSent := rfl
@[simp] theorem State.thermal_setFn (s : State) (f : Nat) (c : PciFn) : (s.setFn f c).thermal = s.thermal := rfl
@[simp] theorem State.pipeCe_setFn (s : State) (f : Nat) (c : PciFn) : (s.setFn f c).pipeCe = s.pipeCe := rfl
@[simp] theorem State.testing_setFn (s : State) (f : Nat) (c : PciFn) : (s.setFn f c).testing = s.testing := rfl
@[simp] theorem State.ssCmd_setFn (s : State) (f : Nat) (c : PciFn) : (s.setFn f c).ssCmd = s.ssCmd := rfl
@[simp] theorem State.stationDown_setFn (s : State) (f : Nat) (c : PciFn) : (s.setFn f c).stationDown = s.stationDown := rfl
@[simp] theorem State.rollback_setFn (s : State) (f : Nat) (c : PciFn) : (s.setFn f c).rollback = s.rollback := rfl
@[simp] theorem State.resetHeld_setFn (s : State) (f : Nat) (c : PciFn) : (s.setFn f c).resetHeld = s.resetHeld := rfl
@[simp] theorem State.doeWait_setFn (s : State) (f : Nat) (c : PciFn) : (s.setFn f c).doeWait = s.doeWait := rfl
@[simp] theorem State.mcQueue_setFn (s : State) (f : Nat) (c : PciFn) : (s.setFn f c).mcQueue = s.mcQueue := rfl
@[simp] theorem State.mcTurn_setFn (s : State) (f : Nat) (c : PciFn) : (s.setFn f c).mcTurn = s.mcTurn := rfl
@[simp] theorem State.found_setFn (s : State) (f : Nat) (c : PciFn) : (s.setFn f c).found = s.found := rfl
@[simp] theorem State.sidFrac_setFn (s : State) (f : Nat) (c : PciFn) : (s.setFn f c).sidFrac = s.sidFrac := rfl
@[simp] theorem State.sidRate_setFn (s : State) (f : Nat) (c : PciFn) : (s.setFn f c).sidRate = s.sidRate := rfl
@[simp] theorem State.ptmAt_setFn (s : State) (f : Nat) (c : PciFn) : (s.setFn f c).ptmAt = s.ptmAt := rfl
@[simp] theorem State.outRise_setFn (s : State) (f : Nat) (c : PciFn) : (s.setFn f c).outRise = s.outRise := rfl
@[simp] theorem State.rowOpen_setFn (s : State) (f : Nat) (c : PciFn) : (s.setFn f c).rowOpen = s.rowOpen := rfl
@[simp] theorem State.ticked_setFn (s : State) (f : Nat) (c : PciFn) : (s.setFn f c).ticked = s.ticked := rfl
@[simp] theorem State.held_setFn (s : State) (f : Nat) (c : PciFn) : (s.setFn f c).held = s.held := rfl
@[simp] theorem State.sealAt_setFn (s : State) (f : Nat) (c : PciFn) : (s.setFn f c).sealAt = s.sealAt := rfl
@[simp] theorem State.march_setFn (s : State) (f : Nat) (c : PciFn) : (s.setFn f c).march = s.march := rfl
@[simp] theorem State.avs_setFn (s : State) (f : Nat) (c : PciFn) : (s.setFn f c).avs = s.avs := rfl
@[simp] theorem State.pending_setFn (s : State) (f : Nat) (c : PciFn) : (s.setFn f c).pending = s.pending := rfl
@[simp] theorem State.sid_draw (s : State) : (s.draw).sid = s.sid := rfl
@[simp] theorem State.regs_draw (s : State) : (s.draw).regs = s.regs := rfl
@[simp] theorem State.shadow_draw (s : State) : (s.draw).shadow = s.shadow := rfl
@[simp] theorem State.active_draw (s : State) : (s.draw).active = s.active := rfl
@[simp] theorem State.mem_draw (s : State) : (s.draw).mem = s.mem := rfl
@[simp] theorem State.epoch_draw (s : State) : (s.draw).epoch = s.epoch := rfl
@[simp] theorem State.poison_draw (s : State) : (s.draw).poison = s.poison := rfl
@[simp] theorem State.frameErrors_draw (s : State) : (s.draw).frameErrors = s.frameErrors := rfl
@[simp] theorem State.retireQueue_draw (s : State) : (s.draw).retireQueue = s.retireQueue := rfl
@[simp] theorem State.retiring_draw (s : State) : (s.draw).retiring = s.retiring := rfl
@[simp] theorem State.retired_draw (s : State) : (s.draw).retired = s.retired := rfl
@[simp] theorem State.hostTx_draw (s : State) : (s.draw).hostTx = s.hostTx := rfl
@[simp] theorem State.occs_draw (s : State) : (s.draw).occs = s.occs := rfl
@[simp] theorem State.pendTime_draw (s : State) : (s.draw).pendTime = s.pendTime := rfl
@[simp] theorem State.heldSince_draw (s : State) : (s.draw).heldSince = s.heldSince := rfl
@[simp] theorem State.ringLost_draw (s : State) : (s.draw).ringLost = s.ringLost := rfl
@[simp] theorem State.stationRecords_draw (s : State) : (s.draw).stationRecords = s.stationRecords := rfl
@[simp] theorem State.stationLevels_draw (s : State) : (s.draw).stationLevels = s.stationLevels := rfl
@[simp] theorem State.stationEntry_draw (s : State) : (s.draw).stationEntry = s.stationEntry := rfl
@[simp] theorem State.modEnd_draw (s : State) : (s.draw).modEnd = s.modEnd := rfl
@[simp] theorem State.finder_draw (s : State) : (s.draw).finder = s.finder := rfl
@[simp] theorem State.wakeN_draw (s : State) : (s.draw).wakeN = s.wakeN := rfl
@[simp] theorem State.seqs_draw (s : State) : (s.draw).seqs = s.seqs := rfl
@[simp] theorem State.shadowTurn_draw (s : State) : (s.draw).shadowTurn = s.shadowTurn := rfl
@[simp] theorem State.benchQ_draw (s : State) : (s.draw).benchQ = s.benchQ := rfl
@[simp] theorem State.fns_draw (s : State) : (s.draw).fns = s.fns := rfl
@[simp] theorem State.heads_draw (s : State) : (s.draw).heads = s.heads := rfl
@[simp] theorem State.commits_draw (s : State) : (s.draw).commits = s.commits := rfl
@[simp] theorem State.nextCommit_draw (s : State) : (s.draw).nextCommit = s.nextCommit := rfl
@[simp] theorem State.admitted_draw (s : State) : (s.draw).admitted = s.admitted := rfl
@[simp] theorem State.activePlans_draw (s : State) : (s.draw).activePlans = s.activePlans := rfl
@[simp] theorem State.gcTokens_draw (s : State) : (s.draw).gcTokens = s.gcTokens := rfl
@[simp] theorem State.pmapStamp_draw (s : State) : (s.draw).pmapStamp = s.pmapStamp := rfl
@[simp] theorem State.mcBusy_draw (s : State) : (s.draw).mcBusy = s.mcBusy := rfl
@[simp] theorem State.drives_draw (s : State) : (s.draw).drives = s.drives := rfl
@[simp] theorem State.slots_draw (s : State) : (s.draw).slots = s.slots := rfl
@[simp] theorem State.pipeRoles_draw (s : State) : (s.draw).pipeRoles = s.pipeRoles := rfl
@[simp] theorem State.splits_draw (s : State) : (s.draw).splits = s.splits := rfl
@[simp] theorem State.apertures_draw (s : State) : (s.draw).apertures = s.apertures := rfl
@[simp] theorem State.benchGroups_draw (s : State) : (s.draw).benchGroups = s.benchGroups := rfl
@[simp] theorem State.spareFor_draw (s : State) : (s.draw).spareFor = s.spareFor := rfl
@[simp] theorem State.alarmsSpent_draw (s : State) : (s.draw).alarmsSpent = s.alarmsSpent := rfl
@[simp] theorem State.flashLog_draw (s : State) : (s.draw).flashLog = s.flashLog := rfl
@[simp] theorem State.ptmOffset_draw (s : State) : (s.draw).ptmOffset = s.ptmOffset := rfl
@[simp] theorem State.tags_draw (s : State) : (s.draw).tags = s.tags := rfl
@[simp] theorem State.landed_draw (s : State) : (s.draw).landed = s.landed := rfl
@[simp] theorem State.hostReads_draw (s : State) : (s.draw).hostReads = s.hostReads := rfl
@[simp] theorem State.nextRead_draw (s : State) : (s.draw).nextRead = s.nextRead := rfl
@[simp] theorem State.beGap_draw (s : State) : (s.draw).beGap = s.beGap := rfl
@[simp] theorem State.shown_draw (s : State) : (s.draw).shown = s.shown := rfl
@[simp] theorem State.selectedAt_draw (s : State) : (s.draw).selectedAt = s.selectedAt := rfl
@[simp] theorem State.holds_draw (s : State) : (s.draw).holds = s.holds := rfl
@[simp] theorem State.frames_draw (s : State) : (s.draw).frames = s.frames := rfl
@[simp] theorem State.staticRun_draw (s : State) : (s.draw).staticRun = s.staticRun := rfl
@[simp] theorem State.retained_draw (s : State) : (s.draw).retained = s.retained := rfl
@[simp] theorem State.pipeSubst_draw (s : State) : (s.draw).pipeSubst = s.pipeSubst := rfl
@[simp] theorem State.waking_draw (s : State) : (s.draw).waking = s.waking := rfl
@[simp] theorem State.timedOut_draw (s : State) : (s.draw).timedOut = s.timedOut := rfl
@[simp] theorem State.redirected_draw (s : State) : (s.draw).redirected = s.redirected := rfl
@[simp] theorem State.pmeWait_draw (s : State) : (s.draw).pmeWait = s.pmeWait := rfl
@[simp] theorem State.ports_draw (s : State) : (s.draw).ports = s.ports := rfl
@[simp] theorem State.steering_draw (s : State) : (s.draw).steering = s.steering := rfl
@[simp] theorem State.switches_draw (s : State) : (s.draw).switches = s.switches := rfl
@[simp] theorem State.shedSteps_draw (s : State) : (s.draw).shedSteps = s.shedSteps := rfl
@[simp] theorem State.hostGone_draw (s : State) : (s.draw).hostGone = s.hostGone := rfl
@[simp] theorem State.linkBackAt_draw (s : State) : (s.draw).linkBackAt = s.linkBackAt := rfl
@[simp] theorem State.committedAt_draw (s : State) : (s.draw).committedAt = s.committedAt := rfl
@[simp] theorem State.selectedFor_draw (s : State) : (s.draw).selectedFor = s.selectedFor := rfl
@[simp] theorem State.mismatch_draw (s : State) : (s.draw).mismatch = s.mismatch := rfl
@[simp] theorem State.wbBusy_draw (s : State) : (s.draw).wbBusy = s.wbBusy := rfl
@[simp] theorem State.swaps_draw (s : State) : (s.draw).swaps = s.swaps := rfl
@[simp] theorem State.streams_draw (s : State) : (s.draw).streams = s.streams := rfl
@[simp] theorem State.slotRanges_draw (s : State) : (s.draw).slotRanges = s.slotRanges := rfl
@[simp] theorem State.chans_draw (s : State) : (s.draw).chans = s.chans := rfl
@[simp] theorem State.moverTurn_draw (s : State) : (s.draw).moverTurn = s.moverTurn := rfl
@[simp] theorem State.moverAt_draw (s : State) : (s.draw).moverAt = s.moverAt := rfl
@[simp] theorem State.moverBurst_draw (s : State) : (s.draw).moverBurst = s.moverBurst := rfl
@[simp] theorem State.jrn_draw (s : State) : (s.draw).jrn = s.jrn := rfl
@[simp] theorem State.epochNo_draw (s : State) : (s.draw).epochNo = s.epochNo := rfl
@[simp] theorem State.flash_draw (s : State) : (s.draw).flash = s.flash := rfl
@[simp] theorem State.plateMem_draw (s : State) : (s.draw).plateMem = s.plateMem := rfl
@[simp] theorem State.platePoison_draw (s : State) : (s.draw).platePoison = s.platePoison := rfl
@[simp] theorem State.plateAnswers_draw (s : State) : (s.draw).plateAnswers = s.plateAnswers := rfl
@[simp] theorem State.handovers_draw (s : State) : (s.draw).handovers = s.handovers := rfl
@[simp] theorem State.blinks_draw (s : State) : (s.draw).blinks = s.blinks := rfl
@[simp] theorem State.subst_draw (s : State) : (s.draw).subst = s.subst := rfl
@[simp] theorem State.substWait_draw (s : State) : (s.draw).substWait = s.substWait := rfl
@[simp] theorem State.exitTo_draw (s : State) : (s.draw).exitTo = s.exitTo := rfl
@[simp] theorem State.pwrTarget_draw (s : State) : (s.draw).pwrTarget = s.pwrTarget := rfl
@[simp] theorem State.heldOccs_draw (s : State) : (s.draw).heldOccs = s.heldOccs := rfl
@[simp] theorem State.reloaded_draw (s : State) : (s.draw).reloaded = s.reloaded := rfl
@[simp] theorem State.perst_draw (s : State) : (s.draw).perst = s.perst := rfl
@[simp] theorem State.railBad_draw (s : State) : (s.draw).railBad = s.railBad := rfl
@[simp] theorem State.tripped_draw (s : State) : (s.draw).tripped = s.tripped := rfl
@[simp] theorem State.posting_draw (s : State) : (s.draw).posting = s.posting := rfl
@[simp] theorem State.plateEpoch_draw (s : State) : (s.draw).plateEpoch = s.plateEpoch := rfl
@[simp] theorem State.crossings_draw (s : State) : (s.draw).crossings = s.crossings := rfl
@[simp] theorem State.ide_draw (s : State) : (s.draw).ide = s.ide := rfl
@[simp] theorem State.ltrSent_draw (s : State) : (s.draw).ltrSent = s.ltrSent := rfl
@[simp] theorem State.thermal_draw (s : State) : (s.draw).thermal = s.thermal := rfl
@[simp] theorem State.pipeCe_draw (s : State) : (s.draw).pipeCe = s.pipeCe := rfl
@[simp] theorem State.testing_draw (s : State) : (s.draw).testing = s.testing := rfl
@[simp] theorem State.ssCmd_draw (s : State) : (s.draw).ssCmd = s.ssCmd := rfl
@[simp] theorem State.stationDown_draw (s : State) : (s.draw).stationDown = s.stationDown := rfl
@[simp] theorem State.rollback_draw (s : State) : (s.draw).rollback = s.rollback := rfl
@[simp] theorem State.resetHeld_draw (s : State) : (s.draw).resetHeld = s.resetHeld := rfl
@[simp] theorem State.doeWait_draw (s : State) : (s.draw).doeWait = s.doeWait := rfl
@[simp] theorem State.mcQueue_draw (s : State) : (s.draw).mcQueue = s.mcQueue := rfl
@[simp] theorem State.mcTurn_draw (s : State) : (s.draw).mcTurn = s.mcTurn := rfl
@[simp] theorem State.found_draw (s : State) : (s.draw).found = s.found := rfl
@[simp] theorem State.sidFrac_draw (s : State) : (s.draw).sidFrac = s.sidFrac := rfl
@[simp] theorem State.sidRate_draw (s : State) : (s.draw).sidRate = s.sidRate := rfl
@[simp] theorem State.ptmAt_draw (s : State) : (s.draw).ptmAt = s.ptmAt := rfl
@[simp] theorem State.outRise_draw (s : State) : (s.draw).outRise = s.outRise := rfl
@[simp] theorem State.rowOpen_draw (s : State) : (s.draw).rowOpen = s.rowOpen := rfl
@[simp] theorem State.ticked_draw (s : State) : (s.draw).ticked = s.ticked := rfl
@[simp] theorem State.held_draw (s : State) : (s.draw).held = s.held := rfl
@[simp] theorem State.sealAt_draw (s : State) : (s.draw).sealAt = s.sealAt := rfl
@[simp] theorem State.march_draw (s : State) : (s.draw).march = s.march := rfl
@[simp] theorem State.avs_draw (s : State) : (s.draw).avs = s.avs := rfl
@[simp] theorem State.pending_draw (s : State) : (s.draw).pending = s.pending := rfl
@[simp] theorem State.sid_setHead (s : State) (h : Nat) (r : HeadRun) : (s.setHead h r).sid = s.sid := rfl
@[simp] theorem State.fresh_setHead (s : State) (h : Nat) (r : HeadRun) : (s.setHead h r).fresh = s.fresh := rfl
@[simp] theorem State.regs_setHead (s : State) (h : Nat) (r : HeadRun) : (s.setHead h r).regs = s.regs := rfl
@[simp] theorem State.shadow_setHead (s : State) (h : Nat) (r : HeadRun) : (s.setHead h r).shadow = s.shadow := rfl
@[simp] theorem State.active_setHead (s : State) (h : Nat) (r : HeadRun) : (s.setHead h r).active = s.active := rfl
@[simp] theorem State.mem_setHead (s : State) (h : Nat) (r : HeadRun) : (s.setHead h r).mem = s.mem := rfl
@[simp] theorem State.epoch_setHead (s : State) (h : Nat) (r : HeadRun) : (s.setHead h r).epoch = s.epoch := rfl
@[simp] theorem State.poison_setHead (s : State) (h : Nat) (r : HeadRun) : (s.setHead h r).poison = s.poison := rfl
@[simp] theorem State.frameErrors_setHead (s : State) (h : Nat) (r : HeadRun) : (s.setHead h r).frameErrors = s.frameErrors := rfl
@[simp] theorem State.retireQueue_setHead (s : State) (h : Nat) (r : HeadRun) : (s.setHead h r).retireQueue = s.retireQueue := rfl
@[simp] theorem State.retiring_setHead (s : State) (h : Nat) (r : HeadRun) : (s.setHead h r).retiring = s.retiring := rfl
@[simp] theorem State.retired_setHead (s : State) (h : Nat) (r : HeadRun) : (s.setHead h r).retired = s.retired := rfl
@[simp] theorem State.hostTx_setHead (s : State) (h : Nat) (r : HeadRun) : (s.setHead h r).hostTx = s.hostTx := rfl
@[simp] theorem State.occs_setHead (s : State) (h : Nat) (r : HeadRun) : (s.setHead h r).occs = s.occs := rfl
@[simp] theorem State.pendTime_setHead (s : State) (h : Nat) (r : HeadRun) : (s.setHead h r).pendTime = s.pendTime := rfl
@[simp] theorem State.heldSince_setHead (s : State) (h : Nat) (r : HeadRun) : (s.setHead h r).heldSince = s.heldSince := rfl
@[simp] theorem State.ringLost_setHead (s : State) (h : Nat) (r : HeadRun) : (s.setHead h r).ringLost = s.ringLost := rfl
@[simp] theorem State.stationRecords_setHead (s : State) (h : Nat) (r : HeadRun) : (s.setHead h r).stationRecords = s.stationRecords := rfl
@[simp] theorem State.stationLevels_setHead (s : State) (h : Nat) (r : HeadRun) : (s.setHead h r).stationLevels = s.stationLevels := rfl
@[simp] theorem State.stationEntry_setHead (s : State) (h : Nat) (r : HeadRun) : (s.setHead h r).stationEntry = s.stationEntry := rfl
@[simp] theorem State.modEnd_setHead (s : State) (h : Nat) (r : HeadRun) : (s.setHead h r).modEnd = s.modEnd := rfl
@[simp] theorem State.finder_setHead (s : State) (h : Nat) (r : HeadRun) : (s.setHead h r).finder = s.finder := rfl
@[simp] theorem State.wakeN_setHead (s : State) (h : Nat) (r : HeadRun) : (s.setHead h r).wakeN = s.wakeN := rfl
@[simp] theorem State.seqs_setHead (s : State) (h : Nat) (r : HeadRun) : (s.setHead h r).seqs = s.seqs := rfl
@[simp] theorem State.shadowTurn_setHead (s : State) (h : Nat) (r : HeadRun) : (s.setHead h r).shadowTurn = s.shadowTurn := rfl
@[simp] theorem State.benchQ_setHead (s : State) (h : Nat) (r : HeadRun) : (s.setHead h r).benchQ = s.benchQ := rfl
@[simp] theorem State.fns_setHead (s : State) (h : Nat) (r : HeadRun) : (s.setHead h r).fns = s.fns := rfl
@[simp] theorem State.commits_setHead (s : State) (h : Nat) (r : HeadRun) : (s.setHead h r).commits = s.commits := rfl
@[simp] theorem State.nextCommit_setHead (s : State) (h : Nat) (r : HeadRun) : (s.setHead h r).nextCommit = s.nextCommit := rfl
@[simp] theorem State.admitted_setHead (s : State) (h : Nat) (r : HeadRun) : (s.setHead h r).admitted = s.admitted := rfl
@[simp] theorem State.activePlans_setHead (s : State) (h : Nat) (r : HeadRun) : (s.setHead h r).activePlans = s.activePlans := rfl
@[simp] theorem State.gcTokens_setHead (s : State) (h : Nat) (r : HeadRun) : (s.setHead h r).gcTokens = s.gcTokens := rfl
@[simp] theorem State.pmapStamp_setHead (s : State) (h : Nat) (r : HeadRun) : (s.setHead h r).pmapStamp = s.pmapStamp := rfl
@[simp] theorem State.mcBusy_setHead (s : State) (h : Nat) (r : HeadRun) : (s.setHead h r).mcBusy = s.mcBusy := rfl
@[simp] theorem State.drives_setHead (s : State) (h : Nat) (r : HeadRun) : (s.setHead h r).drives = s.drives := rfl
@[simp] theorem State.slots_setHead (s : State) (h : Nat) (r : HeadRun) : (s.setHead h r).slots = s.slots := rfl
@[simp] theorem State.pipeRoles_setHead (s : State) (h : Nat) (r : HeadRun) : (s.setHead h r).pipeRoles = s.pipeRoles := rfl
@[simp] theorem State.splits_setHead (s : State) (h : Nat) (r : HeadRun) : (s.setHead h r).splits = s.splits := rfl
@[simp] theorem State.apertures_setHead (s : State) (h : Nat) (r : HeadRun) : (s.setHead h r).apertures = s.apertures := rfl
@[simp] theorem State.benchGroups_setHead (s : State) (h : Nat) (r : HeadRun) : (s.setHead h r).benchGroups = s.benchGroups := rfl
@[simp] theorem State.spareFor_setHead (s : State) (h : Nat) (r : HeadRun) : (s.setHead h r).spareFor = s.spareFor := rfl
@[simp] theorem State.alarmsSpent_setHead (s : State) (h : Nat) (r : HeadRun) : (s.setHead h r).alarmsSpent = s.alarmsSpent := rfl
@[simp] theorem State.flashLog_setHead (s : State) (h : Nat) (r : HeadRun) : (s.setHead h r).flashLog = s.flashLog := rfl
@[simp] theorem State.ptmOffset_setHead (s : State) (h : Nat) (r : HeadRun) : (s.setHead h r).ptmOffset = s.ptmOffset := rfl
@[simp] theorem State.tags_setHead (s : State) (h : Nat) (r : HeadRun) : (s.setHead h r).tags = s.tags := rfl
@[simp] theorem State.landed_setHead (s : State) (h : Nat) (r : HeadRun) : (s.setHead h r).landed = s.landed := rfl
@[simp] theorem State.hostReads_setHead (s : State) (h : Nat) (r : HeadRun) : (s.setHead h r).hostReads = s.hostReads := rfl
@[simp] theorem State.nextRead_setHead (s : State) (h : Nat) (r : HeadRun) : (s.setHead h r).nextRead = s.nextRead := rfl
@[simp] theorem State.beGap_setHead (s : State) (h : Nat) (r : HeadRun) : (s.setHead h r).beGap = s.beGap := rfl
@[simp] theorem State.shown_setHead (s : State) (h : Nat) (r : HeadRun) : (s.setHead h r).shown = s.shown := rfl
@[simp] theorem State.selectedAt_setHead (s : State) (h : Nat) (r : HeadRun) : (s.setHead h r).selectedAt = s.selectedAt := rfl
@[simp] theorem State.holds_setHead (s : State) (h : Nat) (r : HeadRun) : (s.setHead h r).holds = s.holds := rfl
@[simp] theorem State.frames_setHead (s : State) (h : Nat) (r : HeadRun) : (s.setHead h r).frames = s.frames := rfl
@[simp] theorem State.staticRun_setHead (s : State) (h : Nat) (r : HeadRun) : (s.setHead h r).staticRun = s.staticRun := rfl
@[simp] theorem State.retained_setHead (s : State) (h : Nat) (r : HeadRun) : (s.setHead h r).retained = s.retained := rfl
@[simp] theorem State.pipeSubst_setHead (s : State) (h : Nat) (r : HeadRun) : (s.setHead h r).pipeSubst = s.pipeSubst := rfl
@[simp] theorem State.waking_setHead (s : State) (h : Nat) (r : HeadRun) : (s.setHead h r).waking = s.waking := rfl
@[simp] theorem State.timedOut_setHead (s : State) (h : Nat) (r : HeadRun) : (s.setHead h r).timedOut = s.timedOut := rfl
@[simp] theorem State.redirected_setHead (s : State) (h : Nat) (r : HeadRun) : (s.setHead h r).redirected = s.redirected := rfl
@[simp] theorem State.pmeWait_setHead (s : State) (h : Nat) (r : HeadRun) : (s.setHead h r).pmeWait = s.pmeWait := rfl
@[simp] theorem State.ports_setHead (s : State) (h : Nat) (r : HeadRun) : (s.setHead h r).ports = s.ports := rfl
@[simp] theorem State.steering_setHead (s : State) (h : Nat) (r : HeadRun) : (s.setHead h r).steering = s.steering := rfl
@[simp] theorem State.switches_setHead (s : State) (h : Nat) (r : HeadRun) : (s.setHead h r).switches = s.switches := rfl
@[simp] theorem State.shedSteps_setHead (s : State) (h : Nat) (r : HeadRun) : (s.setHead h r).shedSteps = s.shedSteps := rfl
@[simp] theorem State.hostGone_setHead (s : State) (h : Nat) (r : HeadRun) : (s.setHead h r).hostGone = s.hostGone := rfl
@[simp] theorem State.linkBackAt_setHead (s : State) (h : Nat) (r : HeadRun) : (s.setHead h r).linkBackAt = s.linkBackAt := rfl
@[simp] theorem State.committedAt_setHead (s : State) (h : Nat) (r : HeadRun) : (s.setHead h r).committedAt = s.committedAt := rfl
@[simp] theorem State.selectedFor_setHead (s : State) (h : Nat) (r : HeadRun) : (s.setHead h r).selectedFor = s.selectedFor := rfl
@[simp] theorem State.mismatch_setHead (s : State) (h : Nat) (r : HeadRun) : (s.setHead h r).mismatch = s.mismatch := rfl
@[simp] theorem State.wbBusy_setHead (s : State) (h : Nat) (r : HeadRun) : (s.setHead h r).wbBusy = s.wbBusy := rfl
@[simp] theorem State.swaps_setHead (s : State) (h : Nat) (r : HeadRun) : (s.setHead h r).swaps = s.swaps := rfl
@[simp] theorem State.streams_setHead (s : State) (h : Nat) (r : HeadRun) : (s.setHead h r).streams = s.streams := rfl
@[simp] theorem State.slotRanges_setHead (s : State) (h : Nat) (r : HeadRun) : (s.setHead h r).slotRanges = s.slotRanges := rfl
@[simp] theorem State.chans_setHead (s : State) (h : Nat) (r : HeadRun) : (s.setHead h r).chans = s.chans := rfl
@[simp] theorem State.moverTurn_setHead (s : State) (h : Nat) (r : HeadRun) : (s.setHead h r).moverTurn = s.moverTurn := rfl
@[simp] theorem State.moverAt_setHead (s : State) (h : Nat) (r : HeadRun) : (s.setHead h r).moverAt = s.moverAt := rfl
@[simp] theorem State.moverBurst_setHead (s : State) (h : Nat) (r : HeadRun) : (s.setHead h r).moverBurst = s.moverBurst := rfl
@[simp] theorem State.jrn_setHead (s : State) (h : Nat) (r : HeadRun) : (s.setHead h r).jrn = s.jrn := rfl
@[simp] theorem State.epochNo_setHead (s : State) (h : Nat) (r : HeadRun) : (s.setHead h r).epochNo = s.epochNo := rfl
@[simp] theorem State.flash_setHead (s : State) (h : Nat) (r : HeadRun) : (s.setHead h r).flash = s.flash := rfl
@[simp] theorem State.plateMem_setHead (s : State) (h : Nat) (r : HeadRun) : (s.setHead h r).plateMem = s.plateMem := rfl
@[simp] theorem State.platePoison_setHead (s : State) (h : Nat) (r : HeadRun) : (s.setHead h r).platePoison = s.platePoison := rfl
@[simp] theorem State.plateAnswers_setHead (s : State) (h : Nat) (r : HeadRun) : (s.setHead h r).plateAnswers = s.plateAnswers := rfl
@[simp] theorem State.handovers_setHead (s : State) (h : Nat) (r : HeadRun) : (s.setHead h r).handovers = s.handovers := rfl
@[simp] theorem State.blinks_setHead (s : State) (h : Nat) (r : HeadRun) : (s.setHead h r).blinks = s.blinks := rfl
@[simp] theorem State.subst_setHead (s : State) (h : Nat) (r : HeadRun) : (s.setHead h r).subst = s.subst := rfl
@[simp] theorem State.substWait_setHead (s : State) (h : Nat) (r : HeadRun) : (s.setHead h r).substWait = s.substWait := rfl
@[simp] theorem State.exitTo_setHead (s : State) (h : Nat) (r : HeadRun) : (s.setHead h r).exitTo = s.exitTo := rfl
@[simp] theorem State.pwrTarget_setHead (s : State) (h : Nat) (r : HeadRun) : (s.setHead h r).pwrTarget = s.pwrTarget := rfl
@[simp] theorem State.heldOccs_setHead (s : State) (h : Nat) (r : HeadRun) : (s.setHead h r).heldOccs = s.heldOccs := rfl
@[simp] theorem State.reloaded_setHead (s : State) (h : Nat) (r : HeadRun) : (s.setHead h r).reloaded = s.reloaded := rfl
@[simp] theorem State.perst_setHead (s : State) (h : Nat) (r : HeadRun) : (s.setHead h r).perst = s.perst := rfl
@[simp] theorem State.railBad_setHead (s : State) (h : Nat) (r : HeadRun) : (s.setHead h r).railBad = s.railBad := rfl
@[simp] theorem State.tripped_setHead (s : State) (h : Nat) (r : HeadRun) : (s.setHead h r).tripped = s.tripped := rfl
@[simp] theorem State.posting_setHead (s : State) (h : Nat) (r : HeadRun) : (s.setHead h r).posting = s.posting := rfl
@[simp] theorem State.plateEpoch_setHead (s : State) (h : Nat) (r : HeadRun) : (s.setHead h r).plateEpoch = s.plateEpoch := rfl
@[simp] theorem State.crossings_setHead (s : State) (h : Nat) (r : HeadRun) : (s.setHead h r).crossings = s.crossings := rfl
@[simp] theorem State.ide_setHead (s : State) (h : Nat) (r : HeadRun) : (s.setHead h r).ide = s.ide := rfl
@[simp] theorem State.ltrSent_setHead (s : State) (h : Nat) (r : HeadRun) : (s.setHead h r).ltrSent = s.ltrSent := rfl
@[simp] theorem State.thermal_setHead (s : State) (h : Nat) (r : HeadRun) : (s.setHead h r).thermal = s.thermal := rfl
@[simp] theorem State.pipeCe_setHead (s : State) (h : Nat) (r : HeadRun) : (s.setHead h r).pipeCe = s.pipeCe := rfl
@[simp] theorem State.testing_setHead (s : State) (h : Nat) (r : HeadRun) : (s.setHead h r).testing = s.testing := rfl
@[simp] theorem State.ssCmd_setHead (s : State) (h : Nat) (r : HeadRun) : (s.setHead h r).ssCmd = s.ssCmd := rfl
@[simp] theorem State.stationDown_setHead (s : State) (h : Nat) (r : HeadRun) : (s.setHead h r).stationDown = s.stationDown := rfl
@[simp] theorem State.rollback_setHead (s : State) (h : Nat) (r : HeadRun) : (s.setHead h r).rollback = s.rollback := rfl
@[simp] theorem State.resetHeld_setHead (s : State) (h : Nat) (r : HeadRun) : (s.setHead h r).resetHeld = s.resetHeld := rfl
@[simp] theorem State.doeWait_setHead (s : State) (h : Nat) (r : HeadRun) : (s.setHead h r).doeWait = s.doeWait := rfl
@[simp] theorem State.mcQueue_setHead (s : State) (h : Nat) (r : HeadRun) : (s.setHead h r).mcQueue = s.mcQueue := rfl
@[simp] theorem State.mcTurn_setHead (s : State) (h : Nat) (r : HeadRun) : (s.setHead h r).mcTurn = s.mcTurn := rfl
@[simp] theorem State.found_setHead (s : State) (h : Nat) (r : HeadRun) : (s.setHead h r).found = s.found := rfl
@[simp] theorem State.sidFrac_setHead (s : State) (h : Nat) (r : HeadRun) : (s.setHead h r).sidFrac = s.sidFrac := rfl
@[simp] theorem State.sidRate_setHead (s : State) (h : Nat) (r : HeadRun) : (s.setHead h r).sidRate = s.sidRate := rfl
@[simp] theorem State.ptmAt_setHead (s : State) (h : Nat) (r : HeadRun) : (s.setHead h r).ptmAt = s.ptmAt := rfl
@[simp] theorem State.outRise_setHead (s : State) (h : Nat) (r : HeadRun) : (s.setHead h r).outRise = s.outRise := rfl
@[simp] theorem State.rowOpen_setHead (s : State) (h : Nat) (r : HeadRun) : (s.setHead h r).rowOpen = s.rowOpen := rfl
@[simp] theorem State.ticked_setHead (s : State) (h : Nat) (r : HeadRun) : (s.setHead h r).ticked = s.ticked := rfl
@[simp] theorem State.held_setHead (s : State) (h : Nat) (r : HeadRun) : (s.setHead h r).held = s.held := rfl
@[simp] theorem State.sealAt_setHead (s : State) (h : Nat) (r : HeadRun) : (s.setHead h r).sealAt = s.sealAt := rfl
@[simp] theorem State.march_setHead (s : State) (h : Nat) (r : HeadRun) : (s.setHead h r).march = s.march := rfl
@[simp] theorem State.avs_setHead (s : State) (h : Nat) (r : HeadRun) : (s.setHead h r).avs = s.avs := rfl
@[simp] theorem State.pending_setHead (s : State) (h : Nat) (r : HeadRun) : (s.setHead h r).pending = s.pending := rfl
@[simp] theorem State.sid_setChan (s : State) (c : Nat) (x : Chan) : (s.setChan c x).sid = s.sid := rfl
@[simp] theorem State.fresh_setChan (s : State) (c : Nat) (x : Chan) : (s.setChan c x).fresh = s.fresh := rfl
@[simp] theorem State.regs_setChan (s : State) (c : Nat) (x : Chan) : (s.setChan c x).regs = s.regs := rfl
@[simp] theorem State.shadow_setChan (s : State) (c : Nat) (x : Chan) : (s.setChan c x).shadow = s.shadow := rfl
@[simp] theorem State.active_setChan (s : State) (c : Nat) (x : Chan) : (s.setChan c x).active = s.active := rfl
@[simp] theorem State.mem_setChan (s : State) (c : Nat) (x : Chan) : (s.setChan c x).mem = s.mem := rfl
@[simp] theorem State.epoch_setChan (s : State) (c : Nat) (x : Chan) : (s.setChan c x).epoch = s.epoch := rfl
@[simp] theorem State.poison_setChan (s : State) (c : Nat) (x : Chan) : (s.setChan c x).poison = s.poison := rfl
@[simp] theorem State.frameErrors_setChan (s : State) (c : Nat) (x : Chan) : (s.setChan c x).frameErrors = s.frameErrors := rfl
@[simp] theorem State.retireQueue_setChan (s : State) (c : Nat) (x : Chan) : (s.setChan c x).retireQueue = s.retireQueue := rfl
@[simp] theorem State.retiring_setChan (s : State) (c : Nat) (x : Chan) : (s.setChan c x).retiring = s.retiring := rfl
@[simp] theorem State.retired_setChan (s : State) (c : Nat) (x : Chan) : (s.setChan c x).retired = s.retired := rfl
@[simp] theorem State.hostTx_setChan (s : State) (c : Nat) (x : Chan) : (s.setChan c x).hostTx = s.hostTx := rfl
@[simp] theorem State.occs_setChan (s : State) (c : Nat) (x : Chan) : (s.setChan c x).occs = s.occs := rfl
@[simp] theorem State.pendTime_setChan (s : State) (c : Nat) (x : Chan) : (s.setChan c x).pendTime = s.pendTime := rfl
@[simp] theorem State.heldSince_setChan (s : State) (c : Nat) (x : Chan) : (s.setChan c x).heldSince = s.heldSince := rfl
@[simp] theorem State.ringLost_setChan (s : State) (c : Nat) (x : Chan) : (s.setChan c x).ringLost = s.ringLost := rfl
@[simp] theorem State.stationRecords_setChan (s : State) (c : Nat) (x : Chan) : (s.setChan c x).stationRecords = s.stationRecords := rfl
@[simp] theorem State.stationLevels_setChan (s : State) (c : Nat) (x : Chan) : (s.setChan c x).stationLevels = s.stationLevels := rfl
@[simp] theorem State.stationEntry_setChan (s : State) (c : Nat) (x : Chan) : (s.setChan c x).stationEntry = s.stationEntry := rfl
@[simp] theorem State.modEnd_setChan (s : State) (c : Nat) (x : Chan) : (s.setChan c x).modEnd = s.modEnd := rfl
@[simp] theorem State.finder_setChan (s : State) (c : Nat) (x : Chan) : (s.setChan c x).finder = s.finder := rfl
@[simp] theorem State.wakeN_setChan (s : State) (c : Nat) (x : Chan) : (s.setChan c x).wakeN = s.wakeN := rfl
@[simp] theorem State.seqs_setChan (s : State) (c : Nat) (x : Chan) : (s.setChan c x).seqs = s.seqs := rfl
@[simp] theorem State.shadowTurn_setChan (s : State) (c : Nat) (x : Chan) : (s.setChan c x).shadowTurn = s.shadowTurn := rfl
@[simp] theorem State.benchQ_setChan (s : State) (c : Nat) (x : Chan) : (s.setChan c x).benchQ = s.benchQ := rfl
@[simp] theorem State.fns_setChan (s : State) (c : Nat) (x : Chan) : (s.setChan c x).fns = s.fns := rfl
@[simp] theorem State.heads_setChan (s : State) (c : Nat) (x : Chan) : (s.setChan c x).heads = s.heads := rfl
@[simp] theorem State.commits_setChan (s : State) (c : Nat) (x : Chan) : (s.setChan c x).commits = s.commits := rfl
@[simp] theorem State.nextCommit_setChan (s : State) (c : Nat) (x : Chan) : (s.setChan c x).nextCommit = s.nextCommit := rfl
@[simp] theorem State.admitted_setChan (s : State) (c : Nat) (x : Chan) : (s.setChan c x).admitted = s.admitted := rfl
@[simp] theorem State.activePlans_setChan (s : State) (c : Nat) (x : Chan) : (s.setChan c x).activePlans = s.activePlans := rfl
@[simp] theorem State.gcTokens_setChan (s : State) (c : Nat) (x : Chan) : (s.setChan c x).gcTokens = s.gcTokens := rfl
@[simp] theorem State.pmapStamp_setChan (s : State) (c : Nat) (x : Chan) : (s.setChan c x).pmapStamp = s.pmapStamp := rfl
@[simp] theorem State.mcBusy_setChan (s : State) (c : Nat) (x : Chan) : (s.setChan c x).mcBusy = s.mcBusy := rfl
@[simp] theorem State.drives_setChan (s : State) (c : Nat) (x : Chan) : (s.setChan c x).drives = s.drives := rfl
@[simp] theorem State.slots_setChan (s : State) (c : Nat) (x : Chan) : (s.setChan c x).slots = s.slots := rfl
@[simp] theorem State.pipeRoles_setChan (s : State) (c : Nat) (x : Chan) : (s.setChan c x).pipeRoles = s.pipeRoles := rfl
@[simp] theorem State.splits_setChan (s : State) (c : Nat) (x : Chan) : (s.setChan c x).splits = s.splits := rfl
@[simp] theorem State.apertures_setChan (s : State) (c : Nat) (x : Chan) : (s.setChan c x).apertures = s.apertures := rfl
@[simp] theorem State.benchGroups_setChan (s : State) (c : Nat) (x : Chan) : (s.setChan c x).benchGroups = s.benchGroups := rfl
@[simp] theorem State.spareFor_setChan (s : State) (c : Nat) (x : Chan) : (s.setChan c x).spareFor = s.spareFor := rfl
@[simp] theorem State.alarmsSpent_setChan (s : State) (c : Nat) (x : Chan) : (s.setChan c x).alarmsSpent = s.alarmsSpent := rfl
@[simp] theorem State.flashLog_setChan (s : State) (c : Nat) (x : Chan) : (s.setChan c x).flashLog = s.flashLog := rfl
@[simp] theorem State.ptmOffset_setChan (s : State) (c : Nat) (x : Chan) : (s.setChan c x).ptmOffset = s.ptmOffset := rfl
@[simp] theorem State.tags_setChan (s : State) (c : Nat) (x : Chan) : (s.setChan c x).tags = s.tags := rfl
@[simp] theorem State.landed_setChan (s : State) (c : Nat) (x : Chan) : (s.setChan c x).landed = s.landed := rfl
@[simp] theorem State.hostReads_setChan (s : State) (c : Nat) (x : Chan) : (s.setChan c x).hostReads = s.hostReads := rfl
@[simp] theorem State.nextRead_setChan (s : State) (c : Nat) (x : Chan) : (s.setChan c x).nextRead = s.nextRead := rfl
@[simp] theorem State.beGap_setChan (s : State) (c : Nat) (x : Chan) : (s.setChan c x).beGap = s.beGap := rfl
@[simp] theorem State.shown_setChan (s : State) (c : Nat) (x : Chan) : (s.setChan c x).shown = s.shown := rfl
@[simp] theorem State.selectedAt_setChan (s : State) (c : Nat) (x : Chan) : (s.setChan c x).selectedAt = s.selectedAt := rfl
@[simp] theorem State.holds_setChan (s : State) (c : Nat) (x : Chan) : (s.setChan c x).holds = s.holds := rfl
@[simp] theorem State.frames_setChan (s : State) (c : Nat) (x : Chan) : (s.setChan c x).frames = s.frames := rfl
@[simp] theorem State.staticRun_setChan (s : State) (c : Nat) (x : Chan) : (s.setChan c x).staticRun = s.staticRun := rfl
@[simp] theorem State.retained_setChan (s : State) (c : Nat) (x : Chan) : (s.setChan c x).retained = s.retained := rfl
@[simp] theorem State.pipeSubst_setChan (s : State) (c : Nat) (x : Chan) : (s.setChan c x).pipeSubst = s.pipeSubst := rfl
@[simp] theorem State.waking_setChan (s : State) (c : Nat) (x : Chan) : (s.setChan c x).waking = s.waking := rfl
@[simp] theorem State.timedOut_setChan (s : State) (c : Nat) (x : Chan) : (s.setChan c x).timedOut = s.timedOut := rfl
@[simp] theorem State.redirected_setChan (s : State) (c : Nat) (x : Chan) : (s.setChan c x).redirected = s.redirected := rfl
@[simp] theorem State.pmeWait_setChan (s : State) (c : Nat) (x : Chan) : (s.setChan c x).pmeWait = s.pmeWait := rfl
@[simp] theorem State.ports_setChan (s : State) (c : Nat) (x : Chan) : (s.setChan c x).ports = s.ports := rfl
@[simp] theorem State.steering_setChan (s : State) (c : Nat) (x : Chan) : (s.setChan c x).steering = s.steering := rfl
@[simp] theorem State.switches_setChan (s : State) (c : Nat) (x : Chan) : (s.setChan c x).switches = s.switches := rfl
@[simp] theorem State.shedSteps_setChan (s : State) (c : Nat) (x : Chan) : (s.setChan c x).shedSteps = s.shedSteps := rfl
@[simp] theorem State.hostGone_setChan (s : State) (c : Nat) (x : Chan) : (s.setChan c x).hostGone = s.hostGone := rfl
@[simp] theorem State.linkBackAt_setChan (s : State) (c : Nat) (x : Chan) : (s.setChan c x).linkBackAt = s.linkBackAt := rfl
@[simp] theorem State.committedAt_setChan (s : State) (c : Nat) (x : Chan) : (s.setChan c x).committedAt = s.committedAt := rfl
@[simp] theorem State.selectedFor_setChan (s : State) (c : Nat) (x : Chan) : (s.setChan c x).selectedFor = s.selectedFor := rfl
@[simp] theorem State.mismatch_setChan (s : State) (c : Nat) (x : Chan) : (s.setChan c x).mismatch = s.mismatch := rfl
@[simp] theorem State.wbBusy_setChan (s : State) (c : Nat) (x : Chan) : (s.setChan c x).wbBusy = s.wbBusy := rfl
@[simp] theorem State.swaps_setChan (s : State) (c : Nat) (x : Chan) : (s.setChan c x).swaps = s.swaps := rfl
@[simp] theorem State.streams_setChan (s : State) (c : Nat) (x : Chan) : (s.setChan c x).streams = s.streams := rfl
@[simp] theorem State.slotRanges_setChan (s : State) (c : Nat) (x : Chan) : (s.setChan c x).slotRanges = s.slotRanges := rfl
@[simp] theorem State.moverTurn_setChan (s : State) (c : Nat) (x : Chan) : (s.setChan c x).moverTurn = s.moverTurn := rfl
@[simp] theorem State.moverAt_setChan (s : State) (c : Nat) (x : Chan) : (s.setChan c x).moverAt = s.moverAt := rfl
@[simp] theorem State.moverBurst_setChan (s : State) (c : Nat) (x : Chan) : (s.setChan c x).moverBurst = s.moverBurst := rfl
@[simp] theorem State.jrn_setChan (s : State) (c : Nat) (x : Chan) : (s.setChan c x).jrn = s.jrn := rfl
@[simp] theorem State.epochNo_setChan (s : State) (c : Nat) (x : Chan) : (s.setChan c x).epochNo = s.epochNo := rfl
@[simp] theorem State.flash_setChan (s : State) (c : Nat) (x : Chan) : (s.setChan c x).flash = s.flash := rfl
@[simp] theorem State.plateMem_setChan (s : State) (c : Nat) (x : Chan) : (s.setChan c x).plateMem = s.plateMem := rfl
@[simp] theorem State.platePoison_setChan (s : State) (c : Nat) (x : Chan) : (s.setChan c x).platePoison = s.platePoison := rfl
@[simp] theorem State.plateAnswers_setChan (s : State) (c : Nat) (x : Chan) : (s.setChan c x).plateAnswers = s.plateAnswers := rfl
@[simp] theorem State.handovers_setChan (s : State) (c : Nat) (x : Chan) : (s.setChan c x).handovers = s.handovers := rfl
@[simp] theorem State.blinks_setChan (s : State) (c : Nat) (x : Chan) : (s.setChan c x).blinks = s.blinks := rfl
@[simp] theorem State.subst_setChan (s : State) (c : Nat) (x : Chan) : (s.setChan c x).subst = s.subst := rfl
@[simp] theorem State.substWait_setChan (s : State) (c : Nat) (x : Chan) : (s.setChan c x).substWait = s.substWait := rfl
@[simp] theorem State.exitTo_setChan (s : State) (c : Nat) (x : Chan) : (s.setChan c x).exitTo = s.exitTo := rfl
@[simp] theorem State.pwrTarget_setChan (s : State) (c : Nat) (x : Chan) : (s.setChan c x).pwrTarget = s.pwrTarget := rfl
@[simp] theorem State.heldOccs_setChan (s : State) (c : Nat) (x : Chan) : (s.setChan c x).heldOccs = s.heldOccs := rfl
@[simp] theorem State.reloaded_setChan (s : State) (c : Nat) (x : Chan) : (s.setChan c x).reloaded = s.reloaded := rfl
@[simp] theorem State.perst_setChan (s : State) (c : Nat) (x : Chan) : (s.setChan c x).perst = s.perst := rfl
@[simp] theorem State.railBad_setChan (s : State) (c : Nat) (x : Chan) : (s.setChan c x).railBad = s.railBad := rfl
@[simp] theorem State.tripped_setChan (s : State) (c : Nat) (x : Chan) : (s.setChan c x).tripped = s.tripped := rfl
@[simp] theorem State.posting_setChan (s : State) (c : Nat) (x : Chan) : (s.setChan c x).posting = s.posting := rfl
@[simp] theorem State.plateEpoch_setChan (s : State) (c : Nat) (x : Chan) : (s.setChan c x).plateEpoch = s.plateEpoch := rfl
@[simp] theorem State.crossings_setChan (s : State) (c : Nat) (x : Chan) : (s.setChan c x).crossings = s.crossings := rfl
@[simp] theorem State.ide_setChan (s : State) (c : Nat) (x : Chan) : (s.setChan c x).ide = s.ide := rfl
@[simp] theorem State.ltrSent_setChan (s : State) (c : Nat) (x : Chan) : (s.setChan c x).ltrSent = s.ltrSent := rfl
@[simp] theorem State.thermal_setChan (s : State) (c : Nat) (x : Chan) : (s.setChan c x).thermal = s.thermal := rfl
@[simp] theorem State.pipeCe_setChan (s : State) (c : Nat) (x : Chan) : (s.setChan c x).pipeCe = s.pipeCe := rfl
@[simp] theorem State.testing_setChan (s : State) (c : Nat) (x : Chan) : (s.setChan c x).testing = s.testing := rfl
@[simp] theorem State.ssCmd_setChan (s : State) (c : Nat) (x : Chan) : (s.setChan c x).ssCmd = s.ssCmd := rfl
@[simp] theorem State.stationDown_setChan (s : State) (c : Nat) (x : Chan) : (s.setChan c x).stationDown = s.stationDown := rfl
@[simp] theorem State.rollback_setChan (s : State) (c : Nat) (x : Chan) : (s.setChan c x).rollback = s.rollback := rfl
@[simp] theorem State.resetHeld_setChan (s : State) (c : Nat) (x : Chan) : (s.setChan c x).resetHeld = s.resetHeld := rfl
@[simp] theorem State.doeWait_setChan (s : State) (c : Nat) (x : Chan) : (s.setChan c x).doeWait = s.doeWait := rfl
@[simp] theorem State.mcQueue_setChan (s : State) (c : Nat) (x : Chan) : (s.setChan c x).mcQueue = s.mcQueue := rfl
@[simp] theorem State.mcTurn_setChan (s : State) (c : Nat) (x : Chan) : (s.setChan c x).mcTurn = s.mcTurn := rfl
@[simp] theorem State.found_setChan (s : State) (c : Nat) (x : Chan) : (s.setChan c x).found = s.found := rfl
@[simp] theorem State.sidFrac_setChan (s : State) (c : Nat) (x : Chan) : (s.setChan c x).sidFrac = s.sidFrac := rfl
@[simp] theorem State.sidRate_setChan (s : State) (c : Nat) (x : Chan) : (s.setChan c x).sidRate = s.sidRate := rfl
@[simp] theorem State.ptmAt_setChan (s : State) (c : Nat) (x : Chan) : (s.setChan c x).ptmAt = s.ptmAt := rfl
@[simp] theorem State.outRise_setChan (s : State) (c : Nat) (x : Chan) : (s.setChan c x).outRise = s.outRise := rfl
@[simp] theorem State.rowOpen_setChan (s : State) (c : Nat) (x : Chan) : (s.setChan c x).rowOpen = s.rowOpen := rfl
@[simp] theorem State.ticked_setChan (s : State) (c : Nat) (x : Chan) : (s.setChan c x).ticked = s.ticked := rfl
@[simp] theorem State.held_setChan (s : State) (c : Nat) (x : Chan) : (s.setChan c x).held = s.held := rfl
@[simp] theorem State.sealAt_setChan (s : State) (c : Nat) (x : Chan) : (s.setChan c x).sealAt = s.sealAt := rfl
@[simp] theorem State.march_setChan (s : State) (c : Nat) (x : Chan) : (s.setChan c x).march = s.march := rfl
@[simp] theorem State.avs_setChan (s : State) (c : Nat) (x : Chan) : (s.setChan c x).avs = s.avs := rfl
@[simp] theorem State.pending_setChan (s : State) (c : Nat) (x : Chan) : (s.setChan c x).pending = s.pending := rfl
@[simp] theorem State.sid_setDrive (s : State) (d : Nat) (x : Drive) : (s.setDrive d x).sid = s.sid := rfl
@[simp] theorem State.fresh_setDrive (s : State) (d : Nat) (x : Drive) : (s.setDrive d x).fresh = s.fresh := rfl
@[simp] theorem State.regs_setDrive (s : State) (d : Nat) (x : Drive) : (s.setDrive d x).regs = s.regs := rfl
@[simp] theorem State.shadow_setDrive (s : State) (d : Nat) (x : Drive) : (s.setDrive d x).shadow = s.shadow := rfl
@[simp] theorem State.active_setDrive (s : State) (d : Nat) (x : Drive) : (s.setDrive d x).active = s.active := rfl
@[simp] theorem State.mem_setDrive (s : State) (d : Nat) (x : Drive) : (s.setDrive d x).mem = s.mem := rfl
@[simp] theorem State.epoch_setDrive (s : State) (d : Nat) (x : Drive) : (s.setDrive d x).epoch = s.epoch := rfl
@[simp] theorem State.poison_setDrive (s : State) (d : Nat) (x : Drive) : (s.setDrive d x).poison = s.poison := rfl
@[simp] theorem State.frameErrors_setDrive (s : State) (d : Nat) (x : Drive) : (s.setDrive d x).frameErrors = s.frameErrors := rfl
@[simp] theorem State.retireQueue_setDrive (s : State) (d : Nat) (x : Drive) : (s.setDrive d x).retireQueue = s.retireQueue := rfl
@[simp] theorem State.retiring_setDrive (s : State) (d : Nat) (x : Drive) : (s.setDrive d x).retiring = s.retiring := rfl
@[simp] theorem State.retired_setDrive (s : State) (d : Nat) (x : Drive) : (s.setDrive d x).retired = s.retired := rfl
@[simp] theorem State.hostTx_setDrive (s : State) (d : Nat) (x : Drive) : (s.setDrive d x).hostTx = s.hostTx := rfl
@[simp] theorem State.occs_setDrive (s : State) (d : Nat) (x : Drive) : (s.setDrive d x).occs = s.occs := rfl
@[simp] theorem State.pendTime_setDrive (s : State) (d : Nat) (x : Drive) : (s.setDrive d x).pendTime = s.pendTime := rfl
@[simp] theorem State.heldSince_setDrive (s : State) (d : Nat) (x : Drive) : (s.setDrive d x).heldSince = s.heldSince := rfl
@[simp] theorem State.ringLost_setDrive (s : State) (d : Nat) (x : Drive) : (s.setDrive d x).ringLost = s.ringLost := rfl
@[simp] theorem State.stationRecords_setDrive (s : State) (d : Nat) (x : Drive) : (s.setDrive d x).stationRecords = s.stationRecords := rfl
@[simp] theorem State.stationLevels_setDrive (s : State) (d : Nat) (x : Drive) : (s.setDrive d x).stationLevels = s.stationLevels := rfl
@[simp] theorem State.stationEntry_setDrive (s : State) (d : Nat) (x : Drive) : (s.setDrive d x).stationEntry = s.stationEntry := rfl
@[simp] theorem State.modEnd_setDrive (s : State) (d : Nat) (x : Drive) : (s.setDrive d x).modEnd = s.modEnd := rfl
@[simp] theorem State.finder_setDrive (s : State) (d : Nat) (x : Drive) : (s.setDrive d x).finder = s.finder := rfl
@[simp] theorem State.wakeN_setDrive (s : State) (d : Nat) (x : Drive) : (s.setDrive d x).wakeN = s.wakeN := rfl
@[simp] theorem State.seqs_setDrive (s : State) (d : Nat) (x : Drive) : (s.setDrive d x).seqs = s.seqs := rfl
@[simp] theorem State.shadowTurn_setDrive (s : State) (d : Nat) (x : Drive) : (s.setDrive d x).shadowTurn = s.shadowTurn := rfl
@[simp] theorem State.benchQ_setDrive (s : State) (d : Nat) (x : Drive) : (s.setDrive d x).benchQ = s.benchQ := rfl
@[simp] theorem State.fns_setDrive (s : State) (d : Nat) (x : Drive) : (s.setDrive d x).fns = s.fns := rfl
@[simp] theorem State.heads_setDrive (s : State) (d : Nat) (x : Drive) : (s.setDrive d x).heads = s.heads := rfl
@[simp] theorem State.commits_setDrive (s : State) (d : Nat) (x : Drive) : (s.setDrive d x).commits = s.commits := rfl
@[simp] theorem State.nextCommit_setDrive (s : State) (d : Nat) (x : Drive) : (s.setDrive d x).nextCommit = s.nextCommit := rfl
@[simp] theorem State.admitted_setDrive (s : State) (d : Nat) (x : Drive) : (s.setDrive d x).admitted = s.admitted := rfl
@[simp] theorem State.activePlans_setDrive (s : State) (d : Nat) (x : Drive) : (s.setDrive d x).activePlans = s.activePlans := rfl
@[simp] theorem State.gcTokens_setDrive (s : State) (d : Nat) (x : Drive) : (s.setDrive d x).gcTokens = s.gcTokens := rfl
@[simp] theorem State.pmapStamp_setDrive (s : State) (d : Nat) (x : Drive) : (s.setDrive d x).pmapStamp = s.pmapStamp := rfl
@[simp] theorem State.mcBusy_setDrive (s : State) (d : Nat) (x : Drive) : (s.setDrive d x).mcBusy = s.mcBusy := rfl
@[simp] theorem State.slots_setDrive (s : State) (d : Nat) (x : Drive) : (s.setDrive d x).slots = s.slots := rfl
@[simp] theorem State.pipeRoles_setDrive (s : State) (d : Nat) (x : Drive) : (s.setDrive d x).pipeRoles = s.pipeRoles := rfl
@[simp] theorem State.splits_setDrive (s : State) (d : Nat) (x : Drive) : (s.setDrive d x).splits = s.splits := rfl
@[simp] theorem State.apertures_setDrive (s : State) (d : Nat) (x : Drive) : (s.setDrive d x).apertures = s.apertures := rfl
@[simp] theorem State.benchGroups_setDrive (s : State) (d : Nat) (x : Drive) : (s.setDrive d x).benchGroups = s.benchGroups := rfl
@[simp] theorem State.spareFor_setDrive (s : State) (d : Nat) (x : Drive) : (s.setDrive d x).spareFor = s.spareFor := rfl
@[simp] theorem State.alarmsSpent_setDrive (s : State) (d : Nat) (x : Drive) : (s.setDrive d x).alarmsSpent = s.alarmsSpent := rfl
@[simp] theorem State.flashLog_setDrive (s : State) (d : Nat) (x : Drive) : (s.setDrive d x).flashLog = s.flashLog := rfl
@[simp] theorem State.ptmOffset_setDrive (s : State) (d : Nat) (x : Drive) : (s.setDrive d x).ptmOffset = s.ptmOffset := rfl
@[simp] theorem State.tags_setDrive (s : State) (d : Nat) (x : Drive) : (s.setDrive d x).tags = s.tags := rfl
@[simp] theorem State.landed_setDrive (s : State) (d : Nat) (x : Drive) : (s.setDrive d x).landed = s.landed := rfl
@[simp] theorem State.hostReads_setDrive (s : State) (d : Nat) (x : Drive) : (s.setDrive d x).hostReads = s.hostReads := rfl
@[simp] theorem State.nextRead_setDrive (s : State) (d : Nat) (x : Drive) : (s.setDrive d x).nextRead = s.nextRead := rfl
@[simp] theorem State.beGap_setDrive (s : State) (d : Nat) (x : Drive) : (s.setDrive d x).beGap = s.beGap := rfl
@[simp] theorem State.shown_setDrive (s : State) (d : Nat) (x : Drive) : (s.setDrive d x).shown = s.shown := rfl
@[simp] theorem State.selectedAt_setDrive (s : State) (d : Nat) (x : Drive) : (s.setDrive d x).selectedAt = s.selectedAt := rfl
@[simp] theorem State.holds_setDrive (s : State) (d : Nat) (x : Drive) : (s.setDrive d x).holds = s.holds := rfl
@[simp] theorem State.frames_setDrive (s : State) (d : Nat) (x : Drive) : (s.setDrive d x).frames = s.frames := rfl
@[simp] theorem State.staticRun_setDrive (s : State) (d : Nat) (x : Drive) : (s.setDrive d x).staticRun = s.staticRun := rfl
@[simp] theorem State.retained_setDrive (s : State) (d : Nat) (x : Drive) : (s.setDrive d x).retained = s.retained := rfl
@[simp] theorem State.pipeSubst_setDrive (s : State) (d : Nat) (x : Drive) : (s.setDrive d x).pipeSubst = s.pipeSubst := rfl
@[simp] theorem State.waking_setDrive (s : State) (d : Nat) (x : Drive) : (s.setDrive d x).waking = s.waking := rfl
@[simp] theorem State.timedOut_setDrive (s : State) (d : Nat) (x : Drive) : (s.setDrive d x).timedOut = s.timedOut := rfl
@[simp] theorem State.redirected_setDrive (s : State) (d : Nat) (x : Drive) : (s.setDrive d x).redirected = s.redirected := rfl
@[simp] theorem State.pmeWait_setDrive (s : State) (d : Nat) (x : Drive) : (s.setDrive d x).pmeWait = s.pmeWait := rfl
@[simp] theorem State.ports_setDrive (s : State) (d : Nat) (x : Drive) : (s.setDrive d x).ports = s.ports := rfl
@[simp] theorem State.steering_setDrive (s : State) (d : Nat) (x : Drive) : (s.setDrive d x).steering = s.steering := rfl
@[simp] theorem State.switches_setDrive (s : State) (d : Nat) (x : Drive) : (s.setDrive d x).switches = s.switches := rfl
@[simp] theorem State.shedSteps_setDrive (s : State) (d : Nat) (x : Drive) : (s.setDrive d x).shedSteps = s.shedSteps := rfl
@[simp] theorem State.hostGone_setDrive (s : State) (d : Nat) (x : Drive) : (s.setDrive d x).hostGone = s.hostGone := rfl
@[simp] theorem State.linkBackAt_setDrive (s : State) (d : Nat) (x : Drive) : (s.setDrive d x).linkBackAt = s.linkBackAt := rfl
@[simp] theorem State.committedAt_setDrive (s : State) (d : Nat) (x : Drive) : (s.setDrive d x).committedAt = s.committedAt := rfl
@[simp] theorem State.selectedFor_setDrive (s : State) (d : Nat) (x : Drive) : (s.setDrive d x).selectedFor = s.selectedFor := rfl
@[simp] theorem State.mismatch_setDrive (s : State) (d : Nat) (x : Drive) : (s.setDrive d x).mismatch = s.mismatch := rfl
@[simp] theorem State.wbBusy_setDrive (s : State) (d : Nat) (x : Drive) : (s.setDrive d x).wbBusy = s.wbBusy := rfl
@[simp] theorem State.swaps_setDrive (s : State) (d : Nat) (x : Drive) : (s.setDrive d x).swaps = s.swaps := rfl
@[simp] theorem State.streams_setDrive (s : State) (d : Nat) (x : Drive) : (s.setDrive d x).streams = s.streams := rfl
@[simp] theorem State.slotRanges_setDrive (s : State) (d : Nat) (x : Drive) : (s.setDrive d x).slotRanges = s.slotRanges := rfl
@[simp] theorem State.chans_setDrive (s : State) (d : Nat) (x : Drive) : (s.setDrive d x).chans = s.chans := rfl
@[simp] theorem State.moverTurn_setDrive (s : State) (d : Nat) (x : Drive) : (s.setDrive d x).moverTurn = s.moverTurn := rfl
@[simp] theorem State.moverAt_setDrive (s : State) (d : Nat) (x : Drive) : (s.setDrive d x).moverAt = s.moverAt := rfl
@[simp] theorem State.moverBurst_setDrive (s : State) (d : Nat) (x : Drive) : (s.setDrive d x).moverBurst = s.moverBurst := rfl
@[simp] theorem State.jrn_setDrive (s : State) (d : Nat) (x : Drive) : (s.setDrive d x).jrn = s.jrn := rfl
@[simp] theorem State.epochNo_setDrive (s : State) (d : Nat) (x : Drive) : (s.setDrive d x).epochNo = s.epochNo := rfl
@[simp] theorem State.flash_setDrive (s : State) (d : Nat) (x : Drive) : (s.setDrive d x).flash = s.flash := rfl
@[simp] theorem State.plateMem_setDrive (s : State) (d : Nat) (x : Drive) : (s.setDrive d x).plateMem = s.plateMem := rfl
@[simp] theorem State.platePoison_setDrive (s : State) (d : Nat) (x : Drive) : (s.setDrive d x).platePoison = s.platePoison := rfl
@[simp] theorem State.plateAnswers_setDrive (s : State) (d : Nat) (x : Drive) : (s.setDrive d x).plateAnswers = s.plateAnswers := rfl
@[simp] theorem State.handovers_setDrive (s : State) (d : Nat) (x : Drive) : (s.setDrive d x).handovers = s.handovers := rfl
@[simp] theorem State.blinks_setDrive (s : State) (d : Nat) (x : Drive) : (s.setDrive d x).blinks = s.blinks := rfl
@[simp] theorem State.subst_setDrive (s : State) (d : Nat) (x : Drive) : (s.setDrive d x).subst = s.subst := rfl
@[simp] theorem State.substWait_setDrive (s : State) (d : Nat) (x : Drive) : (s.setDrive d x).substWait = s.substWait := rfl
@[simp] theorem State.exitTo_setDrive (s : State) (d : Nat) (x : Drive) : (s.setDrive d x).exitTo = s.exitTo := rfl
@[simp] theorem State.pwrTarget_setDrive (s : State) (d : Nat) (x : Drive) : (s.setDrive d x).pwrTarget = s.pwrTarget := rfl
@[simp] theorem State.heldOccs_setDrive (s : State) (d : Nat) (x : Drive) : (s.setDrive d x).heldOccs = s.heldOccs := rfl
@[simp] theorem State.reloaded_setDrive (s : State) (d : Nat) (x : Drive) : (s.setDrive d x).reloaded = s.reloaded := rfl
@[simp] theorem State.perst_setDrive (s : State) (d : Nat) (x : Drive) : (s.setDrive d x).perst = s.perst := rfl
@[simp] theorem State.railBad_setDrive (s : State) (d : Nat) (x : Drive) : (s.setDrive d x).railBad = s.railBad := rfl
@[simp] theorem State.tripped_setDrive (s : State) (d : Nat) (x : Drive) : (s.setDrive d x).tripped = s.tripped := rfl
@[simp] theorem State.posting_setDrive (s : State) (d : Nat) (x : Drive) : (s.setDrive d x).posting = s.posting := rfl
@[simp] theorem State.plateEpoch_setDrive (s : State) (d : Nat) (x : Drive) : (s.setDrive d x).plateEpoch = s.plateEpoch := rfl
@[simp] theorem State.crossings_setDrive (s : State) (d : Nat) (x : Drive) : (s.setDrive d x).crossings = s.crossings := rfl
@[simp] theorem State.ide_setDrive (s : State) (d : Nat) (x : Drive) : (s.setDrive d x).ide = s.ide := rfl
@[simp] theorem State.ltrSent_setDrive (s : State) (d : Nat) (x : Drive) : (s.setDrive d x).ltrSent = s.ltrSent := rfl
@[simp] theorem State.thermal_setDrive (s : State) (d : Nat) (x : Drive) : (s.setDrive d x).thermal = s.thermal := rfl
@[simp] theorem State.pipeCe_setDrive (s : State) (d : Nat) (x : Drive) : (s.setDrive d x).pipeCe = s.pipeCe := rfl
@[simp] theorem State.testing_setDrive (s : State) (d : Nat) (x : Drive) : (s.setDrive d x).testing = s.testing := rfl
@[simp] theorem State.ssCmd_setDrive (s : State) (d : Nat) (x : Drive) : (s.setDrive d x).ssCmd = s.ssCmd := rfl
@[simp] theorem State.stationDown_setDrive (s : State) (d : Nat) (x : Drive) : (s.setDrive d x).stationDown = s.stationDown := rfl
@[simp] theorem State.rollback_setDrive (s : State) (d : Nat) (x : Drive) : (s.setDrive d x).rollback = s.rollback := rfl
@[simp] theorem State.resetHeld_setDrive (s : State) (d : Nat) (x : Drive) : (s.setDrive d x).resetHeld = s.resetHeld := rfl
@[simp] theorem State.doeWait_setDrive (s : State) (d : Nat) (x : Drive) : (s.setDrive d x).doeWait = s.doeWait := rfl
@[simp] theorem State.mcQueue_setDrive (s : State) (d : Nat) (x : Drive) : (s.setDrive d x).mcQueue = s.mcQueue := rfl
@[simp] theorem State.mcTurn_setDrive (s : State) (d : Nat) (x : Drive) : (s.setDrive d x).mcTurn = s.mcTurn := rfl
@[simp] theorem State.found_setDrive (s : State) (d : Nat) (x : Drive) : (s.setDrive d x).found = s.found := rfl
@[simp] theorem State.sidFrac_setDrive (s : State) (d : Nat) (x : Drive) : (s.setDrive d x).sidFrac = s.sidFrac := rfl
@[simp] theorem State.sidRate_setDrive (s : State) (d : Nat) (x : Drive) : (s.setDrive d x).sidRate = s.sidRate := rfl
@[simp] theorem State.ptmAt_setDrive (s : State) (d : Nat) (x : Drive) : (s.setDrive d x).ptmAt = s.ptmAt := rfl
@[simp] theorem State.outRise_setDrive (s : State) (d : Nat) (x : Drive) : (s.setDrive d x).outRise = s.outRise := rfl
@[simp] theorem State.rowOpen_setDrive (s : State) (d : Nat) (x : Drive) : (s.setDrive d x).rowOpen = s.rowOpen := rfl
@[simp] theorem State.ticked_setDrive (s : State) (d : Nat) (x : Drive) : (s.setDrive d x).ticked = s.ticked := rfl
@[simp] theorem State.held_setDrive (s : State) (d : Nat) (x : Drive) : (s.setDrive d x).held = s.held := rfl
@[simp] theorem State.sealAt_setDrive (s : State) (d : Nat) (x : Drive) : (s.setDrive d x).sealAt = s.sealAt := rfl
@[simp] theorem State.march_setDrive (s : State) (d : Nat) (x : Drive) : (s.setDrive d x).march = s.march := rfl
@[simp] theorem State.avs_setDrive (s : State) (d : Nat) (x : Drive) : (s.setDrive d x).avs = s.avs := rfl
@[simp] theorem State.pending_setDrive (s : State) (d : Nat) (x : Drive) : (s.setDrive d x).pending = s.pending := rfl

end Sys2Proof.Machine
end

