-- ==== Sys2Proof/Laws/Sequencers.lean ====
section
/-! SUPPORT. What the shared operations of the sequencers can do: issuing, retiring, branching, taking an exception, the
state instructions. -/

namespace Sys2Proof.Machine

/-- A sequencer that is about to execute `i` runs the body of the row of its opcode. -/
theorem State.issue_of_fetches {s : State} {q : Nat} {i : Atcia} (h : s.Fetches q i) {op : Op} (hop : i.op = op)
    (body : Atcia → State) : s.issue q op body = body i := by
  obtain ⟨h1, w, k, h2, h3⟩ := h
  simp only [State.issue, h1, h2, h3, hop, if_true]

/-- A word of the row's opcode that is no legal instruction raises `ILLEGAL` (R58, R61). -/
theorem State.issue_of_illegal {s : State} {q : Nat} {w k : DWord} (h1 : s.canIssue q = true) (h2 : s.fetchAt q = .word w k)
    (h3 : decodeAtcia w k = none) {op : Op} (h4 : opOf (w.toNat / 2 ^ 56) = some op) (body : Atcia → State) :
    s.issue q op body = s.seqFault q 0x01 true := by
  simp only [State.issue, h1, h2, h3, h4, if_true, true_or, decide_true, Bool.true_or]

/-- A sequencer that may not issue leaves the state as it is. -/
theorem State.issue_of_idle {s : State} {q : Nat} (h : s.canIssue q = false) (op : Op) (body : Atcia → State) :
    s.issue q op body = s := by
  simp only [State.issue, h, Bool.false_eq_true, if_false]

/-- `g0` reads as zero (R54). -/
@[simp] theorem Seq.reg_zero (x : Seq) : x.reg 0 = 0 := rfl

/-- A register just written reads what was written, but for `g0` (R54). -/
theorem Seq.reg_setReg_same (x : Seq) (r : Fin 16) (v : DWord) : (x.setReg r v).reg r = if r = 0 then 0 else v := by
  by_cases h : r = 0
  · subst h; rfl
  · have h' : ¬ r.val = 0 := fun e => h (Fin.ext e)
    simp only [Seq.reg, Seq.setReg, h, h', if_false, tabGet_tabPut_same, Option.getD_some]

/-- Another register keeps its value (R54). -/
theorem Seq.reg_setReg_other (x : Seq) {r k : Fin 16} (v : DWord) (h : k ≠ r) : (x.setReg r v).reg k = x.reg k := by
  by_cases h0 : r.val = 0
  · simp only [Seq.setReg, h0, if_true]
  · have hk : k.val ≠ r.val := fun e => h (Fin.ext e)
    simp only [Seq.reg, Seq.setReg, h0, if_false, tabGet_tabPut_other hk]

/-- Everything a branch can do: reach its target, or raise the target's exception. -/
theorem State.branch_cases (s : State) (q : Nat) (i : Atcia) (reg : Bool) (x : Seq) :
    (∃ t, branchTarget (s.seq q) i reg = .ok t ∧ s.branch q i reg x = s.setSeq q { x with pc := t }) ∨
    (∃ c, branchTarget (s.seq q) i reg = .error c ∧ s.branch q i reg x = s.seqFault q c true) := by
  cases h : branchTarget (s.seq q) i reg with
  | ok t => exact .inl ⟨t, rfl, by simp only [State.branch, h]⟩
  | error c => exact .inr ⟨c, rfl, by simp only [State.branch, h]⟩

/-- Everything a state instruction can do: raise an exception, wait for room, or queue one shadow write and go on. -/
theorem State.stateInstr_cases (s : State) (q : Nat) (op : Op) (i : Atcia) :
    (∃ c, s.stateInstr q op i = s.seqFault q c true) ∨
    (4 ≤ (s.seq q).shadowQ.length ∧ s.stateInstr q op i = s) ∨
    (∃ ws, s.stateInstr q op i = s.retire q i { s.seq q with shadowQ := (s.seq q).shadowQ ++ [.words ws] }) := by
  unfold State.stateInstr
  dsimp only
  split
  · exact .inl ⟨_, rfl⟩
  · split
    · exact .inl ⟨_, rfl⟩
    · split
      · exact .inl ⟨_, rfl⟩
      · split
        · exact .inr (.inl ⟨by assumption, rfl⟩)
        · exact .inr (.inr ⟨_, rfl⟩)

end Sys2Proof.Machine
end

