-- ==== Sys2Proof/WellFormed.lean ====
section
/-! DEFINITION. Which commands are well formed: their operands' types hold every unit number in its range, and what no type
says is said here. Only a well-formed command stands for something that the outside world can do. -/

namespace Sys2Proof

/-- Data that returns, if any does, is `n` bytes; none where the model reads its own state. -/
def ReadResult.ofLength (n : Nat) : ReadResult → Bool
  | .data b => b.length = 0 || b.length = n
  | .uncorrectable | .unsupported | .poisoned | .timeout | .crossingLost => true

/-- As `ofLength`, of at most `n` bytes. -/
def ReadResult.upTo (n : Nat) : ReadResult → Bool
  | .data b => decide (b.length ≤ n)
  | .uncorrectable | .unsupported | .poisoned | .timeout | .crossingLost => true

/-- Bytes of BAR0 that function f sees (the BAR table of chapter 14, R394): 16 MiB for the PF, 2 MiB for a VF. -/
def viewBytes (f : FnId) : Nat := if f = 0 then 2 ^ 24 else 2 ^ 21

/-- A host access of registers lies in its function's view; a write is of one aligned word, a read of 1 to 64 bytes (R392). -/
def Transfer.wellFormed : Transfer → Bool
  | .hostWrite f off _ r _ => off.toNat % 4 = 0 && decide (off.toNat < viewBytes f) && r.ofLength 64
  | .hostRead f off len => decide (0 < len.val) && decide (off.toNat + len.val ≤ viewBytes f)
  | .seqLoad _ | .seqStore _ | .fetchRead _ | .other => true

/-- A command over SMBus carries at most 1,024 bytes (R378). -/
def SmBus.wellFormed (b : SmBus) : Bool := decide (b.data.length ≤ 1024)

/-- The command stands for something that can happen. -/
def wellFormed (i : Instr) : Bool :=
  match i with
  | .crossingTransfer _ x _ _ => x.wellFormed
  | .ringEntryFetched _ r => r.ofLength 64
  | .programFetchFill _ r => r.ofLength 64
  | .ingOpen _ _ _ r => r.ofLength 64
  | .dmaDescriptorRead _ r => r.ofLength 64
  | .dmaSourceData _ r => r.upTo 64
  | .ldwDataReturn _ r => r.upTo 8
  | .ringWaitPoll _ r => r.ofLength 8
  | .registerWrite _ _ words x => !words.isEmpty && decide (x.raced.length ≤ words.length) && x.read.ofLength 64
  | .storePerformed _ _ x => decide (x.raced.length ≤ 1) && x.read.ofLength 64
  | .plateAccess _ _ uses _ => decide (uses.map (·.unit_)).Nodup && uses.all fun u => u.bytes != some []
  | .apertureWrite _ _ bytes _ => !bytes.isEmpty
  | .apertureRead _ _ n _ => decide (0 < n)
  | .msixTableWrite f v _ _ => f = 0 || decide (v.val < 64)
  | .vfPmapSnapshot k => k ≠ 0
  | .reclaim k => k ≠ 0
  | .auxReply _ _ data _ _ => decide (data.length ≤ 16)
  | .pipeComposeLine _ _ y => decide (y < 16384)
  | .refValid _ x => decide (0 < x.period)
  | .ssIdentify bus => bus.all SmBus.wellFormed
  | .ssReadFail bus => bus.all SmBus.wellFormed
  | .ssReadFlash bus => bus.all SmBus.wellFormed
  | .ssEraseSector bus _ => bus.all SmBus.wellFormed
  | .ssProgramFlash bus _ => bus.all SmBus.wellFormed
  | .ssReadSensors bus => bus.all SmBus.wellFormed
  | .ssPlateMarch bus _ _ => bus.all SmBus.wellFormed
  | .ssMemReport bus => bus.all SmBus.wellFormed
  | .ssBadOpcode bus => bus.all SmBus.wellFormed
  | .crossingResend .. | .islandWakeDone .. | .replicaReloadDone .. | .latchCopyReceive .. | .switchPoint ..
  | .pcieLinkDown .. | .pcieLinkUp .. | .perstAssert .. | .perstRelease .. | .vddAonRise .. | .railFault ..
  | .railRecover .. | .shadowWriteAccept .. | .cpDoorbellWrite .. | .ringNop .. | .ringCall .. | .ringInline ..
  | .ringFence .. | .ringFenceComplete .. | .ringWait .. | .ringWaitTimeout .. | .ringEntryComplete .. | .cpEnable .. | .cpResume ..
  | .cpResumeSkip .. | .cpLinkResume .. | .fsqStartPoint .. | .fsqEnable .. | .fsqRestart .. | .fsqEntryWrite ..
  | .nop .. | .jmp .. | .jcc .. | .call .. | .ret .. | .loop .. | .halt .. | .haltComplete .. | .waitev ..
  | .waitevWake .. | .waitevTimeout .. | .waitln .. | .waitlnWake .. | .signal .. | .stamp .. | .fence ..
  | .fenceComplete .. | .addi .. | .and .. | .or .. | .xor .. | .shl .. | .shr .. | .cmp .. | .ldw .. | .stw ..
  | .atom .. | .atomComplete .. | .lset .. | .lcopy .. | .hset .. | .cset .. | .gset .. | .sigdef .. | .sigexp ..
  | .dmakick .. | .check .. | .commit .. | .commitResult .. | .abort .. | .abortCopy .. | .benchEnWrite ..
  | .benchCommit .. | .benchResult .. | .functionLevelReset .. | .vfEnableClear .. | .pmapEntryWrite ..
  | .pmapEntryRead .. | .mcServeRequest .. | .schedUrgent .. | .mcRefresh .. | .mcEmergencyRetrain ..
  | .retireReqWrite .. | .retireStart .. | .retireCopyDone .. | .retireComplete .. | .pstCeRowClear ..
  | .pstOwnReq .. | .handoverComplete .. | .blinkGo .. | .blinkStop .. | .blinkCopyInDone .. | .blinkMarchDone ..
  | .blinkCopyBackDone .. | .pstSubstReq .. | .substCopyDone .. | .fetchGrant .. | .tagIssue .. | .fetchDataReturn ..
  | .landingWriteDone .. | .pipeConsumeWord .. | .hostReadSend .. | .hostReadCompletion .. | .hostReadTimeout ..
  | .apertureRefill .. | .selectionPoint .. | .ephArrival .. | .ephEvalStart .. | .ephVerdict .. | .gcBucketRefill ..
  | .latchWindowOpen .. | .decisionPoint .. | .decisionReceive .. | .frameBoundary .. | .lineStart ..
  | .prtQuadModeWrite .. | .prtLinkCtlWrite .. | .retrain .. | .trainingAttemptStart .. | .trainingAttemptEnd ..
  | .trainRetryTimer .. | .prtManCtlWrite .. | .hpdRise .. | .hpdFall .. | .hpdConnect .. | .hpdDisconnect ..
  | .auxGo .. | .auxTimeout .. | .auxDeferRetry .. | .laneSliceFault .. | .substReq .. | .laneSteerDone ..
  | .loopbackReq .. | .loopbackDone .. | .cdEnable .. | .apply .. | .relock .. | .reacquire .. | .cdLockDeclare ..
  | .cdLockLoss .. | .cdRelockTimeout .. | .cdProfileGo .. | .cdProfileStop .. | .cdSegmentEnd .. | .refLoss ..
  | .refPulse .. | .cdSpareReq .. | .cdSpareSwitch .. | .cdOutCtlWrite .. | .sidSet .. | .ptmUpdate ..
  | .sidAlarmEnable .. | .sidAlarmFire .. | .frameRecordComplete .. | .jrnEnable .. | .cpNow ..
  | .checkpointSigned .. | .jrnRdWrite .. | .journalEntry .. | .pwrWarnAssert .. | .pwrWarnDeassert ..
  | .sealSigned .. | .sealProgrammed .. | .meterRefill .. | .ingDone .. | .wcLineDrain .. | .wcIdleTimeout ..
  | .ingestCompletion .. | .ingCfgWrite .. | .ingRateWrite .. | .dmaStart .. | .dmaStop .. | .dmaResume ..
  | .dmaAbort .. | .dmaMoverBeat .. | .dmaWriteAck .. | .dmaWbFrameStart .. | .resizableBarWrite ..
  | .partitionWrite .. | .msixLaunch .. | .l0pRequest .. | .pcieLinkDegrade .. | .ideCheckFailed .. | .doeRequest ..
  | .hostWakeSignal .. | .gpioEdge .. | .eventOccurrence .. | .evcSrcCfgWrite .. | .evcFnIdleWrite ..
  | .stationHandlerEntry .. | .stationHandlerReturn .. | .modIntervalEnd .. | .eventHoldTimeout ..
  | .aonWatchWrite .. | .finderWake .. | .finderHandover .. | .pwrLatWrite .. | .pwrTargetEval ..
  | .pwrDeeperTimer .. | .pwrExitDone .. | .shortPost .. | .thermalSample .. | .imonAlertAssert ..
  | .imonAlertDeassert .. | .restore .. | .restoreAll .. | .lifeTick .. | .pipeCheckFail .. | .pipeSwapReq ..
  | .pipeSpareLoaded .. | .postEnd .. | .stationPoisonRead .. | .stationRestartDone .. | .selftestGo ..
  | .selftestDone .. | .sysLockWrite .. | .fetApCreditSnapshot .. | .cdNowSnapshot .. | .sidNowSnapshot ..
  | .sidPtmOfsSnapshot .. | .jrnSeqSnapshot .. | .ingFenceValSnapshot .. | .configurationRequest .. | .flrComplete ..
  | .sectorEraseDone .. | .unsupportedRequest .. => true

end Sys2Proof
end

