-- ==== Sys2Proof/Tests/Slice0.lean ====
section
/-! SUPPORT. Tests: the words of the spec's encodings, the ill-formed commands, one step here and there with its result from
the spec, and for every statement with hypotheses a state that meets them. -/

namespace Sys2Proof.Tests

open Sys2Proof Sys2Proof.Machine Sys2Proof.Claims

set_option maxRecDepth 100000
set_option Elab.async false

/-- The link is up at x16 and 128 GT/s. -/
def linked : State := State.reset.wr Reg.PCI_LINK_STATUS 0x31
/-- Page 5 of frame 5 is readable and writable by the PF, which holds head 0. -/
def mapped (s : State) : State := (s.wr (Reg.PMAP_ENTRY_LO 5) (5 * 2 ^ 20 + 7)).fset Reg.SYS_MEM_CFG Bit.SYS_MEM_CFG_VALID_PAGES 65536

/-! Ill-formed commands are refused; a well-formed one is not. -/

theorem wf_refuses_crossingTransfer : wellFormed (.crossingTransfer 2 (.hostWrite 0 2 0 .timeout 0) true false) = false := by decide
theorem wf_refuses_crossingTransfer_view : wellFormed (.crossingTransfer 2 (.hostRead 1 0x200000 4) true false) = false := by decide
theorem wf_refuses_ringEntryFetched : wellFormed (.ringEntryFetched 0 (.data [1])) = false := by decide
theorem wf_refuses_programFetchFill : wellFormed (.programFetchFill 0 (.data [1])) = false := by decide
theorem wf_refuses_ingOpen : wellFormed (.ingOpen 0 0 0 (.data [1])) = false := by decide
theorem wf_refuses_dmaDescriptorRead : wellFormed (.dmaDescriptorRead 0 (.data [1])) = false := by decide
theorem wf_refuses_dmaSourceData : wellFormed (.dmaSourceData 0 (.data (List.replicate 65 0))) = false := by decide
theorem wf_refuses_ldwDataReturn : wellFormed (.ldwDataReturn 0 (.data (List.replicate 9 0))) = false := by decide
theorem wf_refuses_ringWaitPoll : wellFormed (.ringWaitPoll 0 (.data [1])) = false := by decide
theorem wf_refuses_registerWrite : wellFormed (.registerWrite 0 0 [] ⟨.timeout, []⟩) = false := by decide
theorem wf_refuses_storePerformed : wellFormed (.storePerformed 0 0 ⟨.data [1], [0]⟩) = false := by decide
theorem wf_refuses_plateAccess : wellFormed (.plateAccess 0 0 [⟨.march, some []⟩] .clean) = false := by decide
theorem wf_refuses_plateAccess_lane : wellFormed (.plateAccess 0 0 [⟨.march, none⟩, ⟨.march, none⟩] .clean) = false := by decide
theorem wf_refuses_apertureWrite : wellFormed (.apertureWrite 0 0 [] false) = false := by decide
theorem wf_refuses_apertureRead : wellFormed (.apertureRead 0 0 0 false) = false := by decide
theorem wf_refuses_msixTableWrite : wellFormed (.msixTableWrite 1 64 0 0) = false := by decide
theorem wf_refuses_vfPmapSnapshot : wellFormed (.vfPmapSnapshot 0) = false := by decide
theorem wf_refuses_reclaim : wellFormed (.reclaim 0) = false := by decide
theorem wf_refuses_auxReply : wellFormed (.auxReply 0 0 (List.replicate 17 0) 0 false) = false := by decide
theorem wf_refuses_pipeComposeLine : wellFormed (.pipeComposeLine 0 0 16384) = false := by decide
theorem wf_refuses_refValid : wellFormed (.refValid 0 ⟨0, 0⟩) = false := by decide
theorem wf_refuses_ssIdentify : wellFormed (.ssIdentify (some ⟨1, 0, 0, 0, List.replicate 1025 0⟩)) = false := by decide
theorem wf_refuses_ssReadFail : wellFormed (.ssReadFail (some ⟨1, 0, 0, 0, List.replicate 1025 0⟩)) = false := by decide
theorem wf_refuses_ssReadFlash : wellFormed (.ssReadFlash (some ⟨1, 0, 0, 0, List.replicate 1025 0⟩)) = false := by decide
theorem wf_refuses_ssEraseSector : wellFormed (.ssEraseSector (some ⟨1, 0, 0, 0, List.replicate 1025 0⟩) true) = false := by decide
theorem wf_refuses_ssProgramFlash : wellFormed (.ssProgramFlash (some ⟨1, 0, 0, 0, List.replicate 1025 0⟩) true) = false := by decide
theorem wf_refuses_ssReadSensors : wellFormed (.ssReadSensors (some ⟨1, 0, 0, 0, List.replicate 1025 0⟩)) = false := by decide
theorem wf_refuses_ssPlateMarch : wellFormed (.ssPlateMarch (some ⟨1, 0, 0, 0, List.replicate 1025 0⟩) 0 []) = false := by decide
theorem wf_refuses_ssMemReport : wellFormed (.ssMemReport (some ⟨1, 0, 0, 0, List.replicate 1025 0⟩)) = false := by decide
theorem wf_refuses_ssBadOpcode : wellFormed (.ssBadOpcode (some ⟨1, 0, 0, 0, List.replicate 1025 0⟩)) = false := by decide

theorem wf_accepts : wellFormed (.registerWrite 0 0 [(15, 1)] ⟨.data [], [0]⟩) = true ∧ wellFormed (.nop 0) = true ∧
    wellFormed (.crossingTransfer 2 (.hostRead 1 0x1FFFFC 4) true false) = true := by decide

theorem wit_StepRunsTheFrontCommand : ({ State.reset with pending := [.lifeTick] }).pending = .lifeTick :: [] := by decide

theorem wit_IdleStepIsOneNanosecond :
    State.reset.pending = [] ∧ State.reset.ceEntry = none ∧ State.reset.sidRate = 0 ∧ State.reset.rd Reg.SID_RATE = 0 ∧
    -1000000000000000 < State.reset.sidFrac ∧ State.reset.sidFrac < 1000000000000000 := by decide +kernel

/-- A word with one field of three types. -/
theorem wit_WriteActsByFieldType :
    [((⟨0, 4⟩ : Fld), FieldType.rw), (⟨8, 1⟩, .w1c), (⟨16, 16⟩, .ro)].Pairwise (fun x y => apartFields x.1 y.1) ∧
      (∀ x ∈ [((⟨0, 4⟩ : Fld), FieldType.rw), (⟨8, 1⟩, .w1c), (⟨16, 16⟩, .ro)], apartFields x.1 ⟨4, 4⟩) := by decide

/-- The offset of `CP_VIEW`, a plain register, one outside the map, and one of an island without power. -/
theorem wit_RegisterWriteRow_plain :
    State.reset.Reaches (Reg.CP_VIEW 0) ∧ State.reset.resolve 0 (Reg.CP_VIEW 0) = some (Reg.CP_VIEW 0) ∧
      shadowObj (Reg.CP_VIEW 0) = none ∧ (regAt (Reg.CP_VIEW 0)).isSome = true ∧ Reg.CP_VIEW 0 ∉ specialBases ∧
      (State.reset.commandWrite (Reg.CP_VIEW 0) ⟨0, 0, 0, 1, .timeout⟩).isNone = true ∧
      State.reset.writeIgnored (Reg.CP_VIEW 0) 0 = false ∧ countsOf (Reg.CP_VIEW 0) = [] ∧
      State.reset.stored (Reg.CP_VIEW 0) 0 1 = 1 ∧ 4 * (BitVec.ofNat 22 (Reg.CP_VIEW 0 / 4)).toNat = Reg.CP_VIEW 0 := by decide
set_option maxRecDepth 20000 in
theorem wit_RegisterWriteRow_reserved : keyDefined (4 * (0xF0000#22).toNat) = false := by decide
theorem wit_RegisterWriteRow_asleep :
    let s := State.reset.wr Reg.SYS_ISLAND_ON0 0x1FFF
    s.inReset = false ∧ s.safe = false ∧ s.resolve 0 (4 * (0xEC082#22).toNat) = some (4 * (0xEC082#22).toNat) ∧
      keyDefined (4 * (0xEC082#22).toNat) = true ∧ s.islandOn (islandOf (4 * (0xEC082#22).toNat)) = false := by decide +kernel
theorem wit_RegisterWriteRow_reset : ({ State.reset with tripped := true }).inReset = true := by decide
/-- The set of a flag that loses against a hardware clear in its cycle, and the clear that loses against a hardware set (R8). -/
theorem test_hardware_wins : dropRaced 1 3 [(⟨0, 1⟩, .w1c), (⟨1, 1⟩, .w1c)] = 2 := by decide

/-- PS1, so that clocks of idle islands may be gated. -/
def ps1 : State := State.reset.fset Reg.PWR_STATUS Bit.PWR_STATUS_STATE 1
/-- One transfer to island 1 waits. -/
def crossing (x : Transfer) (ok failed asleep : Bool) : State := { ps1 with crossings := [⟨1, x, ok, failed, asleep⟩] }
theorem wit_TransfersBetweenIslands :
    ps1.mayGate 1 = true ∧ ps1.islandOn 1 = true ∧ ps1.crossings = [] ∧
    (crossing (.hostWrite 0 0x100 5 .timeout 0) true true false).crossings =
      [⟨(1 : IslandId), .hostWrite 0 0x100 5 .timeout 0, true, true, false⟩] ∧
    (crossing (.hostRead 0 0x100 4) false true false).islandOn (1 : IslandId) = true ∧
    (crossing .other false true false).islandOn (1 : IslandId) = true ∧
    ps1.senderOf (.hostRead 0 0x100 4) = ps1.senderOf (.hostWrite 0 0x100 5 .timeout 0) ∧
    (crossing (.hostWrite 0 0x100 5 .timeout 0) true false true).crossings =
      [⟨(1 : IslandId), .hostWrite 0 0x100 5 .timeout 0, true, false, true⟩] ∧
    (((crossing (.seqLoad 3) false true false).setSeq 3 { Seq.reset with
      waiting := .load 1 4 0 (.register 0x100) 0 8 }).seq (3 : SeqId)).reading = true := by decide +kernel

theorem wit_ResetsOfTheDevice :
    State.reset.tripped = false ∧ ({ State.reset with railBad := true }).railBad = true ∧ State.reset.perst = false ∧
    State.reset.resetHeld = false ∧ State.reset.inReset = false ∧ State.reset.powerState < 4 ∧
    State.reset.fbit Reg.SYS_RESET_CTL Bit.SYS_RESET_CTL_PERST_SCOPE = false ∧
    (State.reset.fset Reg.SYS_RESET_CTL Bit.SYS_RESET_CTL_PERST_SCOPE 1).fbit Reg.SYS_RESET_CTL
      Bit.SYS_RESET_CTL_PERST_SCOPE = true ∧ ({ State.reset with posting := none }).posting = none ∧ State.reset.safe = false ∧
    ({ State.reset with perst := true, resetHeld := true }).perst = true ∧
    ({ State.reset with perst := true, resetHeld := true }).resetHeld = true ∧ State.reset.railBad = false := by decide

/-- Command processor 0 is enabled with a ring of 1,024 entries, and P and `CP_CONSUMED` stand at 1,020 (the example of R41). -/
def ring1020 : State :=
  (((State.reset.wr (Reg.CP_CTL 0) 1).wr (Reg.CP_RING_SIZE 0) 4).wr (Reg.CP_DOORBELL 0) 1020).wr (Reg.CP_CONSUMED 0) 1020
theorem wit_Doorbell :
    (ring1020.wr (Reg.CP_DOORBELL 0) 1028).mayReadRing 0 = true ∧ (ring1020.seq 0).ringRead = none ∧
    ring1020.Reaches (Reg.CP_DOORBELL 0) ∧ ring1020.fbit (Reg.CP_CTL 0) Bit.CP_CTL_ENABLE = true ∧
    State.reset.fbit (Reg.CP_CTL 0) Bit.CP_CTL_ENABLE = false ∧ State.reset.Reaches (Reg.CP_DOORBELL 0) ∧
    ring1020.rd (Reg.CP_DOORBELL 0) = 1020 ∧ 2 ^ (12 + ring1020.rd (Reg.CP_RING_SIZE 0) % 16) / 64 = 1024 ∧
    ((1028 : Word) - 1020).toNat ≤ 1024 ∧ ¬ ((2045 : Word) - 1020).toNat ≤ 1024 := by decide
theorem test_doorbell_wrap : (ring1020.doorbell 0 1028).rd (Reg.CP_DOORBELL 0) = 1028 ∧
    (ring1020.doorbell 0 1019).rd (Reg.CP_DOORBELL 0) = 1020 ∧
    (ring1020.doorbell 0 1019).fbit (Reg.CP_STATUS 0) Bit.CP_STATUS_DB_OVER = true := by decide

/-- Entry 0 of type `ty`, its eight address bytes zero but for the first. -/
def anEntry (ty addr : Nat) : RingEntry := ⟨0, toBytes 8 ty ++ toBytes 8 addr ++ toBytes 48 0, false⟩
/-- Command processor 0, enabled, holds an entry that has not begun. -/
def withEntry (e : RingEntry) (state : Nat) (begun done : Bool) : State :=
  ((mapped State.reset).wr (Reg.CP_CTL 0) 1 |>.fset (Reg.CP_STATUS 0) Bit.CP_STATUS_STATE state).setSeq 0
    { Seq.reset with entry := some e, begun := begun, done := done }
/-- The ring lies in page 5, entry 0 is published and its read has been served. -/
def published : State :=
  (((((mapped State.reset).wr (Reg.CP_CTL 0) 1).wr (Reg.CP_STATUS 0) 1).wr (Reg.CP_RING_BASE_LO 0) 0x500000).wr (Reg.CP_DOORBELL 0) 1).setSeq
    0 { Seq.reset with ringRead := some ⟨0x500000, .localMem 0x500000, 0, 0⟩ }
theorem wit_RingEntries :
    published.mayReadRing 0 = true ∧ (published.seq 0).ringRead = some ⟨0x500000, .localMem 0x500000, 0, 0⟩ ∧
    (match published.translate 0 (published.ringAddr 0 0) .read with | .localMem p => p = 0x500000 | _ => false) = true ∧
    Served published 160 0x500000 ∧ (published.seq 0).entry = none ∧ (published.seq 0).ahead = [] ∧
    ((published.seq 0).nextRead + 1) % 2 ^ 32 = published.rd (Reg.CP_DOORBELL 0) ∧ ReadAll (withEntry (anEntry 0x100 0) 2 true true) 0 ∧
    (withEntry (anEntry 0 0) 2 false false).entryOf 0 0 = some (anEntry 0 0) ∧
    (withEntry (anEntry 1 8) 2 false false).entryOf 0 1 = some (anEntry 1 8) ∧ (anEntry 1 8).num 8 8 = 8 ∧
    (withEntry (anEntry 2 0) 2 false false).entryOf 0 2 = some (anEntry 2 0) ∧
    ((withEntry (anEntry 0x100 0) 2 true true).seq 0).entry = some (anEntry 0x100 0) ∧
    ((withEntry (anEntry 0x100 0) 2 true true).seq 0).done = true ∧ (anEntry 0x100 0).event = true ∧
    (withEntry (anEntry 0x100 0) 2 true true).fbit (Reg.CP_CTL 0) Bit.CP_CTL_WB_EN = false ∧
    (withEntry (anEntry 0x100 0) 2 true true).islandOn 2 = true := by decide +kernel
theorem test_ring_errors :
    (anEntry 5 0).error = some 0x80 ∧ (anEntry 0x30000 0).error = some 0x81 ∧ (anEntry 3 0).error = none ∧
      (anEntry 2 (2 * 2 ^ 56 + 2 ^ 40)).error = some 0x84 := by decide +kernel

/-- A `WAIT` on the word at 0x500008 with a timeout of 1 µs. -/
def waitEntry : RingEntry := ⟨0, toBytes 8 4 ++ toBytes 8 0x500008 ++ toBytes 20 0 ++ toBytes 28 1, false⟩
theorem wit_RingFencesAndWaits :
    (withEntry (anEntry 3 0x500008) 2 false false).entryOf 0 3 = some (anEntry 3 0x500008) ∧
    (withEntry (anEntry 3 0x500008) 3 true false).entryBegun 0 3 = some (anEntry 3 0x500008) ∧
    (withEntry (anEntry 3 0x500008) 3 true false).commits = [] ∧ (withEntry (anEntry 3 0x500008) 3 true false).admitted = [] ∧
    (match (withEntry (anEntry 3 0x500008) 3 true false).translate 0 0x500008 .write with | .localMem p => p = 0x500008 | _ => false) = true ∧
    (withEntry (anEntry 3 0) 3 true false).poisoned 0x500008 = false ∧ (withEntry (anEntry 3 0) 3 true false).retiring = none ∧
    (withEntry (anEntry 3 0) 3 true false).finding 0x500008 = .clean ∧ Served (withEntry waitEntry 3 true false) 160 0x500008 ∧
    ((withEntry waitEntry 3 true false).seq 0).pollRead = none ∧
    (withEntry waitEntry 2 false false).entryOf 0 4 = some waitEntry ∧ (withEntry waitEntry 2 false false).memOn = true ∧
    (match (withEntry waitEntry 2 false false).translate 0 (waitEntry.num 8 8 / 8 * 8) .read with | .localMem p => p = 0x500008 | _ => false) = true ∧
    ({ withEntry waitEntry 3 true false with sid := 1000 }).entryBegun 0 4 = some waitEntry ∧ waitEntry.num 36 4 = 1 ∧
    waitEntry.num 34 2 = 0 := by decide +kernel

/-- A `WAIT` on a word of the host window. -/
def hostWait : RingEntry := ⟨0, toBytes 8 4 ++ toBytes 8 (2 ^ 36 + 8) ++ toBytes 48 0, false⟩
/-- Command processor 0 waits for the link, which is up; its ring lies in the host window. -/
def hostRing (e : Option RingEntry) : State :=
  ((((((((State.reset.wr Reg.PCI_LINK_STATUS 1).wr (Reg.CP_STATUS 0) 5).wr (Reg.CP_CTL 0) 1).wr (Reg.CP_RING_BASE_HI 0) 16).wr
    (Reg.CP_DOORBELL 0) (if e.isSome then 0 else 1)).wr (Reg.PMAP_ENTRY_LO 65536) 7).fset Reg.SYS_MEM_CFG
    Bit.SYS_MEM_CFG_VALID_PAGES 65536).setFn 0 { PciFn.reset 0 with busMaster := true }).setSeq 0
    { Seq.reset with entry := e, begun := true, linkWait := true }
theorem wit_SequencerControl_link :
    (hostRing none).seqState 0 = 5 ∧ (hostRing none).linkUp = true ∧ ((hostRing none).fn 0).busMaster = true ∧
    ((hostRing none).seq 0).entry = none ∧ (hostRing none).seqEnabled 0 = true ∧ ¬ ReadAll (hostRing none) 0 ∧
    (match (hostRing none).translate 0 ((hostRing none).ringAddr 0 0) .read with | .hostWin f _ => f = 0 | _ => false) = true ∧
    (hostRing none).ideBlocked 0 (some 0) = false ∧ ((hostRing (some hostWait)).seq 0).entry = some hostWait ∧
    ReadAll (hostRing (some (anEntry 1 0))) 0 ∧ (anEntry 1 0).typ = 1 ∧ hostWait.typ = 4 ∧
    (match (hostRing (some hostWait)).translate 0 (hostWait.num 8 8 / 8 * 8) .read with | .hostWin f _ => f = 0 | _ => false) = true :=
  by decide +kernel
/-- Frame sequencer 0, enabled, in a given state; head 0 runs and is at its start line. -/
def atStart (state : Nat) : State :=
  ((State.reset.wr (Reg.FSQ_CTL 0) 1).wr (Reg.FSQ_STATUS 0) state).wr (hdOff 0 Hd.HEAD_STATE) 1
theorem wit_SequencerControl :
    State.reset.Reaches (Reg.CP_CTL 0) ∧ State.reset.fbit (Reg.CP_CTL 0) Bit.CP_CTL_ENABLE = false ∧
    ring1020.Reaches (Reg.CP_CTL 0) ∧ ring1020.fbit (Reg.CP_CTL 0) Bit.CP_CTL_ENABLE = true ∧
    (withEntry (anEntry 0 0) 4 false false).rd (Reg.CP_CTL 0) = 1 ∧
    (withEntry (anEntry 0 0) 4 false false).seqState 0 = 4 ∧
    ((withEntry (anEntry 0 0) 4 false false).seq 0).entry = some (anEntry 0 0) ∧
    (match (withEntry (anEntry 0 0) 4 false false).translate 0 0x500000 .read with | .localMem p => p = 0x500000 | _ => false) = true ∧
    ReadAll (hostRing (some hostWait)) 0 ∧
    State.reset.Reaches (Reg.FSQ_CTL 0) ∧ State.reset.seqEnabled 32 = false ∧ (atStart 4).rd (Reg.FSQ_CTL 0) = 1 ∧
    (atStart 4).seqState 32 = 4 ∧ (atStart 4).seqEnabled 32 = true ∧ State.reset.Reaches (Reg.FSQ_ENTRY_LO 0) := by decide
theorem wit_SequencerControl_start :
    (atStart 1).headRunning 0 = true ∧ ((atStart 1).head 0).line = (atStart 1).startLine 0 ∧ (atStart 1).seqEnabled 32 = true ∧
      (atStart 1).seqState 32 = 1 ∧ (atStart 2).seqState 32 = 2 := by decide +kernel

/-- Words written out bit by bit from R57, R61 and the table of R78. -/
theorem test_words_of_the_spec :
  decodeAtcia 0x2034_0001_0000_0007 0 = some ⟨.addi, 3, 4, 0, false, 1, 7, 0⟩ ∧
  decodeAtcia 0x2601_2000_0000_0000 0 = some ⟨.cmp, 0, 1, 2, false, 0, 0, 0⟩ ∧
  decodeAtcia 0x0300_0002_FFFF_FFFE 0 = some ⟨.jcc, 0, 0, 0, false, 2, 0xFFFFFFFE, 0⟩ ∧
  decodeAtcia 0x2905_6001_0000_0010 0 = some ⟨.stw, 0, 5, 6, false, 1, 0x10, 0⟩ ∧
  decodeAtcia 0x3007_0800_0002_4C01 0x80 = some ⟨.lset, 0, 7, 0, true, 0, 0x24C01, 0x80⟩ ∧
  decodeAtcia 0x0700_0000_0000_0000 0 = some ⟨.halt, 0, 0, 0, false, 0, 0, 0⟩ ∧
  decodeAtcia 0x0800_0000_0000_0000 0 = none ∧ decodeAtcia 0x0110_0000_0000_0000 0 = none ∧
  decodeAtcia 0x0300_000F_0000_0001 0 = none := by decide
theorem wit_AtciaDecodeAndEncodeAgree :
    atciaLegal ⟨.addi, 3, 4, 0, true, 2, 0, 0x123456789ABCDEF0⟩ = true ∧
      (decodeAtcia 0x2034_0001_0000_0007 0).isSome = true := by decide

/-- Command processor 0 runs an `INLINE` entry whose first word is `w`, with g1 to g3 as given. -/
def running (w : DWord) (g1 g2 g3 : DWord) : State :=
  let entry : RingEntry := ⟨0, List.replicate 8 0 ++ toBytes 8 w.toNat ++ List.replicate 48 0, false⟩
  (State.reset.setSeqState 0 2).setSeq 0
    { Seq.reset with entry := some entry, inl := true, begun := true, pc := 1, regs := [(1, g1), (2, g2), (3, g3)] }
/-- The same for frame sequencer 0, its word in the program buffer, with a second word. -/
def runningFsq (w k : DWord) (g1 g2 g3 : DWord) : State :=
  (State.reset.setSeqState 32 2).setSeq 32
    { Seq.reset with buffer := [(0, 0, [w, k])], regs := [(1, g1), (2, g2), (3, g3)] }
theorem wit_ConditionsOfJcc_cmp :
    (running 0x2601_2000_0000_0000 5 7 0).canIssue 0 = true ∧
    (running 0x2601_2000_0000_0000 5 7 0).fetchAt 0 = .word 0x2601_2000_0000_0000 0 ∧
    decodeAtcia 0x2601_2000_0000_0000 0 = some ⟨.cmp, 0, 1, 2, false, 0, 0, 0⟩ := by decide
theorem wit_ConditionsOfJcc_illegal :
    (runningFsq 0x0300_000F_0000_0001 0 0 0 0).canIssue 32 = true ∧
    (runningFsq 0x0300_000F_0000_0001 0 0 0 0).fetchAt 32 = .word 0x0300_000F_0000_0001 0 ∧
    (0x0300_000F_0000_0001#64).toNat / 2 ^ 56 = 0x03 ∧ (0x0300_000F_0000_0001#64).toNat / 2 ^ 32 % 16 = 15 := by decide
theorem test_cmp_then_ult : (match exec (.cmp 0) (running 0x2601_2000_0000_0000 5 7 0) with
    | .next t => conditionHolds 3 (t.seq 0) && !conditionHolds 1 (t.seq 0) && (t.seq 0).pc = 2
    | _ => false) = true := by decide

theorem wit_ArithmeticInstructions :
    (running 0x2031_0003_FFFF_FFFF 5 7 0).canIssue 0 = true ∧
    (running 0x2031_0003_FFFF_FFFF 5 7 0).fetchAt 0 = .word 0x2031_0003_FFFF_FFFF 0 ∧
    decodeAtcia 0x2031_0003_FFFF_FFFF 0 = some ⟨.addi, 3, 1, 0, false, 3, 0xFFFFFFFF, 0⟩ ∧
    (decodeAtcia 0x2131_2000_0000_0000 0).map (·.op) = some .and ∧ (decodeAtcia 0x2231_2000_0000_0000 0).map (·.op) = some .or ∧
    (decodeAtcia 0x2331_2000_0000_0000 0).map (·.op) = some .xor ∧ (decodeAtcia 0x2431_2000_0000_0000 0).map (·.op) = some .shl ∧
    (decodeAtcia 0x2531_2002_0000_0000 0).map (·.op) = some .shr := by decide
/-- 5 − (−1) = 6 with a borrow; 1 shifted left by 65 shifts by 1. -/
theorem test_addi_neg : (match exec (.addi 0) (running 0x2031_0003_FFFF_FFFF 5 7 0) with
    | .next t => (t.seq 0).reg 3 = 6 && !(t.seq 0).c && !(t.seq 0).z && (t.seq 0).pc = 2
    | _ => false) = true := by decide
theorem test_shl_ignores_high_bits : (match exec (.shl 0) (running 0x2431_2000_0000_0000 0x8000000000000001 65 0) with
    | .next t => (t.seq 0).reg 3 = 2 && (t.seq 0).c && !(t.seq 0).v
    | _ => false) = true := by decide

theorem wit_SecondOperand :
    (decodeAtcia 0x2031_0003_FFFF_FFFF 0).isSome = true ∧ (running 0x2031_2001_0000_0000 5 7 0).canIssue 0 = true ∧
    (running 0x2031_2001_0000_0000 5 7 0).fetchAt 0 = .word 0x2031_2001_0000_0000 0 ∧
    (0x2031_2001_0000_0000#64).toNat / 2 ^ 56 = opcodeOf .addi ∧ (0x2031_2001_0000_0000#64).getLsbD 32 = true ∧
    (0x2031_2001_0000_0000#64).toNat / 2 ^ 44 % 16 ≠ 0 := by decide

theorem wit_Jumps :
    (runningFsq 0x0200_0000_FFFF_FFFF 0 0 0 0).canIssue 32 = true ∧
    (runningFsq 0x0200_0000_FFFF_FFFF 0 0 0 0).fetchAt 32 = .word 0x0200_0000_FFFF_FFFF 0 ∧
    decodeAtcia 0x0200_0000_FFFF_FFFF 0 = some ⟨.jmp, 0, 0, 0, false, 0, 0xFFFFFFFF, 0⟩ ∧
    (runningFsq 0x0300_0801_0000_0000 0 0 0 0).fetchAt 32 = .word 0x0300_0801_0000_0000 0 ∧
    (decodeAtcia 0x0300_0801_0000_0000 0).isSome = true ∧
    conditionHolds 1 ((runningFsq 0x0300_0801_0000_0000 0 0 0 0).seq 32) = false := by decide
theorem test_jmp_wraps : (match exec (.jmp 32) (runningFsq 0x0200_0000_FFFF_FFFF 0 0 0 0) with
    | .next t => (t.seq 32).pc = 2 ^ 34 - 1 | _ => false) = true := by decide
theorem test_jmp_misaligned : (match exec (.jmp 32) (runningFsq 0x0200_0800_0000_0000 12 0 0 0) with
    | .next t => t.seqState 32 = 4 && t.fget (Reg.FSQ_STATUS 0) Bit.FSQ_STATUS_FAULT_CODE = 3 | _ => false) = true := by decide

theorem wit_CallReturnAndLoop :
    (runningFsq 0x0400_0000_0000_0004 0 0 0 0).canIssue 32 = true ∧
    (runningFsq 0x0400_0000_0000_0004 0 0 0 0).fetchAt 32 = .word 0x0400_0000_0000_0004 0 ∧
    (match branchTarget ((runningFsq 0x0400_0000_0000_0004 0 0 0 0).seq 32) ⟨.call, 0, 0, 0, false, 0, 4, 0⟩ false with
      | .ok t => t = 4 | .error _ => false) = true ∧
    decodeAtcia 0x0400_0000_0000_0004 0 = some ⟨.call, 0, 0, 0, false, 0, 4, 0⟩ ∧
    decodeAtcia 0x0500_0000_0000_0000 0 = some ⟨.ret, 0, 0, 0, false, 0, 0, 0⟩ ∧
    (runningFsq 0x0500_0000_0000_0000 0 0 0 0).fetchAt 32 = .word 0x0500_0000_0000_0000 0 ∧
    decodeAtcia 0x0610_0000_FFFF_FFFF 0 = some ⟨.loop, 1, 0, 0, false, 0, 0xFFFFFFFF, 0⟩ ∧
    (runningFsq 0x0610_0000_FFFF_FFFF 0 3 0 0).fetchAt 32 = .word 0x0610_0000_FFFF_FFFF 0 ∧
    (runningFsq 0x0700_0000_0000_0000 0 3 0 0).fetchAt 32 = .word 0x0700_0000_0000_0000 0 := by decide

/-- A store that has not been performed. -/
def anyStore : Store := ⟨0x1000, 0, .localMem 0x1000, [1, 2, 3, 4]⟩
theorem wit_HaltAndNop :
    (running 0x0100_0000_0000_0000 0 0 0).canIssue 0 = true ∧
    (running 0x0100_0000_0000_0000 0 0 0).fetchAt 0 = .word 0x0100_0000_0000_0000 0 ∧
    (decodeAtcia 0x0100_0000_0000_0000 0).map (·.op) = some .nop ∧
    (running 0x0700_0000_0000_0000 0 0 0).fetchAt 0 = .word 0x0700_0000_0000_0000 0 ∧
    (decodeAtcia 0x0700_0000_0000_0000 0).map (·.op) = some .halt ∧
    ({ Seq.reset with stores := [anyStore], waiting := .halt }).stores ≠ [] ∧
    ({ Seq.reset with waiting := .halt }).waiting = .halt := by decide

theorem wit_WaitingForEvents :
    (running 0x1031_2000_0000_1440 0 9 0).canIssue 0 = true ∧
    (running 0x1031_2000_0000_1440 0 9 0).fetchAt 0 = .word 0x1031_2000_0000_1440 0 ∧
    decodeAtcia 0x1031_2000_0000_1440 0 = some ⟨.waitev, 3, 1, 2, false, 0, 5184, 0⟩ ∧
    (running 0x1031_2000_0000_1440 0 9 0).sourceFn 5184 = (running 0x1031_2000_0000_1440 0 9 0).seqFn 0 ∧
    (running 0x1031_2000_0000_1440 0 9 0).rd (Reg.EVC_SRC_COUNT 5184) = 0 ∧
    ({ Seq.reset with waiting := .event 3 5184 0 (some 9) }).waiting = .event 3 5184 0 (some 9) ∧
    decodeAtcia 0x1200_0000_0000_1440 0 = some ⟨.signal, 0, 0, 0, false, 0, 5184, 0⟩ ∧
    (running 0x1200_0000_0000_1440 0 0 0).fetchAt 0 = .word 0x1200_0000_0000_1440 0 := by decide

theorem wit_WaitingForLinesAndFences :
    (runningFsq 0x1101_0000_0000_0000 0 5 0 0).canIssue 32 = true ∧
    (runningFsq 0x1101_0000_0000_0000 0 5 0 0).fetchAt 32 = .word 0x1101_0000_0000_0000 0 ∧
    decodeAtcia 0x1101_0000_0000_0000 0 = some ⟨.waitln, 0, 1, 0, false, 0, 0, 0⟩ ∧
    (match (runningFsq 0x1101_0000_0000_0000 0 5 0 0).namedHead 32 ⟨.waitln, 0, 1, 0, false, 0, 0, 0⟩ with
      | .ok h => h = 0 | .error _ => false) = true ∧
    (runningFsq 0x1101_0000_0000_0000 0 5 0 0).headRunning 0 = false ∧
    (State.reset.wr (hdOff 0 Hd.HEAD_STATE) 1).headRunning 0 = true ∧
    decodeAtcia 0x1310_0001_0000_0000 0 = some ⟨.stamp, 1, 0, 0, false, 1, 0, 0⟩ ∧
    (running 0x1310_0001_0000_0000 0 0 0).fetchAt 0 = .word 0x1310_0001_0000_0000 0 ∧
    decodeAtcia 0x1400_000F_0000_0000 0 = some ⟨.fence, 0, 0, 0, false, 15, 0, 0⟩ ∧
    (running 0x1400_000F_0000_0000 0 0 0).fetchAt 0 = .word 0x1400_000F_0000_0000 0 ∧
    State.reset.fenceHolds 0 15 = true := by decide

theorem wit_TakingAnException :
    ((running 0x0110_0000_0000_0000 0 0 0).seq 0).pc < 2 ^ 34 ∧ (running 0x0110_0000_0000_0000 0 0 0).islandOn 2 = true ∧
    (running 0x0110_0000_0000_0000 0 0 0).canIssue 0 = true ∧
    (running 0x0110_0000_0000_0000 0 0 0).fetchAt 0 = .word 0x0110_0000_0000_0000 0 ∧
    opOf ((0x0110_0000_0000_0000#64).toNat / 2 ^ 56) = some .nop ∧ (0x0110_0000_0000_0000#64).toNat % 2 ^ 56 ≠ 0 ∧
    (running 0xFF00_0000_0000_0000 0 0 0).fetchAt 0 = .word 0xFF00_0000_0000_0000 0 ∧
    opOf ((0xFF00_0000_0000_0000#64).toNat / 2 ^ 56) = none := by decide

theorem wit_FetchingAProgramLine :
    (runningFsq 0 0 0 0 0).canIssue 32 = true ∧
    (({ Seq.reset with pc := 8 } : Seq).buffer = []) ∧
    ((runningFsq 0 0 0 0 0).setSeq 32 { Seq.reset with pc := 0xA0008 }).fetchAt 32 = .miss 0x500040 ∧
    ((runningFsq 0 0 0 0 0).setSeq 32 { Seq.reset with pc := 2 ^ 34 }).fetchAt 32 = .past ∧
    (match (mapped State.reset).translate 0 0x500040 .read with | .localMem p => p = 0x500040 | _ => false) = true ∧
    (match State.reset.translate 0 0x500040 .read with | .refused p => p = 5 | _ => false) = true ∧
    State.reset.memOn = true ∧ State.reset.poisoned 0x500040 = false ∧ State.reset.ideBlocked 0 (some 0) = false ∧
    State.reset.unserved 32 0x500040 = false ∧ State.reset.finding 0x500040 = .clean ∧
    State.reset.linkUp = false ∧
    (({ Seq.reset with waiting := .fetch 0 (.localMem 0) 0 } : Seq).waiting = .fetch 0 (.localMem 0) 0) ∧
    ({ (State.reset.fset Reg.SYS_MEM_CFG Bit.SYS_MEM_CFG_ECC_EN 1) with poison := [0x500040] }).poisoned 0x500040 = true := by
  decide

theorem wit_LoadsAndStores :
    (running 0x2831_0001_0000_0000 0x500010 0 0).canIssue 0 = true ∧
    (running 0x2831_0001_0000_0000 0x500010 0 0).fetchAt 0 = .word 0x2831_0001_0000_0000 0 ∧
    decodeAtcia 0x2831_0001_0000_0000 0 = some ⟨.ldw, 3, 1, 0, false, 1, 0, 0⟩ ∧
    decodeAtcia 0x2901_2005_0000_0000 0 = some ⟨.stw, 0, 1, 2, false, 5, 0, 0⟩ ∧
    (running 0x2901_2005_0000_0000 0x870030 1 0).fetchAt 0 = .word 0x2901_2005_0000_0000 0 ∧
    dataAddr (running 0x2831_0001_0000_0000 0x500010 0 0) 0 ⟨.ldw, 3, 1, 0, false, 1, 0, 0⟩ = 0x500010 ∧
    dataSize ⟨.ldw, 3, 1, 0, false, 1, 0, 0⟩ = 4 ∧
    ((running 0x2831_0001_0000_0000 0x500010 0 0).seq 0).storeAt 0x500010 false = false ∧
    (match (mapped State.reset).translate 0 0x500010 .write with | .localMem p => p = 0x500010 | _ => false) = true ∧
    (match State.reset.translate 0 0x500010 .write with | .refused p => p = 5 | _ => false) = true ∧
    State.reset.memOn = true ∧ (State.reset.readWord 0 0).2.isSome = true ∧ State.reset.inTransit (.seqLoad 0) = false ∧
    Served State.reset 0 0x500010 ∧ State.reset.inTransit (.seqStore 0) = false ∧
    (({ Seq.reset with stores := [anyStore] } : Seq).stores = anyStore :: []) := by decide

theorem wit_AtomicInstructions :
    (running 0x2A31_2005_0000_0000 0x500010 7 9).canIssue 0 = true ∧
    (running 0x2A31_2005_0000_0000 0x500010 7 9).fetchAt 0 = .word 0x2A31_2005_0000_0000 0 ∧
    decodeAtcia 0x2A31_2005_0000_0000 0 = some ⟨.atom, 3, 1, 2, false, 5, 0, 0⟩ ∧
    (match (mapped State.reset).translate 0 0x500010 .both with | .localMem p => p = 0x500010 | _ => false) = true ∧
    Served State.reset 0 0x500010 ∧ State.reset.retiring = none ∧ State.reset.atomFirst 0 0x500010 0 = true ∧
    (({ Seq.reset with waiting := .atom 3 8 5 0x500010 0x500010 0 7 9 } : Seq).waiting = .atom 3 8 5 0x500010 0x500010 0 7 9) ∧
    (State.reset.fset Reg.SYS_MEM_CFG Bit.SYS_MEM_CFG_ECC_EN 1).eccOn = true := by decide

theorem wit_StateInstructions :
    (running 0x3001_2000_0000_4C01 7 9 0).canIssue 0 = true ∧
    (running 0x3001_2000_0000_4C01 7 9 0).fetchAt 0 = .word 0x3001_2000_0000_4C01 0 ∧
    decodeAtcia 0x3001_2000_0000_4C01 0 = some ⟨.lset, 0, 1, 2, false, 0, 0x4C01, 0⟩ ∧
    (match fieldWord .lset 0x4C01 7 with | .ok off => off = lyrOff 7 1 | .error _ => false) = true ∧
    (match fieldWord .lset 0x4801 7 with | .ok _ => false | .error c => c = 8) = true ∧
    (match fieldWord .lset 0x4C01 4096 with | .ok _ => false | .error c => c = 9) = true ∧
    (shadowObj (lyrOff 7 1)).isSome = true ∧ (running 0 0 0 0).slotFn 7 = (running 0 0 0 0).seqFn 0 ∧
    decodeAtcia 0x3101_2000_0000_0000 0 = some ⟨.lcopy, 0, 1, 2, false, 0, 0, 0⟩ ∧
    (running 0x3101_2000_0000_0000 7 9 0).fetchAt 0 = .word 0x3101_2000_0000_0000 0 ∧
    decodeAtcia 0x3601_0001_0000_5308 0 = some ⟨.sigexp, 0, 1, 0, false, 1, 0x5308, 0⟩ := by decide

theorem wit_ShadowWritesAreAccepted :
    let s := State.reset.setSeq 40 { Seq.reset with shadowQ := [.words [(lyrOff 7 1, 0xFFF, 5)]] }
    (s.seq 40).shadowQ = [.words [(lyrOff 7 1, 0xFFF, 5)]] ∧ (∀ p < 161, p ≠ 40 → s.queueAt p = []) := by decide +kernel

theorem wit_PlateMapDecidesEveryAccess :
    EntryPermits (mapped State.reset) 0 5 .both ∧ ¬ EntryPermits State.reset 0 5 .read ∧
    EntryPermits (State.reset.wr (Reg.PMAP_ENTRY_LO 65536) (0x30000000 + 8 * 3 + 3)) 3 65536 .read ∧
    3 ≠ (mapped State.reset).fget (Reg.PMAP_ENTRY_LO 5) Bit.PMAP_ENTRY_LO_FN ∧
    (mapped State.reset).fget (Reg.PMAP_ENTRY_LO 5) Bit.PMAP_ENTRY_LO_SHARE_READ = 0 := by decide

theorem wit_PlateMapEntries : State.reset.Reaches (Reg.PMAP_ENTRY_LO 70000) ∧ State.reset.inFlight = [] := by decide

/-- ECC is on and the word at 0x500040 is poisoned. -/
def poisonedWord : State := { State.reset.fset Reg.SYS_MEM_CFG Bit.SYS_MEM_CFG_ECC_EN 1 with poison := [0x500040] }
theorem wit_MemoryHoldsWhatWasWritten :
    State.reset.poisoned 0x500010 = false ∧ State.reset.retiring = none ∧ poisonedWord.poisoned 0x500044 = true ∧
    poisonedWord.poison.Nodup ∧ State.reset.fbit Reg.SYS_MEM_CFG Bit.SYS_MEM_CFG_ECC_EN = false ∧
    ({ State.reset with retiring := some ⟨5, 5, 9, false⟩ } : State).retiring = some ⟨5, 5, 9, false⟩ := by decide
theorem test_store_then_load : ((State.reset.store 0x500010 [1, 2, 3]).loadBytes 0x500010 3) = [1, 2, 3] := by decide

/-- V is 16,384; ECC is on. -/
def memConfigured : State :=
  (State.reset.fset Reg.SYS_MEM_CFG Bit.SYS_MEM_CFG_VALID_PAGES 16384).fset Reg.SYS_MEM_CFG Bit.SYS_MEM_CFG_ECC_EN 1
/-- A tag of pipe 0 whose local read is issued, 100 ns from its deadline. -/
def anyTag : Tag :=
  { pipe := 0, head := 0, slot := 0, kind := 0, band := 0, word := 0, frame := 1, addr := 0, at_ := 0, dest := .localMem 0,
    deadline := 100, state := 1, spare := false, issued := true, urgent := false, request := none, answer := 0, data := [],
    arrived := 0 }
/-- The same, urgent, with the given deadline. -/
def urgentTag (d : Int) : Tag := { anyTag with urgent := true, deadline := d }
theorem wit_MemoryControllersAndRetirement :
    ((State.reset.mcBusy = [] ∧ State.reset.now < 500) ∧ (tabGet [(3, 500)] 3).getD 0 = 500) ∧
    (tabGet memConfigured.mcBusy 0).getD 0 ≤ memConfigured.now ∧ memConfigured.memOn = true ∧ memConfigured.scanReads 0 = [] ∧
    memConfigured.throttled = false ∧ ({ memConfigured with mcQueue := [⟨0, 5, 0, false, 0⟩] } : State).mcFirst 0 false = some ⟨0, 5, 0, false, 0⟩ ∧
    ({ memConfigured with mcQueue := [⟨0, 5, 0, true, 0⟩] } : State).mcFirst 0 true = some ⟨0, 5, 0, true, 0⟩ ∧
    ({ memConfigured with mcQueue := [⟨0, 5, 0, true, 0⟩] } : State).mcFirst 0 false = none ∧
    ({ memConfigured with tags := [(7, urgentTag 100)] } : State).scanReads 0 = [(7, urgentTag 100, true)] ∧
    ({ memConfigured with tags := [(7, urgentTag 100)] } : State).poisoned 0 = false ∧
    memConfigured.rd (Reg.MC_SCHED_SLACK 0) = 2 ^ 31 - 1 ∧
    tabGet ({ State.reset with tags := [(7, anyTag)] } : State).tags 7 = some anyTag ∧
    memConfigured.Reaches Reg.SYS_RETIRE_REQ ∧ memConfigured.retiring = none ∧ memConfigured.retireQueue = [] ∧
    memConfigured.fget Reg.SYS_RETIRE_STATUS Bit.SYS_RETIRE_STATUS_USED < 1024 ∧
    ({ memConfigured with retireQueue := [5] } : State).retireQueue = 5 :: [] ∧
    ({ memConfigured with retiring := some ⟨5, 5, 15360, false⟩ } : State).retiring = some ⟨5, 5, 15360, false⟩ ∧
    ({ memConfigured with retiring := some ⟨5, 5, 15360, true⟩ } : State).inFlight = [] ∧
    memConfigured.islandOn (10 + mcOf (5 * 2 ^ 20)) = true := by decide +kernel
theorem wit_MemoryControllersAndRetirement_urgent (s : State) : anyTag.deadline - (s.replica (10 + mcOf 0) : Int) ≤ 4000 := by
  simp only [anyTag]; omega
theorem wit_MemoryControllersAndRetirement_slack :
    0 ≤ (urgentTag 100).deadline - (memConfigured.replica 10 : Int) ∧ (urgentTag (-5)).deadline - (memConfigured.replica 10 : Int) < 0 ∧
    -(2 ^ 31 : Int) ≤ (urgentTag (-5)).deadline - (memConfigured.replica 10 : Int) ∧
    signed 32 ((memConfigured.wr (Reg.MC_SCHED_SLACK 0) 0).rd (Reg.MC_SCHED_SLACK 0)) = 0 := by
  have h : memConfigured.replica 10 ≤ 9 := by
    have h0 : memConfigured.now = 0 := by decide
    unfold State.replica; rw [h0]; split <;> omega
  refine ⟨by simp only [urgentTag]; omega, by simp only [urgentTag]; omega, by simp only [urgentTag]; omega, by decide⟩

/-- Plate 0 belongs to cluster 0, whose pipe 2 and 5 write one word in one cycle. -/
def plateZero (bits : Nat) : State := State.reset.wr (Reg.PST_OWN 0) (1 + bits)
def laneTwo : PlateUse := ⟨.pipe 2, some [(0, 7), (1, 9)]⟩
def laneFive : PlateUse := ⟨.pipe 5, some [(1, 8), (2, 8)]⟩
def aBlink (phase ending : Nat) : BlinkRun := ⟨0, 0, true, false, 127, 127, phase, false, ending, false⟩
/-- A destructive checkerboard in stripe 3 of plate 9. -/
def destructive : State := { State.reset with blinks := [(1, ⟨9, 2, false, false, 3, 5, 1, false, 0, false⟩)] }
def blinking (phase ending : Nat) : State := { State.reset with blinks := [(0, aBlink phase ending)] }
theorem wit_PlateStore :
    ¬ Owns State.reset 0 5 ∧ State.reset.blinkReaches 0 0 ⟨.writeback, none⟩ = false ∧ tabGet destructive.blinks 1 ≠ none ∧ Owns (plateZero 0) 0 1 ∧ (plateZero 0).platePoison = [] ∧ laneTwo.bytes ≠ none ∧
    ([laneTwo, laneFive].map (·.lane)).Nodup ∧ State.reset.Reaches (Reg.PST_CE_ROW 3 1) ∧
    (plateZero 0).Reaches (Reg.PST_OWN_REQ 0) ∧ (plateZero 1024).fbit (Reg.PST_OWN 0) Bit.PST_OWN_FIXED = true ∧
    (plateZero 512).fbit (Reg.PST_OWN 0) Bit.PST_OWN_TRANSIT = true ∧ (plateZero 2048).fbit (Reg.PST_OWN 0) Bit.PST_OWN_SUBST = true ∧
    (plateZero 0).plateLive 0 = false ∧ (State.reset.wr (Reg.PST_OWN 0) 7).plateLive 0 = true ∧
    (State.reset.wr (Reg.PST_OWN 0) 7).Reaches (Reg.PST_OWN_REQ 0) ∧
    ({ State.reset with handovers := [(0, 3, 1, true)] } : State).blinks = [] ∧
    State.reset.Reaches (Reg.PST_BLINK_CTL 0) ∧ State.reset.quadrantOf 0 = 0 ∧ State.reset.plateTransit 0 = false ∧
    State.reset.inSubst 0 = false ∧ (blinking 0 0).Reaches (Reg.PST_BLINK_CTL 0) ∧
    ((blinking 0 0).wr (Reg.PST_BLINK_CTL 0) 48).rd (Reg.PST_BLINK_CTL 0) % 4 = 0 ∧
    tabGet (blinking 2 1).blinks 0 = some (aBlink 2 1) ∧ State.reset.Reaches Reg.PST_SUBST_REQ ∧
    State.reset.freeSite = some 32 ∧ State.reset.subst = none := by decide
theorem wit_PlateStore_subst :
    (plateZero 4096).fbit (Reg.PST_OWN 0) Bit.PST_OWN_FAILED = true ∧
    ((State.reset.wr (Reg.PST_SITE 32) 3).wr (Reg.PST_SITE 33) 3).freeSite = none ∧
    ({ State.reset with subst := some (0, 32) } : State).subst = some (0, 32) ∧
    State.reset.fget (Reg.PST_OWN 0) Bit.PST_OWN_SITE = 0 := by decide
theorem test_lowest_lane_wins :
    (((plateZero 0).plateAccess 0 0 [laneFive, laneTwo] .clean).plateByte 1) = 9 ∧
    (((plateZero 0).plateAccess 0 0 [laneFive, laneTwo] .clean).fget (Reg.PST_COLLIDE 0) Bit.PST_COLLIDE_LANE_LOST) = 5 := by decide +kernel

/-- Head 0, of 16 x 2 pixels on pipe 0, shows layer 0, an RGBA8888 surface of its size in page 5. -/
def fetchView : View :=
  [(hdOff 0 Hd.HEAD_EN, 1), (hdOff 0 Hd.HACTIVE, 16), (hdOff 0 Hd.VACTIVE, 2), (hdOff 0 Hd.PIPE, 0),
   (lyrOff 0 Lyr.LAYER_EN, 1), (lyrOff 0 Lyr.DST_W, 16), (lyrOff 0 Lyr.DST_H, 2), (lyrOff 0 Lyr.CROP_W, 16),
   (lyrOff 0 Lyr.CROP_H, 2), (lyrOff 0 Lyr.SURF_W, 16), (lyrOff 0 Lyr.SURF_H, 2), (lyrOff 0 Lyr.P0_ADDR_LO, 0x500000),
   (lyrOff 0 Lyr.P0_PITCH, 64)].foldl (fun v e => viewPut v e.1 e.2) []
/-- Its landing and Aperture stand and pipe 0 has a quota. -/
def fetching (credit : Int) (landed : List Landed) : State :=
  { (((mapped State.reset).wr (hdOff 0 Hd.HEAD_STATE) 1).wr (Reg.FET_PIPE_QUOTA 0) 8).wr (Reg.PST_OWN 0) 1 with
    drives := [(0, { State.reset.drive 0 with gated := false })],
    active := viewPut fetchView 0x3B9800 1, apertures := [(0, ⟨65536, 64, credit⟩)], landed := landed,
    activePlans := [(0, { GroupPlan.empty with items := [⟨0, 0, 4096, 4096, 0, 0⟩] })] }
def aWord (status : Nat) : Landed := ⟨0, 0, 0, 0, 0, 0, status, [], false, false, false, 4096⟩
def inFrame (s : State) (f : FrameRun → FrameRun) : State := s.setFrameRun 0 (f FrameRun.reset)
theorem wit_FetchAndComposition :
    (fetching 0 []).wants 0 = [⟨-3000, 0, 0, 0, 0, 0⟩] ∧
    (fetching 0 []).wantPlace 0 ⟨-3000, 0, 0, 0, 0, 0⟩ = some (0x500000, .localMem 0x500000) ∧
    (fetching 0 []).admits 0 ⟨-3000, 0, 0, 0, 0, 0⟩ (.localMem 0x500000) = true ∧ ((fetching 0 []).tagFor 0 false).isSome = true ∧
    (fetching (-1) []).admits 0 ⟨-3000, 0, 0, 0, 0, 0⟩ (.localMem 0x500000) = false ∧
    (fetching 0 []).fetches 0 0 = true ∧ ((fetching 0 []).sourceAt ((fetching 0 []).pipeView 0 0) 0 0).isSome = true ∧
    bandOf ((fetching 0 []).pipeView 0 0) ((fetching 0 []).pipePlan 0 0).occlusion 0 0 0 0 0 = some 0 ∧
    (fetching 0 [aWord 1]).landedWord 0 0 0 0 0 = some (aWord 1) ∧ (fetching 0 [aWord 2]).landedWord 0 0 0 0 0 = some (aWord 2) ∧
    (fetching 0 [aWord 1]).reaches 0 ((fetching 0 [aWord 1]).pipeUnit 0).owner = true ∧ (fetching 0 []).switches = [] := by
  decide +kernel
theorem wit_FetchAndComposition_ticks : (fetching 0 []).ticksDue 2 ((fetching 0 []).pipeIsland 0) = 0 := by
  have h : (fetching 0 []).now = 0 := by decide +kernel
  have : (fetching 0 []).replica ((fetching 0 []).pipeIsland 0) ≤ 9 := by
    unfold State.replica; rw [h]; split <;> omega
  unfold State.ticksDue
  rw [Nat.div_eq_of_lt (by omega), Nat.zero_sub]
theorem wit_FetchAndComposition_tags :
    tabGet ({ State.reset with tags := [(7, { anyTag with issued := false, state := 0 })] } : State).tags 7 =
      some { anyTag with issued := false, state := 0 } ∧
    tabGet ({ State.reset with tags := [(7, { anyTag with answer := 1 })] } : State).tags 7 = some { anyTag with answer := 1 } ∧
    tabGet ({ State.reset with tags := [(7, { anyTag with answer := 3 })] } : State).tags 7 = some { anyTag with answer := 3 } ∧
    tabGet ({ State.reset with tags := [(7, { anyTag with answer := 1, state := 2 })] } : State).tags 7 =
      some { anyTag with answer := 1, state := 2 } ∧
    tabGet ({ State.reset with tags := [(7, { anyTag with answer := 1, state := 3 })] } : State).tags 7 =
      some { anyTag with answer := 1, state := 3 } ∧
    linked.linkUp = true ∧ linked.ideBlocked 0 (some 0x40) = false ∧ State.reset.nextHostTag = none ∧
    ({ linked with tags := [(7, { anyTag with dest := .hostWin 0 0x40 })] } : State).tags = [(7, { anyTag with dest := .hostWin 0 0x40 })] ∧
    ({ linked with hostReads := [⟨3, 0, 0x40, 1000, [7]⟩] } : State).hostReads.find? (·.id = 3) = some ⟨3, 0, 0x40, 1000, [7]⟩ ∧
    linked.hostAnswer 0 0x40 (.data []) = .data [] ∧ linked.now < 1000 ∧
    1000 ≤ ({ linked with sid := 10 ^ 9 } : State).now ∧
    State.reset.now < (State.reset.setSeq 0 { Seq.reset with deadline := 5 } |>.seq 0).deadline ∧
    tabGet (fetching 0 []).apertures 0 = some ⟨65536, 64, 0⟩ ∧ State.reset.Reaches Reg.FET_AP_CREDIT_LO := by decide +kernel
theorem wit_FetchAndComposition_lines :
    (fetching 0 []).serves 0 0 = true ∧ activeH ((fetching 0 []).pipeView 0 0) 0 = 2 ∧
    tabGet ((fetching 0 []).frameRun 0).rows 0 = none ∧ State.reset.serves 0 0 = false ∧
    ((fetching 0 []).frameRun 0).black = false ∧ ((fetching 0 []).frameRun 0).reading = false ∧
    ((inFrame (fetching 0 []) fun x => { x with black := true }).frameRun 0).black = true ∧
    tabGet ((inFrame { fetching 0 [] with retained := [(0, ⟨[(0, [(1, 2, 3)])], [], [], []⟩)] } fun x => { x with reading := true }).frameRun 0).rows 0 = none ∧
    (inFrame { fetching 0 [] with retained := [(0, ⟨[(0, [(1, 2, 3)])], [], [], []⟩)] } fun x => { x with reading := true }).serves 0 0 = true := by
  decide +kernel
/-- The grey camera pixel of the example under R197. -/
theorem test_grey_camera_pixel :
    layerColour [(lyrOff 0 Lyr.FORMAT, 8), (lyrOff 0 Lyr.IN_RANGE, 1), (lyrOff 0 Lyr.CSC_SEL, 2), (lyrOff 0 Lyr.DEGAMMA_SEL, 0)] 0
      ⟨32382, 32896, 32896, 65535⟩ = ⟨32917, 32917, 32917, 65535⟩ := by decide +kernel
/-- The coefficient rows of the example under R183. -/
theorem test_lanczos_rows :
    ((List.range 8).map (coef [] 0x410000 0 32)) = [-13, 61, -170, 634, 634, -170, 61, -13] ∧
    ((List.range 6).map (coef [] 0x414000 0 32)) = [25, -139, 626, 626, -139, 25] := by decide +kernel

theorem wit_CommitInstructions :
    (running 0x5111_0000_0000_0000 1 0 0).canIssue 0 = true ∧
    (running 0x5111_0000_0000_0000 1 0 0).fetchAt 0 = .word 0x5111_0000_0000_0000 0 ∧
    (decodeAtcia 0x5111_0000_0000_0000 0).map (·.op) ≠ none ∧
    GoodMask (running 0 1 0 0) 0 1 ∧ ((running 0 1 0 0).seq 0).shadowQ = [] ∧
    ((running 0 1 0 0).commits.filter fun c => c.by_ = 0).length < 4 := by decide +kernel
theorem wit_CommitInstructions_abort :
    (((State.reset.setSeq 0 { Seq.reset with waiting := .abort 1 })).seq 0).waiting = .abort 1 ∧
      (State.reset.setSeq 0 { Seq.reset with waiting := .abort 1 }).commits = [] := by decide

/-- A commit of group 0 with a verdict. -/
def aCommit (by_ : Nat) (verdict : Option Nat) : Commit :=
  { id := 3, by_ := by_, fn := 0, ticket := 7, mask := 1, dry := false, result := 0, target := none, issue := 0, snap := [],
    bench := decide (by_ = 160), arrived := false, tS := none, sampled := [], sampledDrives := [],
    sampledRoles := [], sampledSubst := [], sources := [], occlusion := ⟨[], []⟩,
    mapRefused := false, verdict := verdict, frame := 9 }
def withCommit (c : Commit) : State := { State.reset with commits := [c] }
theorem wit_CommitResultsAndBenchMode :
    (withCommit (aCommit 5 (some 1))).commits.find? (fun d => d.id = 3) = some (aCommit 5 (some 1)) ∧
    (withCommit (aCommit 5 (some 1))).commits.find? (fun d => d.by_ = 5) = some (aCommit 5 (some 1)) ∧
    (withCommit (aCommit 5 (some 1))).islandOn 4 = true ∧
    (((withCommit (aCommit 5 (some 1))).setSeq 5 { Seq.reset with waiting := .result 2 3 }).seq 5).waiting = .result 2 3 ∧
    State.reset.Reaches Reg.SYS_BENCH_CTL ∧ (∀ q : SeqId, State.reset.seqState q = 0) ∧ ring1020.seqState 0 = 0 ∧
    (State.reset.setSeqState 3 1).seqState 3 ≠ 0 ∧
    State.reset.fbit Reg.SYS_BENCH_CTL Bit.SYS_BENCH_CTL_BENCH_EN = false ∧ State.reset.Reaches Reg.SYS_BENCH_COMMIT ∧
    (State.reset.wr Reg.SYS_BENCH_CTL 1).fbit Reg.SYS_BENCH_CTL Bit.SYS_BENCH_CTL_BENCH_EN = true ∧
    State.reset.fbit Reg.SYS_BENCH_RESULT Bit.SYS_BENCH_RESULT_BUSY = false ∧
    (withCommit (aCommit 160 (some 0))).commits = [aCommit 160 (some 0)] := by decide +kernel

/-- Depot Wall at 24 Gb/s with ECC off (R216). -/
theorem test_svc_local :
    (((State.reset.wr Reg.SYS_MEM_CFG 0).fset Reg.SYS_MEM_CFG Bit.SYS_MEM_CFG_RATE 24)).svcLocal = 947965 := by decide +kernel

def evaluated : State := withCommit { aCommit 5 none with arrived := true, tS := some 0 }
/-- A commit of group 0, whose member is head 0, disabled. -/
def admissible (dry : Bool) : Commit :=
  { aCommit 5 none with arrived := true, tS := some 0, snap := viewPut [] 0x3B9800 1, sampled := State.reset.regs, dry := dry }
theorem wit_Verdicts_admitted :
    ((withCommit (admissible false)).judge (admissible false)).1 = 0 ∧
    ((withCommit (admissible false)).placeCommit (admissible false) (withCommit (admissible false)).newest
      ((withCommit (admissible false)).judge (admissible false)).2.2).isSome = true := by decide +kernel
theorem wit_Verdicts :
    (withCommit (aCommit 5 none)).commits.find? (fun d => d.id = 3) = some (aCommit 5 none) ∧
    (withCommit { aCommit 5 none with arrived := true }).commits =
      [{ aCommit 5 none with arrived := true }] ∧
    ({ State.reset with commits := [{ aCommit 4 none with arrived := true, id := 1 }, { aCommit 5 none with arrived := true }] } :
      State).commits.length = 2 ∧
    evaluated.commits = [{ aCommit 5 none with arrived := true, tS := some 0 }] ∧
    (evaluated.judge { aCommit 5 none with arrived := true, tS := some 0 }).1 = 8 := by decide +kernel

/-- An admitted commit of no group whose window is open; islands 10 and 26 hold its state. -/
def anAdmitted (acked : List Nat) (decision : Option Bool) (opened : Bool) : Admitted :=
  { id := 3, by_ := 5, fn := 0, ticket := 7, mask := 1, result := 0, issue := 0, view := [], bench := false,
    frames := [(0, 5, 100000)], headFrames := [], windowEnd := 100000, extra := false, plans := [], opened := opened, waitOk := true,
    waited := [], exhausted := [], told := false, need := [10, 26], copies := acked, acked := acked, decision := decision,
    decided := [], switched := [] }
def withAdmitted (a : Admitted) : State := { State.reset with admitted := [a] }
theorem wit_LatchWindows :
    (withAdmitted (anAdmitted [] none false)).admitted.find? (fun b => b.id = 3) = some (anAdmitted [] none false) ∧
    (withAdmitted (anAdmitted [10] none true)).admitted.find? (fun b => b.id = 3) = some (anAdmitted [10] none true) ∧
    26 ∈ (anAdmitted [10] none true).need ∧ 26 ∉ (anAdmitted [10] none true).copies ∧
    (withAdmitted (anAdmitted [10] none true)).islandOn 26 = true ∧ (∀ i ∈ (anAdmitted [10, 26] none true).need, i ∈ (anAdmitted [10, 26] none true).acked) ∧
    (∃ i ∈ (anAdmitted [10] none true).need, i ∉ (anAdmitted [10] none true).acked) ∧
    10 ∈ (anAdmitted [10] (some true) true).copies ∧ 10 ∈ (anAdmitted [10] (some false) true).copies ∧
    ({ State.reset with switches := [⟨3, 26, 0, GroupPlan.empty, GroupPlan.empty, []⟩] } : State).switches =
      [⟨3, 26, 0, GroupPlan.empty, GroupPlan.empty, []⟩] := by decide +kernel

/-- Head 0 runs, with a vertical total of 2,222, and is enabled in the active copy. -/
def headZero : State :=
  { (State.reset.wr (hdOff 0 Hd.HEAD_STATE) 1).wr (hdOff 0 Hd.ACT_VTOTAL) 2222 with
    active := viewPut [] (hdOff 0 Hd.HEAD_EN) 1, selectedAt := [(0, 5)] }
/-- Its drive runs and its last line has ended, composed and recorded. -/
def headLast : State := { headZero with
  drives := [(0, { State.reset.drive 0 with gated := false })],
  heads := [(0, { State.reset.head 0 with line := 2221, nextV := 2223 })], frames := [(0, { FrameRun.reset with recorded := true })] }
/-- The same with a commit of group 0, whose member is head 0, decided for frame 1. -/
def headDue : State := { headLast with admitted := [{ anAdmitted [10, 26] (some true) true with
  view := viewPut (viewPut [] (hdOff 0 Hd.HEAD_EN) 1) 0x3B9800 1, frames := [(0, 1, 100000)], headFrames := [(0, 1)] }] }
/-- Layer 0 of head 0, bound to stream 0, whose slot 0 is complete with stamp 100; 30,000 ns have passed. -/
def headBound (last policy : Nat) : State := { headLast with
  sid := 30000, selectedAt := [(0, last)],
  active := [(lyrOff 0 Lyr.LAYER_EN, 1), (lyrOff 0 Lyr.INGEST_STREAM, 0), (lyrOff 0 Lyr.INGEST_MODE, 0), (lyrOff 0 Lyr.READY_POLICY, policy)].foldl
    (fun v e => viewPut v e.1 e.2) headZero.active,
  slots := [(0, ⟨2, 100, 0, 0⟩)] }
theorem wit_BoundariesAndSelection :
    headZero.headRunning 0 = true ∧ headZero.dueFor 0 1 = none ∧ (headZero.head 0).frame = 0 ∧ tabGet headZero.selectedFor 0 = none ∧
    headZero.admitted = [] ∧ hdf headZero.active 0 Hd.HEAD_EN = 1 ∧ headZero.islandOn 62 = true ∧
    (headZero.head 0).line + 1 < headZero.vtotal 0 ∧ headZero.splits = [] ∧ (headLast.drive (hdf headLast.active 0 Hd.CD_SEL)).gated = false ∧
    (headZero.drive (hdf headZero.active 0 Hd.CD_SEL)).gated = true ∧
    (headLast.frameRun 0).recorded = true ∧ (headLast.head 0).line + 1 = headLast.vtotal 0 ∧ headLast.phaseHeld headLast.active 0 = false ∧
    (headDue.dueFor 0 1).map (·.decision) = some (some true) ∧ (headDue.dueFor 0 1).map (groupOf ·.view 0) = some (some 0) := by
  decide +kernel

/-- Port 0 in a state of R236 with the given engine state; its head has no fields. -/
def portIn (st : Nat) (f : Port → Port) : State := (State.reset.setPort 0 (f Port.reset)).setPortState 0 st
def manual (s : State) : State := s.fset (Reg.PRT_LINK_CTL 0) Bit.PRT_LINK_CTL_POLICY 2
theorem wit_QuadsAndTraining :
    State.reset.Reaches (Reg.PRT_QUAD_MODE 0) ∧ State.reset.fget (Reg.PRT_QUAD_MODE 0) Bit.PRT_QUAD_MODE_MODE = 2 ∧
    State.reset.enabledAnywhere 0 = false ∧ headZero.enabledAnywhere 0 = true ∧ headZero.Reaches (Reg.PRT_QUAD_MODE 0) ∧
    State.reset.headReach 0 0 = true ∧ State.reset.Reaches (Reg.PRT_LINK_CTL 0) ∧ headZero.Reaches (Reg.PRT_LINK_CTL 0) ∧
    headZero.headReach 0 0 = true ∧
    State.reset.fget (Reg.PRT_LINK_CTL 0) Bit.PRT_LINK_CTL_MAX_RATE = 6 ∧ State.reset.policy 0 = 0 ∧
    (portIn 4 id).portState 0 = 4 ∧ (portIn 2 id).portState 0 = 2 ∧ (portIn 4 id).Reaches (Reg.PRT_LINK_CTL 0) ∧
    (portIn 4 id).policy 0 < 2 ∧
    ((portIn 2 fun x => { x with wanted := true }).port 0).wanted = true ∧
    (portIn 2 fun x => { x with wanted := true }).attemptList 0 0x7F 4 = [(6, 1), (5, 1), (4, 1), (3, 1), (2, 1), (1, 1), (0, 1)] ∧
    (portIn 2 fun x => { x with wanted := true }).attemptList 0 0 4 = [] ∧ (portIn 2 id).islandOn 62 = true := by decide +kernel
theorem wit_QuadsAndTraining_attempts :
    ((portIn 2 fun x => { x with running := true, attempts := [(6, 1), (5, 1)] }).port 0).attempts = [(6, 1), (5, 1)] ∧
    ((portIn 2 fun x => { x with running := true, attempts := [(6, 1)], dropping := true }).port 0).dropping = true ∧
    (portIn 3 id).portState 0 = 3 ∧ ((portIn 3 id).port 0).retries < 8 ∧
    (portIn 3 id).fbit (Reg.PRT_LINK_CTL 0) Bit.PRT_LINK_CTL_AUTO_RETRY = true ∧
    ((portIn 3 id).port 0).failAt + 1000000000 ≤ ({ portIn 3 id with sid := 10 ^ 9 } : State).now ∧
    8 ≤ ((portIn 3 fun x => { x with retries := 8 }).port 0).retries ∧
    (portIn 4 id).Reaches (Reg.PRT_MAN_CTL 0) ∧ (portIn 4 id).policy 0 ≠ 2 ∧ (manual (portIn 4 id)).policy 0 = 2 ∧
    (manual (portIn 4 id)).portState 0 ≠ 0 ∧ (manual (portIn 4 id)).fget (Reg.PRT_LINK_STATUS 0) Bit.PRT_LINK_STATUS_RATE ≠ 6 := by
  decide +kernel

/-- Port 0, the only one of its quad, has no spare left and is trained at a lane code. -/
def noSpare (st lanes : Nat) : State :=
  (((portIn st id).fset (Reg.PRT_LANE 0) Bit.PRT_LANE_SPARE_FREE 0).fset (Reg.PRT_QUAD_MODE 0) Bit.PRT_QUAD_MODE_MODE 0).fset
    (Reg.PRT_LINK_STATUS 0) Bit.PRT_LINK_STATUS_LANES lanes
def steeringGroup (sending : Bool) : State := { portIn 1 id with steering := [(0, ⟨0, 0, sending⟩)] }
theorem wit_LaneSubstitution :
    State.reset.islandOn 62 = true ∧ State.reset.fbit (Reg.PRT_LANE 0) Bit.PRT_LANE_SPARE_FREE = true ∧ State.reset.steering = [] ∧
    (State.reset.fset (Reg.PRT_LANE 0) Bit.PRT_LANE_SPARE_FREE 0).fbit (Reg.PRT_LANE 0) Bit.PRT_LANE_SPARE_FREE = false ∧
    State.reset.portState 0 = 0 ∧ State.reset.Reaches (Reg.PRT_LANE 0) ∧ State.reset.headLanes 0 = 1 ∧
    (tabGet (steeringGroup true).steering 0).isSome = true ∧ (steeringGroup true).portState 0 = 1 ∧
    (steeringGroup true).policy 0 ≠ 2 ∧ (steeringGroup false).steering = [(0, ⟨0, 0, false⟩)] ∧
    (steeringGroup true).Reaches (Reg.PRT_LANE 0) ∧ (steeringGroup true).enabledAnywhere 0 = false ∧
    headZero.enabledAnywhere 0 = true ∧ headZero.Reaches (Reg.PRT_LANE 0) ∧
    ((portIn 1 fun x => { x with looping := true }).port 0).looping = true := by decide +kernel

def auxRun (defers tries : Nat) : State := portIn 4 fun x => { x with aux := 1, defers := defers, tries := tries }
theorem wit_HotPlugAndAux :
    ((portIn 4 fun x => { x with fallAt := some 5 }).port 0).fallAt = some 5 ∧ ({ portIn 4 id with posting := none } : State).posting = none ∧
    (portIn 4 id).islandOn 62 = true ∧ (portIn 4 id).now < 5 + 250000 ∧ 5 + 250000 ≤ ({ portIn 4 id with sid := 300000 } : State).now ∧
    ({ portIn 4 id with sid := 300000 } : State).now < 5 + 2000000 ∧ 5 + 2000000 ≤ ({ portIn 4 id with sid := 3000000 } : State).now ∧
    ((portIn 0 fun x => { x with riseAt := some 5 }).port 0).riseAt = some 5 ∧
    (portIn 0 id).fbit (Reg.PRT_HPD 0) Bit.PRT_HPD_CONNECTED = false ∧ hdf headZero.active 0 Hd.HEAD_EN = 1 ∧
    ((portIn 4 id).fset (Reg.PRT_HPD 0) Bit.PRT_HPD_CONNECTED 1).fbit (Reg.PRT_HPD 0) Bit.PRT_HPD_CONNECTED = true ∧
    (portIn 4 id).headReach 0 0 = true ∧ (portIn 4 id).Reaches (Reg.PRT_AUX_CMD 0) ∧
    (portIn 4 id).fbit (Reg.PRT_AUX_STATUS 0) Bit.PRT_AUX_STATUS_BUSY = false ∧ (portIn 0 id).portState 0 = 0 ∧
    ((portIn 4 id).fset (Reg.PRT_AUX_STATUS 0) Bit.PRT_AUX_STATUS_BUSY 1).fbit (Reg.PRT_AUX_STATUS 0) Bit.PRT_AUX_STATUS_BUSY = true ∧
    ((auxRun 0 0).port 0).aux = 1 ∧ ((auxRun 0 0).port 0).driverWaits = false ∧ ((auxRun 7 3).port 0).defers = 7 ∧
    ((auxRun 7 3).port 0).tries = 3 ∧
    bitOf (((auxRun 0 0).fset (Reg.PRT_AUX_CMD 0) Bit.PRT_AUX_CMD_CMD 9).fget (Reg.PRT_AUX_CMD 0) Bit.PRT_AUX_CMD_CMD) 0 = true ∧
    ((portIn 4 fun x => { x with deferred := true }).port 0).deferred = true := by decide +kernel

/-- Drive 0 in a state, anchored at 160. -/
def driveIn (st : Nat) (f : Drive → Drive) : State :=
  (State.reset.setDrive 0 (f { Drive.reset with anchor := some (160 * 2 ^ 32) })).setCdState 0 st
/-- The memory controllers have no power. -/
def noMemory (s : State) : State := s.wr 0x200 (s.rd 0x200 - 1024)
theorem wit_ClockDrives :
    State.reset.Reaches (Reg.CD_CTL 8) ∧ State.reset.Reaches (Reg.CD_CTL 0) ∧
    State.reset.fbit (Reg.CD_CTL 0) Bit.CD_CTL_EN = false ∧
    (State.reset.fset (Reg.CD_CTL 0) Bit.CD_CTL_EN 1).fbit (Reg.CD_CTL 0) Bit.CD_CTL_EN = true ∧
    (State.reset.fset (Reg.CD_CTL 0) Bit.CD_CTL_EN 1).Reaches (Reg.CD_CTL 0) ∧
    PlainCtl State.reset 0 ∧ ¬ BadSettings State.reset 0 ∧ BadSettings (State.reset.fset (Reg.CD_DIV 0) Bit.CD_DIV_N 159) 0 ∧
    PlainCtl (State.reset.fset (Reg.CD_DIV 0) Bit.CD_DIV_N 159) 0 ∧ State.reset.islandOn 0 = true ∧
    State.reset.cdState 0 = 0 := by decide +kernel
theorem wit_ClockDrives_apply :
    (driveIn 2 id).cdState 0 = 2 ∧ (driveIn 2 id).fget (Reg.CD_DIV 0) Bit.CD_DIV_D = ((driveIn 2 id).drive 0).d ∧
    ((driveIn 2 id).drive 0).anchor = some (160 * 2 ^ 32) ∧
    (driveIn 2 id).fget (Reg.CD_DIV 0) Bit.CD_DIV_N * 2 ^ 32 + (driveIn 2 id).rd (Reg.CD_FRAC 0) = 160 * 2 ^ 32 ∧
    ((driveIn 2 fun x => { x with d := 8 }).drive 0).d ≠ (driveIn 2 id).fget (Reg.CD_DIV 0) Bit.CD_DIV_D ∧
    PlainCtl (driveIn 2 id) 0 ∧ ¬ BadSettings (driveIn 2 id) 0 := by decide +kernel
def referred : State := (((driveIn 5 fun x => { x with refPeriod := 0 }).fset (Reg.CD_CTL 0) Bit.CD_CTL_REF_SEL 1).fset
  (Reg.CD_STATUS 0) Bit.CD_STATUS_REF_VALID 1)
theorem wit_ClockDrives_lock :
    PlainCtl referred 0 ∧ referred.fbit (Reg.CD_STATUS 0) Bit.CD_STATUS_REF_VALID = true ∧ referred.refSel 0 ≠ 0 ∧
    referred.cdState 0 = 5 ∧ referred.refValue 0 = none ∧
    (referred.setDrive 0 { referred.drive 0 with refPeriod := 262144 }).refValue 0 = some (160 * 2 ^ 32) ∧
    (driveIn 1 id).cdState 0 = 1 ∧ (driveIn 1 id).actsFor 0 = some 0 ∧
    (State.reset.fset Reg.CD_SPARE_STATUS Bit.CD_SPARE_STATUS_DRIVE 0).actsFor 0 = none ∧ (driveIn 1 id).refSel 0 = 0 ∧ ((driveIn 1 id).drive 0).tries = 0 ∧
    ((driveIn 1 fun x => { x with tries := 1 }).drive 0).tries ≠ 0 ∧
    (driveIn 1 id).fbit (Reg.CD_CTL 0) Bit.CD_CTL_SPARE_AUTO = true ∧ (driveIn 1 id).spareDriveFree = true ∧
    ((driveIn 1 id).fset (Reg.CD_CTL 0) Bit.CD_CTL_SPARE_AUTO 0).fbit (Reg.CD_CTL 0) Bit.CD_CTL_SPARE_AUTO = false ∧
    (driveIn 2 id).Reaches (Reg.CD_PROF_CTL 0) ∧ (driveIn 2 id).refSel 0 = 0 ∧
    (∀ k ≤ 0, ¬ 32000 < (signed 16 ((driveIn 2 id).fget (Reg.CD_PROF_SEG 0 k) Bit.CD_PROF_SEG_TARGET)).natAbs) ∧
    (driveIn 2 id).fbit (Reg.CD_PROF_CTL 0) Bit.CD_PROF_CTL_RUNNING = false ∧
    ((driveIn 2 id).fset (Reg.CD_PROF_CTL 0) Bit.CD_PROF_CTL_RUNNING 1).fbit (Reg.CD_PROF_CTL 0) Bit.CD_PROF_CTL_RUNNING = true ∧
    State.reset.Reaches Reg.CD_SPARE_REQ ∧ State.reset.fget Reg.CD_SPARE_STATUS Bit.CD_SPARE_STATUS_DRIVE = 15 ∧
    State.reset.fbit Reg.CD_SPARE_STATUS Bit.CD_SPARE_STATUS_BUSY = false ∧
    (State.reset.fset Reg.CD_SPARE_STATUS Bit.CD_SPARE_STATUS_BUSY 1).fbit Reg.CD_SPARE_STATUS Bit.CD_SPARE_STATUS_BUSY = true ∧
    ({ driveIn 2 id with spareFor := some 0 } : State).spareFor = some 0 ∧ State.reset.Reaches (Reg.CD_OUT_CTL 0) ∧
    ({ driveIn 2 id with spareFor := some 0 }.setCdState 8 2).cdState 8 = 2 ∧ State.reset.safe = false ∧
    State.reset.islandOn (islandOf (Reg.CD_NOW_FRAC 0)) = true := by decide +kernel

/-- Drive 0 follows a pulse on `REF0` and aligns head 0, which runs. -/
def pulsed : State :=
  ((((headZero.wr (Reg.CD_ALIGN_W 0 0) 1).fset (Reg.CD_CTL 0) Bit.CD_CTL_REF_SEL 1).fset (Reg.CD_CTL 0) Bit.CD_CTL_REF_KIND 1).setCdState 0 3)
def alarmed (en : Nat) (time : BitVec 64) : State :=
  { (State.reset.wr (Reg.SID_ALARM_LO 0) 10).fset (Reg.SID_ALARM_CTL 0) Bit.SID_ALARM_CTL_EN en with sid := time }
theorem wit_ReferencesAndTheSiderealClock :
    State.reset.islandOn 0 = true ∧ referred.refSel 0 = 0 + 1 ∧ referred.cdState 0 = 5 ∧
    (referred.fset (Reg.CD_STATUS 0) Bit.CD_STATUS_REF_VALID 0).validFor 0 262144 2000000000 = [0] ∧
    referred.lostFor 0 99999999 0 0 = [0] ∧ State.reset.validFor 0 262144 2000000000 = [] ∧ State.reset.lostFor 0 99999999 0 0 = [] ∧
    referred.fget (Reg.CD_CTL 0) Bit.CD_CTL_RETURN ≠ 2 ∧ (referred.setCdState 0 4).cdState 0 = 4 ∧
    (pulsed.followers 0).filter pulsed.refPulse = [0] ∧ pulsed.cdState 0 = 3 ∧ pulsed.aligned 0 = ([0], false) ∧ (pulsed.drive 0).goodPulses < 8 ∧
    (pulsed.drive 0).wantStep = false ∧ State.reset.Reaches Reg.SID_SET_HI ∧ (∀ h < 128, State.reset.headState h = 0) ∧
    State.reset.now < 5 ∧ State.reset.fget Reg.SID_CTL Bit.SID_CTL_PTM_MODE = 0 ∧
    (linked.fset Reg.SID_CTL Bit.SID_CTL_PTM_MODE 2).fget Reg.SID_CTL Bit.SID_CTL_PTM_MODE = 2 ∧
    (linked.fset Reg.SID_CTL Bit.SID_CTL_PTM_MODE 2).linkUp = true ∧ linked.ptmAt = 0 ∧ State.reset.linkUp = false ∧
    (alarmed 0 20).Reaches (Reg.SID_ALARM_CTL 0) ∧ (alarmed 0 20).fbit (Reg.SID_ALARM_CTL 0) Bit.SID_ALARM_CTL_EN = false ∧
    (alarmed 0 20).alarmAt 0 ≤ (alarmed 0 20).now ∧ (alarmed 0 5).now < (alarmed 0 5).alarmAt 0 ∧
    (alarmed 1 20).fbit (Reg.SID_ALARM_CTL 0) Bit.SID_ALARM_CTL_EN = true ∧ (alarmed 1 20).alarmsSpent = [] ∧
    State.reset.islandOn (islandOf Reg.SID_NOW_LO) = true ∧ State.reset.islandOn (islandOf Reg.SID_PTM_OFS_LO) = true := by
  decide +kernel

/-- The journal is enabled in an epoch whose chain is open. -/
def journalling (f : Journal → Journal) : State :=
  { State.reset.fset Reg.JRN_CTL Bit.JRN_CTL_EN 1 with jrn := f { Journal.reset with opened := true, lastHash := List.replicate 32 7 } }
/-- Channel 0 writes the journal's ring in page 5. -/
def ringing (buffer : List (List Byte)) (wr rd : Nat) : State :=
  { ((((mapped (linked.fset Reg.JRN_CTL Bit.JRN_CTL_EN 1)).fset (Reg.DMA_CTL 0) Bit.DMA_CTL_SRC 3).setChanState 0 2).wr
      Reg.JRN_RING_BASE_LO 0x500000 |>.wr Reg.JRN_WR wr |>.wr Reg.JRN_RD rd |>.wr (Reg.PST_OWN 16) 5).fset Reg.DMA_GLOBAL
        Bit.DMA_GLOBAL_PLATE 16 with
    jrn := { Journal.reset with opened := true, buffer := buffer } }
/-- Head 0 has composed its one line of a frame that the journal records. -/
def composedFrame (f : FrameRun → FrameRun) (j : Journal → Journal) : State :=
  { journalling j with
    regs := (headZero.fset Reg.JRN_CTL Bit.JRN_CTL_EN 1).regs, active := viewPut [] (hdOff 0 Hd.VACTIVE) 1
    frames := [(0, f { FrameRun.reset with rows := [(0, [])], journal := true, recorded := false })] }
theorem wit_JournalRecordsAndSeals :
    (List.replicate 16 0).length = 16 ∧
    (let s := composedFrame id id
     s.frameWhole 0 = true ∧ s.recordBefore 0 = false ∧ (s.frameRun 0).warn = 0 ∧ s.islandOn (islandHead 0) = true ∧ (∀ c < 64, s.chanSrc c ≠ 4) ∧
       s.jrnOn = true ∧ s.jrn.sealing = 0 ∧ s.jrn.opened = true ∧ s.jrn.gap = 0 ∧ s.jrn.slots < journalRoom) ∧
    ((journalling fun j => { j with sealing := 1 }).jrn.sealing ≠ 0) ∧ State.reset.headRunning 0 = false ∧
    State.reset.Reaches Reg.JRN_CTL ∧ State.reset.jrnOn = false ∧ State.reset.jrn.warned = false ∧
    (journalling id).Reaches Reg.JRN_CTL ∧ (journalling id).jrnOn = true ∧ (journalling id).jrn.signing = none ∧
    (journalling id).jrn.due = [] ∧ (journalling id).stationDown = false ∧
    (journalling fun j => { j with signing := some (List.replicate 160 0) }).jrn.signing = some (List.replicate 160 0) ∧
    (journalling id).jrn.slots + 2 ≤ journalRoom ∧ State.reset.Reaches Reg.JRN_RD ∧
    (State.reset.setChanState 0 4).chanState 0 = 4 := by decide +kernel
theorem wit_JournalRecordsAndSeals_ring :
    (let s := ringing [List.replicate 128 1] 0 0
     RingOpen s 0 ∧ s.translate (s.chanFn 0) (ringAddrNow s) .write = .localMem 0x500000 ∧ s.ringUsed + 1 ≤ s.ringCount ∧
       s.stagingOwned = true ∧ s.fbit Reg.JRN_CTL Bit.JRN_CTL_WB_EN = false ∧ s.islandOn 5 = true) ∧
    (let s := ringing [List.replicate 128 1] 32 0
     RingOpen s 0 ∧ s.translate (s.chanFn 0) (ringAddrNow s) .write = .localMem 0x500000 ∧ s.ringCount < s.ringUsed + 1) ∧
    (let s := ringing [List.replicate 256 1] 31 20
     RingOpen s 0 ∧ s.translate (s.chanFn 0) (ringAddrNow s) .write = .localMem 0x500F80 ∧
       s.rd Reg.JRN_WR % s.ringCount + 1 = s.ringCount ∧ s.ringUsed + 1 ≤ s.ringCount) := by decide +kernel
theorem wit_JournalRecordsAndSeals_seal :
    (journalling id).jrn.warned = false ∧ (journalling id).islandOn 0 = true ∧ (journalling id).jrn.sealing = 0 ∧
    (journalling id).fbit Reg.JRN_CTL Bit.JRN_CTL_SEAL_EN = true ∧ (journalling id).powerState < 4 ∧
    (journalling fun j => { j with warned := true, sealing := 3 }).jrn.warned = true ∧
    (journalling fun j => { j with sealing := 1 }).jrn.opening = false ∧
    (journalling id).flashByte (sealPage (journalling id).sealNext) = 0xFF ∧
    ({ journalling id with flash := [(0x200000, 2)] } : State).flashByte (sealPage (journalling id).sealNext) ≠ 0xFF ∧
    (journalling fun j => { j with sealing := 2, sealBytes := [2, 1] }).jrn.sealing = 2 ∧
    ({ journalling id with flash := [(0x200100, 2)] } : State).flashByte (sealPage (0 + 1)) ≠ 0xFF ∧
    (journalling id).islandOn 5 = true ∧ State.reset.islandOn (islandOf Reg.JRN_SEQ_LO) = true ∧ State.reset.safe = false := by
  decide +kernel
/-- The check value of R279 and the hash of the empty string. -/
theorem test_crc32c : (crc32c (List.map (BitVec.ofNat 8) [49, 50, 51, 52, 53, 54, 55, 56, 57])).toNat = 0xE3069283 := by decide +kernel

/-- The PF's BAR2 is open over page 5; stream 0 is enabled with slot 0 open on 256 bytes there; ingest owns `PL29`. -/
def ingesting (tp tc : Nat) (isOpen : Bool) (f : Stream → Stream) : State :=
  { ((((mapped linked).wr (Reg.PCI_APT_BASE_LO 0) 0).fset (Reg.ING_CFG 0) Bit.ING_CFG_EN 1).fset (Reg.ING_OPEN 0) Bit.ING_OPEN_OPEN
      (b2n isOpen)).wr (Reg.PST_OWN 29) 6 with
    fns := [(0, { PciFn.reset 0 with ready := true, memEnable := true })]
    streams := [(0, f { Stream.reset with tp := tp, tc := tc })], slotRanges := [(0, [(0x500000, 256)])] }
/-- A line of slot 0 that drains or waits. -/
def aLine (n : Nat) (drain : Option (Nat × Nat)) : WcLine := ⟨0, 0x500000, List.range n, false, 0, 0, drain⟩
/-- The descriptor of a slot of 64 bytes at an address. -/
def aSlot (a : Nat) : List Byte := toBytes 8 a ++ List.replicate 16 0 ++ toBytes 4 64 ++ List.replicate 36 0
/-- The ring of stream 0 lies in host memory. -/
def hostSlots (isOpen : Bool) : State :=
  ((ingesting 0 0 isOpen id).wr (Reg.PMAP_ENTRY_LO 65536) 3).wr (Reg.ING_SLOT_BASE_HI 0) 16
theorem wit_IngestStreamsAndTheAperture :
    (let s := ingesting 100 100 true id
     s.apertureOpen 0 0x500000 = true ∧ s.apertureBase 0 = 0 ∧ s.held = [] ∧ s.windowOf 0x500000 = some 0 ∧ s.openSlot 0 = some 0 ∧
       (∀ i < 4, inRanges (s.rangesOf 0 0) (0x500000 + i) = true) ∧ 4 ≤ (s.stream 0).tp ∧ s.islandOn 3 = true ∧
       (s.stream 0).lineAt 0x500000 = none ∧ s.ingestOwns = true ∧ s.Reaches (Reg.ING_OPEN 0) ∧ s.streamReach 0 0 = true) ∧
    ((ingesting 0 0 true id).stream 0).tp < 4 ∧ State.reset.apertureOpen 0 0x500000 = false ∧
    (let s := ingesting 0 0 false id
     s.windowOf 0x500000 = none ∧ s.protectedBy 0x500000 = none ∧ s.isLocal 0 0x500000 .write = true ∧
       s.isLocal 0 0x500000 .read = true ∧ s.translate 0 0x600000 .read = .refused 6 ∧ s.translate 0 0x600000 .write = .refused 6 ∧
       s.memOn = true ∧ Clean s ∧ s.openSlot 0 = none ∧ s.Reaches (Reg.ING_DONE 0)) ∧
    (noMemory (ingesting 0 0 false id)).memOn = false ∧
    ({ ingesting 0 0 false id with holds := [(0, 0, 0)] } : State).protectedBy 0x500000 = some 0 ∧
    ({ ingesting 0 0 false id with held := [.done 3] } : State).held ≠ [] := by decide +kernel
theorem wit_IngestStreamsAndTheAperture_ticks (s : State) (h : s.now = 0) : s.ticksDue 0 3 = 0 := by
  have : s.replica 3 ≤ 9 := by
    unfold State.replica; rw [h]; split <;> omega
  unfold State.ticksDue
  rw [Nat.div_eq_of_lt (by omega), Nat.zero_sub]
theorem wit_IngestStreamsAndTheAperture_now :
    (ingesting 100 100 true id).now = 0 ∧ State.reset.now = 0 := by decide +kernel
theorem wit_IngestStreamsAndTheAperture_opens :
    (∃ c ∈ ((ingesting 0 0 false fun x => { x with completions := [⟨3, 0, 0, 0⟩] }).stream 0).completions, c.slot = 3) ∧
    ((ingesting 0 0 false id).stream 0).completions = [] ∧ State.reset.fbit (Reg.ING_CFG 0) Bit.ING_CFG_EN = false ∧
    (ingesting 0 0 false id).slotCount 0 ≤ 1 ∧
    (∃ x ∈ ({ ingesting 0 0 false id with holds := [(0, 0, 0)] } : State).holds, x.1 = 256 * 0 + 0) ∧
    (((ingesting 0 0 false id).fset (Reg.ING_STATUS 0) Bit.ING_STATUS_HAS_NEWEST 1).newestSlot 0 = some 0) ∧
    (hostSlots false).translate 0 ((hostSlots false).slotDesc 0 0) .read = .hostWin 0 0 ∧ (hostSlots false).newestSlot 0 = none ∧
    ((hostSlots false).readSlotDesc 0 0 (.data (aSlot 0x500000))).2 = some (aSlot 0x500000) ∧
    ((hostSlots false).readSlotDesc 0 0 .poisoned).2 = none ∧ (hostSlots false).badRanges 0 (descRanges (aSlot 0x500000)) = false ∧
    (hostSlots false).badRanges 0 (descRanges (aSlot 0x500001)) = true := by decide +kernel
theorem wit_IngestStreamsAndTheAperture_lines :
    (let s := ingesting 0 0 true fun x => { x with lines := [aLine 64 (some (0x500000, 0))] }
     (s.stream 0).lines = [aLine 64 (some (0x500000, 0))] ∧ s.unserved 256 0x500000 = false ∧ s.openSlot 0 = some 0 ∧
       s.ingestOwns = true ∧ Clean s ∧ s.retiring = none ∧ s.isLocal (s.streamFn 0) 0x500000 .write = true) ∧
    (let s := ingesting 0 0 false fun x => { x with completions := [⟨0, 0, 5, 5⟩] }
     (s.stream 0).completions = [⟨0, 0, 5, 5⟩] ∧ (s.stream 0).lines = [] ∧ (s.stream 0).waitOpen = [] ∧ s.islandOn 3 = true ∧
       s.memOn = true ∧ s.fbit (Reg.ING_CFG 0) Bit.ING_CFG_LEN_CHECK = true) ∧
    (∃ l ∈ ((ingesting 0 0 false fun x => { x with completions := [⟨0, 0, 5, 5⟩], lines := [aLine 3 none] }).stream 0).lines, l.slot = 0) ∧
    State.reset.Reaches (Reg.ING_CFG 0) ∧ State.reset.ratesHold 0 = true ∧
    (State.reset.wr (Reg.PST_OWN 29) 6).ingestOwns = true ∧ (State.reset.wr (Reg.PST_OWN 29) 1).ingestOwns = false ∧
    (ingesting 0 0 false id).Reaches (Reg.ING_CIR 0) ∧
    ((ingesting 0 0 false id).wr (Reg.ING_CIR 0) 5).ratesHold 0 = false ∧
    State.reset.islandOn (islandOf (Reg.ING_FENCE_VAL_LO 0)) = true := by decide +kernel

/-- Channel 0, owned by the PF, in a state and with a source, its descriptor in page 5; DMA owns `PL28`. -/
def moving (st src : Nat) (f : Chan → Chan) : State :=
  { (((((mapped linked).wr (Reg.PST_OWN 28) 5).wr (Reg.DMA_DESC_LO 0) 0x500000).wr (Reg.DMA_CTL 0) (64 * src)).wr
      (Reg.DMA_STATUS 0) st) with chans := [(0, f Chan.reset)] }
def aDesc : DmaDesc := ⟨0, true, true, false, false, 1, 0x500000, 0x500100, 64, 0, 0, 0, 0, 0, false⟩
def aBeat : Beat := ⟨0, 0x500100, 64, 0, 0x500100, List.replicate 64 7, 0⟩
def aRead : DmaRead := ⟨0, 0x500100, 0x500000, 64, 0, .localMem 0x500000, 0, 0⟩
def descOf (d : DmaDesc) : List Byte := toBytes 4 (d.op + 4 * b2n d.event + 8 * b2n d.last) ++ toBytes 4 d.lines ++ toBytes 8 d.src ++
  toBytes 8 d.dst ++ toBytes 8 d.length ++ List.replicate 32 0
theorem wit_DmaChannelsAndTheMover :
    (let s := moving 0 0 id
     s.chanReach 0 0 = true ∧ s.Reaches (Reg.DMA_CTL 0) ∧ s.chanState 0 = 0 ∧ s.chanSrc 0 = 0 ∧ s.stagingOwned = true ∧
       s.translate (s.chanFn 0) (s.descAddr 0) .read = .localMem 0x500000 ∧ s.islandOn 3 = true ∧
       s.moverPick = none ∧ (s.chan 0).acks = [] ∧ (s.chan 0).desc = none) ∧
    (moving 1 0 id).chanState 0 = 1 ∧ (moving 4 0 id).chanState 0 = 4 ∧
    (moving 1 0 id).moverBurst = none ∧
    ({ moving 1 0 (fun x => { x with staged := [aBeat] }) with moverBurst := some (0, 3) } : State).requests 0 = true ∧
    (let s := moving 4 0 fun x => { x with desc := some aDesc, staged := [aBeat], total := 64 }
     (s.chan 0).desc ≠ none ∧ (s.chan 0).staged = aBeat :: [] ∧ (s.chan 0).issued ≠ (s.chan 0).total) := by decide +kernel
theorem wit_DmaChannelsAndTheMover_descriptors :
    (let s := (moving 1 0 fun x => { x with descRead := some ⟨0x500000, .localMem 0x500000, 0, 0⟩ }).store 0x500000 (descOf aDesc)
     (s.chan 0).descRead = some ⟨0x500000, .localMem 0x500000, 0, 0⟩ ∧ s.memOn = true ∧ s.poisoned 0x500000 = false ∧ s.stagingOwned = true ∧
       s.chanSrc 0 = 0 ∧ parseDesc (s.loadBytes 0x500000 64) = aDesc ∧
       descBad 0 (ofBytes ((s.loadBytes 0x500000 64).take 4)) (parseDesc (s.loadBytes 0x500000 64)) = false ∧
       descBad 2 (ofBytes ((s.loadBytes 0x500000 64).take 4)) (parseDesc (s.loadBytes 0x500000 64)) = true) ∧
    ((moving 1 0 id).wr (Reg.PST_OWN 28) 1).stagingOwned = false ∧
    ({ (moving 1 0 id).fset Reg.SYS_MEM_CFG Bit.SYS_MEM_CFG_ECC_EN 1 with poison := [0x500000] } : State).poisoned 0x500000 = true ∧
    ((moving 1 0 fun x => { x with descRead := some ⟨0, .hostWin 0 0, 0, 0⟩ }).chan 0).descRead = some ⟨0, .hostWin 0 0, 0, 0⟩ ∧
    (moving 1 0 id).hostAnswer 0 0 .timeout = .timeout ∧
    (let s := moving 1 0 fun x => { x with desc := some aDesc, reads := [aRead], total := 64 }
     (s.chan 0).reads = aRead :: [] ∧ (s.chan 0).staged = [] ∧
       s.poisoned 0x500000 = false ∧ s.stagingOwned = true) := by decide +kernel
theorem wit_DmaChannelsAndTheMover_beats :
    (let s := moving 1 0 fun x => { x with desc := some aDesc, staged := [aBeat], total := 64, fetched := 64 }
     s.moverPick = some (0, 0) ∧ s.moverAt ≤ s.now ∧ (s.chan 0).staged = aBeat :: [] ∧ s.stagingOwned = true ∧ s.chanSrc 0 = 0 ∧
       s.translate (s.chanFn 0) aBeat.dst .write = .localMem 0x500100) ∧
    (∀ k < 64, ((moving 1 0 fun x => { x with desc := some aDesc, staged := [aBeat], total := 64, fetched := 64 }).chan k).stopping = false) ∧
    ((moving 1 0 id).wr (Reg.PMAP_ENTRY_LO 5) 0).translate 0 aBeat.dst .write = .refused 5 ∧
    (let s := moving 1 0 fun x => { x with desc := some aDesc, acks := [aBeat], total := 64, issued := 64 }
     (s.chan 0).acks = aBeat :: [] ∧ s.memOn = true ∧ (s.chan 0).desc = some aDesc ∧ s.chanSrc 0 < 2 ∧ s.chanState 0 = 1 ∧ s.undrained 0 aDesc = false ∧
       (s.chan 0).issued = (s.chan 0).total ∧ 0 < (s.chan 0).total ∧ aDesc.ingDone = false ∧ aDesc.last = true ∧
       aDesc.fenceWr = false ∧ s.poison = [] ∧ aBeat.phys % 64 + aBeat.bytes.length ≤ 64) ∧
    (let s := moving 1 0 fun x => { x with desc := some aDesc, acks := [aBeat], total := 128, issued := 64 }
     (s.chan 0).issued ≠ (s.chan 0).total) ∧
    (let s := moving 1 1 fun x => { x with desc := some aDesc, total := 64, issued := 64 }
     (s.chan 0).acks = [] ∧ s.chanSrc 0 = 1 ∧ (s.chan 0).desc = some aDesc ∧ s.chanState 0 = 1 ∧
       (s.chan 0).issued = (s.chan 0).total ∧ 0 < (s.chan 0).total ∧ s.undrained 0 aDesc = false ∧
       ({ s with streams := [(0, { Stream.reset with lines := [⟨0, 0x500100, [3], false, 0, 0, none⟩] })] } : State).undrained 0
         aDesc = true) ∧
    State.reset.frameRun 0 = FrameRun.reset ∧ (State.reset.frameRun 0).chosen = false ∧
    (let s := { moving 5 2 id with frames := [(0, { FrameRun.reset with chosen := true })] }
     (s.frameRun 0).chosen = true ∧ (s.chan (hdf (s.headView 0) 0 Hd.WB_CHAN)).wbHead = none ∧
       s.chanState (hdf (s.headView 0) 0 Hd.WB_CHAN) = 5 ∧ s.chanSrc (hdf (s.headView 0) 0 Hd.WB_CHAN) = 2 ∧ (s.frameRun 0).rows = []) := by
  decide +kernel
theorem wit_DmaChannelsAndTheMover_kicks :
    (running 0x4001_0000_0000_0000 0x500000 0 0).canIssue 0 = true ∧
    (running 0x4001_0000_0000_0000 0x500000 0 0).fetchAt 0 = .word 0x4001_0000_0000_0000 0 ∧
    (match decodeAtcia 0x4001_0000_0000_0000 0 with | some i => decide (i.op = .dmakick ∧ i.imm = 0 ∧ i.a = 1 ∧ i.x = false) | none => false) = true ∧
    (running 0x4001_0000_0000_0000 0x500000 0 0).chanFn 0 = (running 0x4001_0000_0000_0000 0x500000 0 0).seqFn 0 ∧
    ((running 0x4001_0000_0000_0000 0x500000 0 0).seq 0).stores = [] ∧
    (State.reset.wr (Reg.PMAP_ENTRY_LO 65536) 3).translate 0 0x10_0000_0000 .read = .hostWin 0 0 := by decide

/-- Head 1 is enabled in the active copy; VF 2 holds layers and streams 0 to 255 and channel 12, and is on. -/
def partitioned : State :=
  let s := ((((State.reset.wr (Reg.PCI_FN_LAYER 2) 0x01000000).wr (Reg.PCI_FN_STREAM 2) 0x01000000).wr (Reg.PCI_FN_DMA_LO 2) 0x1000))
  { s with active := viewPut [] (hdOff 1 Hd.HEAD_EN) 1,
           fns := [(0, { PciFn.reset 0 with vfEnable := true, numVfs := 7 }), (2, { PciFn.reset 2 with busMaster := true })] }
theorem wit_PartitionWrites_head :
    partitioned.Reaches (Reg.PCI_HEAD_FN 0) ∧ partitioned.headBusy 0 = false ∧ partitioned.headBusy 1 = true ∧
      partitioned.headFn 1 ≠ (3 : Word).toNat % 32 := by decide
theorem wit_PartitionWrites_overlap :
    partitioned.Reaches (Reg.PCI_FN_LAYER 3) ∧ rangeMeets partitioned Reg.PCI_FN_LAYER 3 (0x00010040 : Word).toNat = true ∧
      partitioned.Reaches (Reg.PCI_FN_STREAM 3) ∧ rangeMeets partitioned Reg.PCI_FN_STREAM 3 (0x00010040 : Word).toNat = true ∧
      partitioned.Reaches (Reg.PCI_FN_DMA_LO 3) ∧ partitioned.Reaches (Reg.PCI_FN_DMA_HI 3) ∧
      Nat.land (partitioned.rd (Reg.PCI_FN_DMA_LO 2)) (0x3000 : Word).toNat ≠ 0 := by decide
theorem wit_PartitionWrites_range :
    rangeMeets partitioned Reg.PCI_FN_LAYER 3 (0x10000200 : Word).toNat = false ∧ 4096 < rangeEnd 0x10000200 ∧
      rangeMeets partitioned Reg.PCI_FN_STREAM 3 (0x10000200 : Word).toNat = false := by decide
theorem wit_PartitionWrites_accepted :
    rangeMeets partitioned Reg.PCI_FN_LAYER 3 (0x00010100 : Word).toNat = false ∧ rangeEnd 0x00010100 ≤ 4096 ∧
      (∀ m ∈ partitioned.states, ∀ sl ∈ layersIn m, moves (partitioned.slotFn sl) 3 (rangeHas 0x00010100 sl) = false) ∧
      rangeMeets partitioned Reg.PCI_FN_STREAM 3 (0x00010100 : Word).toNat = false ∧
      (∀ k : FnId, k ≠ 0 → k ≠ 3 → Nat.land (partitioned.rd (Reg.PCI_FN_DMA_HI k)) (0x3000 : Word).toNat = 0) := by decide +kernel
theorem wit_PartitionWrites_busy :
    let s := { partitioned with active := viewPut [] (lyrOff 256 Lyr.LAYER_EN) 1 }
    let u := (partitioned.fset (Reg.ING_CFG 256) Bit.ING_CFG_EN 1).setChanState 13 1
    (∃ m ∈ s.states, ∃ sl ∈ layersIn m, moves (s.slotFn sl) 3 (rangeHas 0x00010100 sl) = true) ∧
      u.fbit (Reg.ING_CFG 256) Bit.ING_CFG_EN = true ∧ moves (u.streamFn 256) 3 (rangeHas 0x00010100 256) = true ∧
      moves (u.chanFn 13) 3 ((0x2000 : Word).getLsbD 13) = true ∧ u.chanState 13 ≠ 0 := by decide +kernel
theorem wit_PartitionWrites_reclaim :
    partitioned.Reaches (Reg.PCI_FN_CTL 2) ∧ partitioned.vfOn 2 = true ∧ (partitioned.fn 2).busMaster = true ∧
      partitioned.Reaches (Reg.PCI_FN_CTL 9) ∧ partitioned.vfOn 9 = false ∧ partitioned.Reaches (partOff (.layers 0)) := by decide

/-- The link is up, the PF and VF 2 are ready; stream 1 is Secure for functions 0 to 3. -/
def configured : State :=
  { linked with
    fns := [(0, { PciFn.reset 0 with ready := true, vfEnable := true, numVfs := 7, inFlr := true, bar2Next := some 30 }),
            (2, { PciFn.reset 2 with ready := true, inFlr := true })]
    ide := [⟨0, 1, 0, []⟩, ⟨1, 0, 3, []⟩, ⟨0, 1, 0, []⟩, ⟨0, 1, 0, []⟩] }
theorem wit_LinkWidthAndLoss :
    linked.linkUp = true ∧ linked.islandOn 1 = true ∧ linked.powerState < 3 ∧ State.reset.linkUp = false ∧
      State.reset.inReset = false ∧ State.reset.perst = false ∧ ({ State.reset with posting := none }).posting = none ∧
      3 ≤ (linked.fset Reg.PWR_STATUS Bit.PWR_STATUS_STATE 3).powerState := by decide
theorem wit_LinkWidthAndLoss_ide :
    ((configured.wr (Reg.PCI_FN_CTL 9) 2).fbit (Reg.PCI_FN_CTL 9) Bit.PCI_FN_CTL_IDE_REQUIRED = true) ∧
      (∀ x ∈ configured.ide.filter fun x => x.binds 9 (some 64), x.state ≠ 1) := by decide
theorem wit_LinkWidthAndLoss_ideStreams :
    configured.linkUp = true ∧ (configured.ideStream 1).state = 1 ∧ (configured.ideStream 1).first ≤ 2 ∧ 2 ≤ (configured.ideStream 1).last ∧
      (configured.fn 0).ready = true ∧ configured.stationDown = false ∧ ({ configured with stationDown := true }).stationDown = true := by decide

theorem wit_ConfigurationSpace :
    linked.linkUp = true ∧ linked.inReset = false ∧ (linked.fn 0).ready = false ∧ ConfigOpen configured 0 ∧
      ConfigOpen configured 2 ∧ configured.vfOn 9 = false ∧ configured.linkUp = true ∧ (configured.fn 0).ready = true ∧
      configured.safe = false ∧ State.reset.linkUp = false := by decide
theorem wit_ConfigurationSpace_pf :
    let s := { configured with fns := [(0, { PciFn.reset 0 with ready := true })] }
    ConfigOpen s 0 ∧ (s.fn 0).vfEnable = false ∧ s.safe = false := by decide
theorem wit_ConfigurationSpace_bad :
    configured.inReset = false ∧ (configured.fn 2).memEnable = false ∧
      ({ configured with ide := [⟨2, 0, 3, []⟩] }).ideBlocked 2 none = true := by decide
theorem wit_ConfigurationSpace_resets :
    (configured.fn 2).ready = true ∧ configured.vfOn 2 = true ∧ (configured.fn 2).inFlr = true ∧
      (configured.fn 0).ready = true ∧ (configured.fn 0).vfEnable = true ∧ (configured.ideStream 1).state = 1 ∧
      (configured.ideStream 1).first ≤ 2 ∧ 2 ≤ (configured.ideStream 1).last ∧ configured.stationDown = false ∧
      (∀ c : ChanId, (configured.chan c).acks = []) ∧
      ({ configured with stationDown := true }).stationDown = true := by decide

theorem wit_RaisingAnEvent : State.reset.islandOn 10 = true ∧
    (State.reset.wr 0x200 1).islandOn 10 = false ∧ 10 ∉ (State.reset.wr 0x200 1).reloaded := by decide

/-- Source 5,507 routed as the operands say, one occurrence waiting, and one that its core ring takes. -/
def routed (en target : Nat) : State :=
  { (State.reset.fset (Reg.EVC_SRC_CFG 5507) Bit.EVC_SRC_CFG_EN en).fset (Reg.EVC_SRC_CFG 5507) Bit.EVC_SRC_CFG_TARGET target with
    occs := [⟨5507, 1, 0, 0, 0⟩] }
/-- The same with a record ring of function 0 at page 5, or at the first host-window page. -/
def ringed (hi : Nat) : State :=
  let s := ((routed 1 0).wr (Reg.EVC_FN_RING_CTL 0) 1).wr (Reg.EVC_FN_RING_BASE_LO 0) (if hi = 0 then 0x500000 else 0)
  (mapped (s.wr (Reg.EVC_FN_RING_BASE_HI 0) hi)).wr (Reg.PMAP_ENTRY_LO 65536) 7
theorem wit_EventsAreCountedAndRouted :
    Arrives (routed 0 0) 5507 ⟨5507, 1, 0, 0, 0⟩ ∧ (routed 0 0).fbit (Reg.EVC_SRC_CFG 5507) Bit.EVC_SRC_CFG_EN = false ∧
    Arrives (routed 1 2) 5507 ⟨5507, 1, 0, 0, 0⟩ ∧ (routed 1 2).fbit (Reg.EVC_SRC_CFG 5507) Bit.EVC_SRC_CFG_EN = true ∧
    (routed 1 2).fget (Reg.EVC_SRC_CFG 5507) Bit.EVC_SRC_CFG_TARGET = (1 : Fin 2).val + 1 ∧
    Arrives (routed 1 0) 5507 ⟨5507, 1, 0, 0, 0⟩ ∧ (routed 1 0).fget (Reg.EVC_SRC_CFG 5507) Bit.EVC_SRC_CFG_TARGET = 0 ∧
    (routed 1 0).sourceFn 5507 < 32 ∧ ¬ EvRingOpen (routed 1 0) ((routed 1 0).sourceFn 5507) := by decide
theorem wit_EventsAreCountedAndRouted_none : (∀ o ∈ State.reset.occs, o.source = 5507 → State.reset.finderTakes o = true) := by decide
theorem wit_EventsAreCountedAndRouted_ring :
    Arrives (ringed 0) 5507 ⟨5507, 1, 0, 0, 0⟩ ∧ EvRingOpen (ringed 0) 0 ∧ (ringed 0).sourceFn 5507 = 0 := by decide
theorem wit_EventsAreCountedAndRouted_place :
    (ringed 0).translate 0 (evRingSlot (ringed 0) 0) .write = .localMem 0x500000 := by decide
theorem wit_EventsAreCountedAndRouted_host :
    (ringed 16).translate 0 (evRingSlot (ringed 16) 0) .write = .hostWin 0 0 := by decide

/-- Source 5,507 pending for a target since the start. -/
def pendingFor (target : Nat) : State :=
  { (((State.reset.fset (Reg.EVC_SRC_CFG 5507) Bit.EVC_SRC_CFG_EN 1).fset (Reg.EVC_SRC_CFG 5507) Bit.EVC_SRC_CFG_TARGET
      target).fset (Reg.EVC_SRC_CFG 5507) Bit.EVC_SRC_CFG_PENDING 1).fset Reg.PCI_LINK_STATUS Bit.PCI_LINK_STATUS_LINK_UP 1 |>.wr (msixOff 0 0 3) 0 with
    pendTime := [(5507, 7)], fns := [(0, { PciFn.reset 0 with msixEnable := true })] }
theorem wit_EventsAreDelivered_host :
    (pendingFor 0).linkUp = true ∧ leastBy (pendingFor 0).launchable = some ([128, 0, 7, 0, 0], 0, 0) ∧
      (pendingFor 0).ideBlocked 0 none = false := by decide
theorem wit_EventsAreDelivered_none : State.reset.launchable = [] ∧ State.reset.enterable 0 = [] ∧ State.reset.levelsOf 0 = [] := by decide
theorem wit_EventsAreDelivered_core :
    (pendingFor 1).coreAsleep = false ∧ (pendingFor 1).stationDown = false ∧ ((pendingFor 1).levelsOf 0).length < 8 ∧
      (pendingFor 1).coreModerated 0 = false ∧ leastBy ((pendingFor 1).enterable 0) = some ([128, 0, 7, 5507], 5507) := by decide
theorem wit_EventsAreDelivered_return :
    ({ State.reset with stationLevels := [(0, [128])] }).levelsOf 0 = 128 :: [] := by decide
theorem wit_EventsAreDelivered_interval :
    tabGet ({ State.reset with modEnd := [(40, 0)] }).modEnd 40 = some 0 ∧ tabGet State.reset.modEnd 40 = none ∧
      (∀ s : State, (0 : Nat) ≤ s.replica 1) := ⟨by decide, by decide, fun _ => Nat.zero_le _⟩

theorem wit_EventRoutingWrites :
    State.reset.Reaches (Reg.EVC_SRC_CFG 5200) ∧
    (State.reset.fset (Reg.EVC_SRC_CFG 5200) Bit.EVC_SRC_CFG_FN 3).Reaches (Reg.EVC_SRC_CFG 5200) ∧
    (State.reset.fset (Reg.EVC_SRC_CFG 5200) Bit.EVC_SRC_CFG_FN 3).sourceFn 5200 = (3 : FnId).val ∧
    State.reset.sourceFn 5200 ≠ (3 : FnId).val ∧ State.reset.Reaches (Reg.EVC_FN_IDLE 3) ∧
    State.reset.Reaches (Reg.MSIX_ADDR_LO 0) ∧ 63 < vectorsOf 3 := by decide

/-- PS4, an HPD source watched, routed to the PF, held since time 0 with the other target awake. -/
def asleepState : State :=
  { ((((State.reset.fset Reg.PWR_STATUS Bit.PWR_STATUS_STATE 4).wr (Reg.AON_WATCH 0) (4352 + 8192)).fset (Reg.EVC_SRC_CFG 5200)
      Bit.EVC_SRC_CFG_EN 1).fset (Reg.EVC_SRC_CFG 5200) Bit.EVC_SRC_CFG_PENDING 1).fset (Reg.EVC_SRC_CFG 5200)
      Bit.EVC_SRC_CFG_HELD 1 with
    sid := 100000000, heldSince := [(5200, 0)], occs := [⟨4352, 1, 1, 5, 62⟩], finder := [⟨5507, 1, 0, 3, 0⟩] }
theorem wit_SleepingTargetsAndTheFinder_hold :
    tabGet asleepState.heldSince 5200 = some 0 ∧ asleepState.watched 5200 = false ∧
      0 + 1000000 * asleepState.fget Reg.EVC_CTL Bit.EVC_CTL_HOLD_MS ≤ asleepState.now ∧
      asleepState.fbit (Reg.EVC_SRC_CFG 5200) Bit.EVC_SRC_CFG_PENDING = true ∧
      asleepState.fbit (Reg.EVC_SRC_CFG 5200) Bit.EVC_SRC_CFG_HELD = true ∧
      asleepState.asleep (asleepState.ownTarget 5200) = true ∧ asleepState.asleep asleepState.fallback = false ∧
      5200 ∉ asleepState.redirected ∧ (asleepState.fset Reg.EVC_CTL Bit.EVC_CTL_FALLBACK 2).asleep
        (asleepState.fset Reg.EVC_CTL Bit.EVC_CTL_FALLBACK 2).fallback = true := by decide
theorem wit_SleepingTargetsAndTheFinder_wake :
    asleepState.occs.find? (·.source = 4352) = some ⟨4352, 1, 1, 5, 62⟩ ∧ asleepState.finderTakes ⟨4352, 1, 1, 5, 62⟩ = true ∧
      asleepState.fbit Reg.AON_WAKE_CAUSE Bit.AON_WAKE_CAUSE_VALID = false ∧ asleepState.finder ≠ [] ∧
      (asleepState.fset Reg.AON_WAKE_CAUSE Bit.AON_WAKE_CAUSE_VALID 1).fbit Reg.AON_WAKE_CAUSE Bit.AON_WAKE_CAUSE_VALID =
        true := by decide
theorem wit_SleepingTargetsAndTheFinder_handover :
    State.reset.Reaches (Reg.AON_WATCH 63) ∧ asleepState.islandOn 2 = true ∧ asleepState.finder = [⟨5507, 1, 0, 3, 0⟩] ∧
      asleepState.fbit (Reg.EVC_SRC_CFG 5507) Bit.EVC_SRC_CFG_EN = false ∧ State.reset.finder = [] := by decide

/-- PS2 with every condition for it, on the way out; island 10 has no power. -/
def inPs2 : State :=
  { (State.reset.setIslands 2).fset Reg.PWR_STATUS Bit.PWR_STATUS_STATE 2 with posting := none, waking := true, exitTo := 0 }
theorem wit_PowerStateChanges_exit :
    inPs2.waking = true ∧ inPs2.inReset = false ∧ inPs2.powerState ≤ 3 ∧ inPs2.islandOn 10 = false ∧ 10 ∉ inPs2.reloaded ∧
      inPs2.held = [] ∧ inPs2.thermal.driveWait = none := by
  decide +kernel
/-- All tolerances are 0, so the target is PS0; from PS1 that is shallower; with tolerance 10 µs it is PS1. -/
theorem wit_PowerStateChanges_target :
    let s := { State.reset with posting := none }
    s.inReset = false ∧ s.waking = false ∧ s.targetState = s.powerState ∧
      (s.fset Reg.PWR_STATUS Bit.PWR_STATUS_STATE 1).targetState < (s.fset Reg.PWR_STATUS Bit.PWR_STATUS_STATE 1).powerState ∧
      s.powerState < (s.wr (Reg.PWR_LAT 0) 10).targetState ∧ s.Reaches (Reg.PWR_LAT 0) := by decide +kernel
theorem wit_PowerStateChanges_timer :
    let s := { State.reset.wr (Reg.PWR_LAT 0) 10 with posting := none, pwrTarget := some (1, 0), sid := 1000000 }
    s.pwrTarget = some (1, 0) ∧ s.waking = false ∧ s.inReset = false ∧ 0 + 1000000 ≤ s.now ∧ 1 = s.targetState := by
  decide +kernel
theorem wit_PowerStateChanges_deep :
    let s := { ((State.reset.wr (Reg.PWR_LAT 0) 200000).wr Reg.PWR_CTL 4).setFn 0 { PciFn.reset 0 with dstate := 3 } with
      posting := none, pwrTarget := some (4, 0), sid := 1000000 }
    s.inReset = false ∧ 0 + 1000000 ≤ s.now ∧ 4 = s.targetState ∧ s.powerState < 4 := by
  decide +kernel

theorem wit_ThermalAndLifetime :
    State.reset.tripped = false ∧ State.reset.fbit Reg.THM_STATUS Bit.THM_STATUS_IMON = false ∧ State.reset.inReset = false ∧
      (State.reset.fset Reg.THM_STATUS Bit.THM_STATUS_IMON 1).fbit Reg.THM_STATUS Bit.THM_STATUS_IMON = true ∧
      State.reset.Reaches Reg.THM_SHED ∧ State.reset.islandOn 0 = true := by decide
theorem wit_ThermalAndLifetime_limits :
    tempOf (BitVec.ofNat 192 920) 0 = 8 * 115 ∧ tempOf (BitVec.ofNat 192 919) (hottest (BitVec.ofNat 192 919)) < 8 * 115 := by decide
theorem wit_ThermalAndLifetime_times :
    stood (some 0) 100000000 100000000 = true ∧ stood (some 1) 100000000 100000000 = false := by decide
theorem test_ageing : ageing (8 * 95) = 2 ^ 32 ∧ ageing (8 * 105) = 2 ^ 33 := by decide +kernel

/-- Pipe 9 swaps to spare 17. -/
def swapping : State := { State.reset with swaps := [⟨9, 17, false, 0, false, []⟩] }
theorem wit_SparePipes :
    (tabGet State.reset.pipeCe 3).getD 0 + 1 < State.reset.fget Reg.SYS_PIPE_CTL Bit.SYS_PIPE_CTL_CE_THRESHOLD ∧
    SwapFree State.reset 3 ∧ State.reset.powerState < 2 ∧ State.reset.maySwap 3 = true ∧
    State.reset.pipeRole 3 = 0 ∧ State.reset.testing ≠ some (3 / 9 * 9 + 8) ∧ State.reset.Reaches Reg.SYS_PIPE_SWAP_REQ := by decide
theorem wit_SparePipes_refused :
    44 % 9 = 8 ∧ swapping.Reaches Reg.SYS_PIPE_SWAP_REQ ∧
    swapping.pipeRole 10 = 0 ∧ (⟨9, 17, false, 0, false, []⟩ : Swap) ∈ swapping.swaps ∧ 17 = 10 / 9 * 9 + 8 ∧
    ({ State.reset with pipeSubst := [(10, 17)] }).spareUsed_ 17 = true := by decide
theorem wit_SparePipes_loaded :
    swapping.swaps = [⟨9, 17, false, 0, false, []⟩] ∧ swapping.islandOn 0 = true ∧
      (∀ h : HeadId, swapping.headRunning h = false ∨ 9 ∉ pipesOf swapping.active h) := by decide +kernel

def aReport (l : List PostFail) : PostReport := ⟨l, .authentic 5 255, .readError, [], true, false, true, 4, [], [], [], []⟩
def atPost (strap : Nat) : State := { State.reset.wr Reg.SYS_STRAP strap with posting := some 0 }
def inSafe (op len a n : Nat) : State :=
  { (((State.reset.wr Reg.SYS_FAIL_REC0 (3 * 2 ^ 30 + 3)).wr Reg.SYS_SS_ARG0 a).wr Reg.SYS_SS_ARG1 n) with ssCmd := some (op, 7, len) }
theorem wit_StartUpAndSafeStation :
    (atPost 0).posting = some 0 ∧ (atPost 0).inReset = false ∧ (atPost 0).perst = false ∧
    (atPost 0).rd Reg.SYS_STRAP = 0 ∧ (atPost 1).rd Reg.SYS_STRAP = 1 ∧ (atPost 2).rd Reg.SYS_STRAP = 2 ∧
    (atPost 0).flashLog = [] ∧ (atPost 0).thermal.saved < 2 ^ 32 := by decide
/-- The rollback counter that POST reads is at most the index of the report's image. -/
theorem wit_StartUpAndSafeStation_counter (k : Nat) : rollbackOf (atPost k) ≤ 255 := by
  have h : (atPost k).rollback = 0 := rfl
  simp only [rollbackOf, h, State.fget, getBits, Bit.SYS_FW_VER_ROLLBACK]
  omega
theorem wit_StartUpAndSafeStation_passes (counter : Nat) (h : counter ≤ 255) :
    postFailure (aReport []) 0 counter = none ∧ postFailure (aReport []) 2 counter = some ⟨8, 1, 0, 0⟩ ∧
      postFailure (aReport [⟨6, 1, 2, 0⟩]) 1 counter = some ⟨6, 1, 2, 0⟩ := by
  have h1 : ¬ 255 < counter := by omega
  have h2 : ∀ b l, stage3 counter b (aReport l).imageA (aReport l).imageB = [] := by
    intro b l; simp [stage3, ImageCheck.cause, aReport, h1]
  refine ⟨?_, ?_, ?_⟩ <;> simp only [postFailure, h2] <;> rfl
theorem wit_StartUpAndSafeStation_short :
    let s := { (State.reset.setIslands 4).fset Reg.PWR_STATUS Bit.PWR_STATUS_STATE 4 with waking := true }
    s.waking = true ∧ s.powerState = 4 ∧ s.islandOn 2 = false ∧ s.inReset = false := by decide +kernel
theorem wit_StartUpAndSafeStation_takes :
    Takes (inSafe 3 0 0x1000 64) none (inSafe 3 0 0x1000 64) 3 7 0 ∧ Takes (inSafe 5 256 0x100000 0) none (inSafe 5 256 0x100000 0) 5 7 256 :=
  ⟨⟨by decide, by decide, rfl, by decide⟩, by decide, by decide, rfl, by decide⟩
theorem wit_StartUpAndSafeStation_arguments :
    (inSafe 3 0 0x1000 64).rd Reg.SYS_SS_ARG0 + (inSafe 3 0 0x1000 64).rd Reg.SYS_SS_ARG1 ≤ 0x400000 ∧
    (inSafe 3 0 0 1025).rd Reg.SYS_SS_ARG1 = 1025 ∧ (inSafe 4 0 0x200000 0).rd Reg.SYS_SS_ARG0 = 0x200000 ∧
    (inSafe 4 0 0x100001 0).rd Reg.SYS_SS_ARG0 % 4096 ≠ 0 ∧ (inSafe 4 0 0x100000 0).rd Reg.SYS_SS_ARG0 % 4096 = 0 ∧
    (inSafe 7 0 33 2).rd Reg.SYS_SS_ARG0 = 33 ∧ (inSafe 7 0 34 2).rd Reg.SYS_SS_ARG0 = 34 ∧ (inSafe 8 0 15 0).rd Reg.SYS_SS_ARG0 = 15 := by
  decide +kernel
theorem wit_StartUpAndSafeStation_bus :
    (State.reset.wr Reg.SYS_FAIL_REC0 (3 * 2 ^ 30)).safe = true ∧
    (match (State.reset.wr Reg.SYS_FAIL_REC0 (3 * 2 ^ 30)).ssTake (some ⟨9, 1, 0, 0, []⟩) with
      | some (_, op, tag, len) => op = 9 && tag = 1 && len = 0 | none => false) = true := by decide +kernel
theorem wit_StartUpAndSafeStation_services :
    31 * 2 ^ 23 ∈ ({ State.reset with platePoison := [31 * 2 ^ 23] } : State).platePoison ∧ State.reset.islandOn 5 = true ∧
    31 * 2 ^ 23 ∉ State.reset.platePoison ∧ ({ State.reset with stationDown := true } : State).stationDown = true ∧
    State.reset.Reaches Reg.SYS_SELFTEST ∧ State.reset.pipeRole 0 = 0 ∧ State.reset.swaps = [] ∧ State.reset.testing = none ∧
    ¬Serves State.reset 0 ∧ ({ State.reset with testing := some 8 } : State).testing = some 8 ∧
    State.reset.spareUsed_ 8 = false ∧ State.reset.Reaches Reg.SYS_LOCK ∧
    State.reset.safe = false ∧ State.reset.islandOn (islandOf (Reg.VF_PMAP_LO 1)) = true ∧
    State.reset.earlierPending (State.reset.rd (Reg.VF_PMAP_SEL 1)) = false := by decide +kernel
theorem wit_StartUpAndSafeStation_serves : Serves { State.reset with active := viewPut [] (hdOff 5 Hd.HEAD_EN) 1 } 0 :=
  ⟨_, List.mem_cons_self .., 5, by decide, by decide, by decide⟩

/-- The invariant holds at reset, and a step from there answers a next state. -/
theorem wit_EveryStepKeepsTheByteMemoriesCanonical :
    MemoriesCanonical State.reset ∧ ∃ t, step State.reset = .next t := ⟨by decide, _, rfl⟩

end Sys2Proof.Tests
end

