-- ==== Sys2Proof/Proofs/RegisterWrites.lean ====
section
/-! PROOFS. Register writes: a plain write acts field by field (R6, R8), and a BAR0 write is stored, recorded or
discarded (R7, R13, R392, R396). -/

namespace Sys2Proof.Machine

/-! A word whose fields are updated one after another. -/

theorem Fld.apart.symm {f g : Fld} (h : f.apart g) : g.apart f := Or.symm h

section FoldFields
variable {upd : Nat → Fld × FieldType → Nat}
  (hupd : ∀ n x (g : Fld), x.1.apart g → getBits (upd n x) g.lo g.width = getBits n g.lo g.width)
include hupd

/-- When each update touches its own field alone, a field apart from all of them keeps its value. -/
theorem getBits_foldl_apart {g : Fld} {fields : List (Fld × FieldType)} (hg : ∀ x ∈ fields, x.1.apart g) (n : Nat) :
    getBits (fields.foldl upd n) g.lo g.width = getBits n g.lo g.width := by
  induction fields generalizing n with
  | nil => rfl
  | cons x xs ih =>
    obtain ⟨hx, hxs⟩ := List.forall_mem_cons.1 hg
    rw [List.foldl_cons, ih hxs, hupd n x g hx]

/-- Among fields that lie apart, each ends as its own update leaves it. -/
theorem getBits_foldl_mem {x : Fld × FieldType} {result : Nat → Nat}
    (hx : ∀ n, getBits (upd n x) x.1.lo x.1.width = result (getBits n x.1.lo x.1.width))
    {fields : List (Fld × FieldType)} (hp : fields.Pairwise fun x y => x.1.apart y.1) (hmem : x ∈ fields) (n : Nat) :
    getBits (fields.foldl upd n) x.1.lo x.1.width = result (getBits n x.1.lo x.1.width) := by
  induction fields generalizing n with
  | nil => cases hmem
  | cons y ys ih =>
    obtain ⟨hy, hys⟩ := List.pairwise_cons.1 hp
    rw [List.foldl_cons]
    rcases List.mem_cons.1 hmem with rfl | hmem
    · rw [getBits_foldl_apart hupd fun z hz => (hy z hz).symm, hx]
    · rw [ih hys hmem, hupd n y x.1 (hy x hmem)]

end FoldFields

/-! Plain writes by field type. -/

/-- The value of a field after a plain write of `v`, from its value before (R6). -/
def fieldAfter (locked : Bool) (v old : Nat) (f : Fld) : FieldType → Nat
  | .rw => getBits v f.lo f.width
  | .w1c => if bitOf v f.lo then 0 else old
  | .w1s => if bitOf v f.lo then 1 % 2 ^ f.width else old
  | .lk => if locked then old else getBits v f.lo f.width
  | .ro | .wo | .sh => old

theorem getBits_writeField_same (locked : Bool) (v w : Nat) (f : Fld) (ty : FieldType) :
    getBits (writeField locked v w f ty) f.lo f.width = fieldAfter locked v (getBits w f.lo f.width) f ty := by
  have hcut : getBits v f.lo f.width % 2 ^ f.width = getBits v f.lo f.width := Nat.mod_mod _ _
  cases ty <;> simp only [writeField, fieldAfter, apply_ite (getBits · f.lo f.width), getBits_setBits_same, hcut, Nat.zero_mod]

theorem getBits_writeField_apart (locked : Bool) (v w : Nat) {f g : Fld} (ty : FieldType) (h : f.apart g) :
    getBits (writeField locked v w f ty) g.lo g.width = getBits w g.lo g.width := by
  cases ty <;> simp only [writeField, apply_ite (getBits · g.lo g.width), getBits_setBits_apart h, ite_self]

/-- A field that no listed field touches keeps its value (R7). -/
theorem getBits_writeFields_apart (locked : Bool) (v w : Nat) {g : Fld} {fields : List (Fld × FieldType)}
    (hg : ∀ x ∈ fields, x.1.apart g) : getBits (writeFields locked v fields w) g.lo g.width = getBits w g.lo g.width :=
  getBits_foldl_apart (fun w x _ h => getBits_writeField_apart locked v w x.2 h) hg w

/-- Each listed field acts by its own type (R6). -/
theorem getBits_writeFields_mem (locked : Bool) (v w : Nat) {f : Fld} {ty : FieldType} {fields : List (Fld × FieldType)}
    (hp : fields.Pairwise fun x y => x.1.apart y.1) (hmem : (f, ty) ∈ fields) :
    getBits (writeFields locked v fields w) f.lo f.width = fieldAfter locked v (getBits w f.lo f.width) f ty :=
  getBits_foldl_mem (fun w x _ h => getBits_writeField_apart locked v w x.2 h) (x := (f, ty))
    (result := fun old => fieldAfter locked v old f ty) (fun w => getBits_writeField_same locked v w f ty) hp hmem w

/-- The written value holds 0 in a field whose clear or set lost against hardware (R8). -/
theorem getBits_dropRaced_raced {raced v : Nat} {f : Fld} {ty : FieldType} {fields : List (Fld × FieldType)}
    (hp : fields.Pairwise fun x y => x.1.apart y.1) (hmem : (f, ty) ∈ fields) (hty : ty = .w1c ∨ ty = .w1s)
    (hraced : bitOf raced f.lo = true) : getBits (dropRaced raced v fields) f.lo f.width = 0 := by
  refine getBits_foldl_mem (fun n x g h => ?_) (x := (f, ty)) (result := fun _ => 0) (fun n => ?_) hp hmem v
  · rw [apply_ite (getBits · g.lo g.width), getBits_setBits_apart h, ite_self]
  · rw [if_pos (by simpa [hraced] using hty), getBits_setBits_same, Nat.zero_mod]

/-- A flag whose bit is not written as 1 keeps its value, whether 1 clears or sets it. -/
theorem fieldAfter_of_bit_clear (locked : Bool) {v : Nat} (old : Nat) {f : Fld} {ty : FieldType} (hty : ty = .w1c ∨ ty = .w1s)
    (hv : bitOf v f.lo = false) : fieldAfter locked v old f ty = old := by
  rcases hty with rfl | rfl <;> simp only [fieldAfter, hv, Bool.false_eq_true, if_false]

theorem bitOf_of_getBits_zero {n i : Nat} (h : getBits n i 1 = 0) : bitOf n i = false := by
  have h' : n / 2 ^ i % 2 = 0 := h
  simp [bitOf, h']

/-! The record of a dropped write (R12, R392). -/

theorem State.rd_regStatus_other (s : State) (flag : Fld) (f off : Nat) {k : Nat} (h : k ≠ Reg.SYS_REG_STATUS) :
    (s.regStatus flag f off).rd k = s.rd k := by
  simp only [State.regStatus, State.rd_fset_other _ _ _ h]

theorem State.fget_regStatus_fn (s : State) (flag : Fld) (f off : Nat) :
    (s.regStatus flag f off).fget Reg.SYS_REG_STATUS Bit.SYS_REG_STATUS_FN = f % 2 ^ 5 :=
  State.fget_fset_same _ _ _ _ (by decide)

theorem State.fget_regStatus_offset (s : State) (flag : Fld) (f off : Nat) :
    (s.regStatus flag f off).fget Reg.SYS_REG_STATUS Bit.SYS_REG_STATUS_OFFSET = off / 4 % 2 ^ 22 := by
  rw [State.regStatus, State.fget_fset_apart _ _ _ (.inr (by decide)) (by decide)]
  exact State.fget_fset_same _ _ _ _ (by decide)

/-- A field below the recorded offset is as the flag's setting leaves it. -/
theorem State.fget_regStatus_low (s : State) (flag : Fld) (f off : Nat) {g : Fld} (h : g.lo + g.width ≤ 2) :
    (s.regStatus flag f off).fget Reg.SYS_REG_STATUS g = (s.fset Reg.SYS_REG_STATUS flag 1).fget Reg.SYS_REG_STATUS g := by
  have hg : g.lo + g.width ≤ 32 := Nat.le_trans h (by decide)
  rw [State.regStatus, State.fget_fset_apart _ _ _ (.inr (Nat.le_trans h (by decide))) hg,
    State.fget_fset_apart _ _ _ (.inr h) hg]

theorem State.fget_regStatus_flag (s : State) {flag : Fld} (f off : Nat) (h : flag.lo + flag.width ≤ 2) :
    (s.regStatus flag f off).fget Reg.SYS_REG_STATUS flag = 1 % 2 ^ flag.width := by
  rw [State.fget_regStatus_low _ _ _ _ h, State.fget_fset_same _ _ _ _ (Nat.le_trans h (by decide))]

/-- The other of the two flags keeps its value. -/
theorem State.fget_regStatus_other_flag (s : State) {flag g : Fld} (f off : Nat) (h : flag.apart g) (hg : g.lo + g.width ≤ 2) :
    (s.regStatus flag f off).fget Reg.SYS_REG_STATUS g = s.fget Reg.SYS_REG_STATUS g := by
  rw [State.fget_regStatus_low _ _ _ _ hg, State.fget_fset_apart _ _ _ h (Nat.le_trans hg (by decide))]

theorem State.sameRegs_regStatus (s : State) (flag : Fld) (f off : Nat) :
    SameRegs s (s.regStatus flag f off) [Reg.SYS_REG_STATUS] :=
  fun _ hk => State.rd_regStatus_other s flag f off (List.ne_of_not_mem_cons hk)

theorem State.sameViews_regStatus (s : State) (flag : Fld) (f off : Nat) : SameViews s (s.regStatus flag f off) := ⟨rfl, rfl⟩

theorem State.sameMemory_regStatus (s : State) (flag : Fld) (f off : Nat) : SameMemory s (s.regStatus flag f off) :=
  ⟨fun _ => rfl, rfl, rfl, rfl⟩

/-! A BAR0 write on its way to its register. -/

/-- `REGISTER_WRITE` is a BAR0 write at a word offset. -/
theorem exec_registerWrite (f : FnId) (off : BitVec 22) (words : List (BitVec 4 × Word)) (x : WriteSide) (s : State) :
    exec (.registerWrite f off words x) s = .next (s.busWrite f (4 * off.toNat) x.read x.raced words) := rfl

theorem State.busWrite_inReset {s : State} (h : s.inReset = true) (f off : Nat) (r : ReadResult) (raced : List Word)
    (words : List (BitVec 4 × Word)) : s.busWrite f off r raced words = s := if_pos h

theorem State.busWrite_long {s : State} (h : s.inReset = false) (f off : Nat) (r : ReadResult) (raced : List Word)
    {words : List (BitVec 4 × Word)} (hlen : 16 < words.length) :
    s.busWrite f off r raced words = s.regStatus Bit.SYS_REG_STATUS_PARTIAL f off := by
  rw [State.busWrite, h, if_neg Bool.false_ne_true, if_pos hlen]

/-- Outside reset a request of one word is the write of that word. -/
theorem State.busWrite_single {s : State} (h : s.inReset = false) (f off : Nat) (r : ReadResult) (raced : List Word)
    (word : BitVec 4 × Word) : s.busWrite f off r raced [word] = s.writeWords f off r raced [word] := by
  rw [State.busWrite, h, if_neg Bool.false_ne_true, List.length_singleton, if_neg (by decide)]

theorem State.busWrite_partial {s : State} (h : s.inReset = false) (f off : Nat) (r : ReadResult) (raced : List Word)
    {en : BitVec 4} (v : Word) (h0 : en ≠ 0) (h15 : en ≠ 15) :
    s.busWrite f off r raced [(en, v)] = s.regStatus Bit.SYS_REG_STATUS_PARTIAL f off := by
  rw [State.busWrite_single h]
  simp only [State.writeWords, if_neg h0, if_pos h15]

theorem State.busWrite_full {s : State} (h : s.inReset = false) (f off : Nat) (r : ReadResult) (raced : List Word) (v : Word) :
    s.busWrite f off r raced [(15, v)] = s.writeWord f off v.toNat r (raced.headD 0).toNat := by
  rw [State.busWrite_single h]
  rfl

theorem State.busWrite_disabled (s : State) (f off : Nat) (r : ReadResult) (raced : List Word) (v : Word) :
    s.busWrite f off r raced [(0, v)] = s := by
  cases h : s.inReset with
  | true => exact State.busWrite_inReset h ..
  | false => rw [State.busWrite_single h]; rfl

/-- The PF's view names a register by its own word offset. -/
theorem State.resolve_pf {s : State} {off key : Nat} (h : s.resolve 0 off = some key) : key = off / 4 * 4 := by
  simp only [State.resolve, if_true] at h
  split at h
  · rename_i k hk
    have hkey := (Option.ite_none_right_eq_some.1 h).2
    have hoff := (Option.ite_none_right_eq_some.1 hk).2
    exact (Option.some.inj hkey).symm.trans (Option.some.inj hoff).symm
  · cases h

theorem State.writeWord_undefined {s : State} {f off : Nat} (h : ∀ key, s.resolve f off = some key → keyDefined key = false)
    (v : Nat) (r : ReadResult) (raced : Nat) : s.writeWord f off v r raced = s := by
  unfold State.writeWord
  split
  · rfl
  · rename_i key hkey
    rw [h key hkey, if_neg Bool.false_ne_true]

theorem State.writeWord_defined {s : State} {f off key : Nat} (hr : s.resolve f off = some key) (hd : keyDefined key = true)
    (v : Nat) (r : ReadResult) (raced : Nat) :
    s.writeWord f off v r raced = s.access key fun s => s.keyWrite f key v r raced := by
  simp only [State.writeWord, hr, hd, if_true]

theorem State.access_of_reaches {s : State} {off : Nat} (h : s.Reaches off) (effect : State → State) :
    s.access off effect = effect s := by
  obtain ⟨hreset, hsafe, hon⟩ := h
  simp only [State.access, hreset, hsafe, hon, Bool.false_and, Bool.or_self, Bool.false_eq_true, if_false, if_true]

theorem State.access_of_asleep {s : State} {off : Nat} (hreset : s.inReset = false) (hsafe : s.safe = false)
    (hoff : s.islandOn (islandOf off) = false) (effect : State → State) :
    s.access off effect = s.sleepAccess (islandOf off) := by
  simp only [State.access, hreset, hsafe, hoff, Bool.false_and, Bool.or_self, Bool.false_eq_true, if_false]

theorem keyDefined_of_regAt {key : Nat} {x : RegDesc × List Nat} (h : regAt key = some x) : keyDefined key = true := by
  rw [keyDefined, h, Option.isSome_some, Bool.or_true]

/-! What a register with a plain write does beside storing: nothing. -/

theorem State.beforeWrite_plain {base : Nat} (h : base ∉ Claims.specialBases) (s : State) : s.beforeWrite base = s := by
  simp only [Claims.specialBases, List.mem_cons, not_or] at h
  simp only [State.beforeWrite, h, decide_false, Bool.or_self, Bool.false_eq_true, if_false]

theorem State.afterWrite_plain {base : Nat} (h : base ∉ Claims.specialBases) (s : State) (i : Nat) :
    s.afterWrite base i = s := by
  simp only [Claims.specialBases, List.mem_cons, not_or] at h
  simp only [State.afterWrite, h, decide_false, Bool.or_self, Bool.false_eq_true, if_false]

theorem State.flagsThen_plain {d : RegDesc} (h : d.base ∉ Claims.specialBases) (hc : countsOf d.base = []) (s : State)
    (key v : Nat) : s.flagsThen d key v =
      s.wr key (writeFields (s.fbit Reg.SYS_LOCK Bit.SYS_LOCK_LOCK) v d.fields (s.rd key)) := by
  have h1 : d.base ≠ Reg.SYS_SELFTEST := List.ne_of_not_mem_cons h
  rw [State.flagsThen, if_neg h1, State.plainWrite, hc]
  rfl

/-- The PF's write of a plain register stores the word by field type and does nothing else (R6, R8). -/
theorem State.keyWrite_plain {s : State} {key v raced : Nat} {r : ReadResult} {d : RegDesc} {ix : List Nat}
    (hobj : shadowObj key = none) (hreg : regAt key = some (d, ix)) (hbase : d.base ∉ Claims.specialBases)
    (hcmd : s.commandWrite d.base ⟨0, ix.headD 0, ix.getD 1 0, dropRaced raced v d.fields, r⟩ = none)
    (hign : s.writeIgnored d.base (ix.headD 0) = false) (hcounts : countsOf d.base = [])
    (hstored : s.stored d.base (ix.headD 0) (dropRaced raced v d.fields) = dropRaced raced v d.fields) :
    s.keyWrite 0 key v r raced = s.wr key
      (writeFields (s.fbit Reg.SYS_LOCK Bit.SYS_LOCK_LOCK) (dropRaced raced v d.fields) d.fields (s.rd key)) := by
  have hvf : d.base ≠ Reg.VF_CLR_DATA 0 := fun e => hbase (e ▸ by decide)
  simp only [State.keyWrite, hobj, hreg, hvf, hign, hcmd, hstored, State.beforeWrite_plain hbase,
    State.flagsThen_plain hbase hcounts, State.afterWrite_plain hbase, ne_eq, not_true_eq_false, decide_false,
    Bool.false_and, Bool.false_eq_true, if_false]

end Sys2Proof.Machine

namespace Sys2Proof.Claims

open Sys2Proof Sys2Proof.Machine

/-- Settles O4: updates of fields that lie apart do not meet, so each field ends as its own type leaves it. -/
theorem writeActsByFieldType : Obligations.WriteActsByFieldType := by
  intro locked v w fields hp
  refine ⟨fun f ty hmem => ?_, fun g hg => getBits_writeFields_apart locked v w hg, fun raced f ty hmem hty hw hraced => ?_⟩
  · rw [getBits_writeFields_mem locked v w hp hmem]
    cases ty <;> rfl
  · have hzero : getBits (dropRaced raced v fields) f.lo 1 = 0 := hw ▸ getBits_dropRaced_raced hp hmem hty hraced
    rw [getBits_writeFields_mem locked _ w hp hmem]
    exact fieldAfter_of_bit_clear locked _ hty (bitOf_of_getBits_zero hzero)

/-- The word offset and the function that a dropped BAR0 write records are those of the write. -/
theorem regStatus_records_write (s : State) (f : FnId) (off : BitVec 22) :
    let t := s.regStatus Bit.SYS_REG_STATUS_PARTIAL f (4 * off.toNat)
    t.fget Reg.SYS_REG_STATUS Bit.SYS_REG_STATUS_PARTIAL = 1 ∧
    t.fget Reg.SYS_REG_STATUS Bit.SYS_REG_STATUS_OFFSET = off.toNat ∧
    t.fget Reg.SYS_REG_STATUS Bit.SYS_REG_STATUS_FN = f.val ∧ Only s t [Reg.SYS_REG_STATUS] := by
  refine ⟨State.fget_regStatus_flag _ _ _ (by decide), ?_, ?_, State.sameRegs_regStatus _ _ _ _,
    State.sameViews_regStatus _ _ _ _, State.sameMemory_regStatus _ _ _ _⟩
  · rw [State.fget_regStatus_offset, Nat.mul_div_cancel_left _ (by decide), Nat.mod_eq_of_lt off.isLt]
  · exact (State.fget_regStatus_fn ..).trans (Nat.mod_eq_of_lt f.isLt)

/-- Settles O5: a BAR0 write followed from the request to its register, case by case. -/
theorem registerWriteRow : Obligations.RegisterWriteRow := by
  refine ⟨?plain, ?partialWord, ?long, ?noByte, ?reserved, ?asleep, ?reset⟩
  case plain =>
    intro off v r raced d ix s key w hreach hres hobj hreg hbase hcmd hign hcounts hstored
    rw [exec_registerWrite, State.busWrite_full hreach.1, Fin.val_zero,
      State.writeWord_defined hres (keyDefined_of_regAt hreg), State.access_of_reaches hreach,
      State.keyWrite_plain hobj hreg hbase hcmd hign hcounts hstored]
  case partialWord =>
    intro f off en v r raced s hreset h0 h15
    obtain ⟨hpartial, hoff, hfn, hsame⟩ := regStatus_records_write s f off
    exact ⟨_, by rw [exec_registerWrite, State.busWrite_partial hreset _ _ _ _ _ h0 h15], hpartial, hoff, hfn,
      State.fget_regStatus_other_flag _ _ _ (.inl (by decide)) (by decide), hsame⟩
  case long =>
    intro f off words r raced s hreset hlen
    exact ⟨_, by rw [exec_registerWrite, State.busWrite_long hreset _ _ _ _ hlen], regStatus_records_write s f off⟩
  case noByte =>
    intro f off v r raced s
    rw [exec_registerWrite, State.busWrite_disabled]
  case reserved =>
    intro off v r raced s hkey
    have hundef : ∀ key, s.resolve 0 (4 * off.toNat) = some key → keyDefined key = false := by
      intro key hres
      rw [State.resolve_pf hres, Nat.mul_div_cancel_left _ (by decide), Nat.mul_comm, hkey]
    rw [exec_registerWrite]
    cases hreset : s.inReset with
    | true => rw [State.busWrite_inReset hreset]
    | false => rw [State.busWrite_full hreset, Fin.val_zero, State.writeWord_undefined hundef]
  case asleep =>
    intro off v r raced s hreset hsafe hres hkey hoff
    rw [exec_registerWrite, State.busWrite_full hreset, Fin.val_zero, State.writeWord_defined hres hkey,
      State.access_of_asleep hreset hsafe hoff, State.sleepAccess]
  case reset =>
    intro f off words r raced s hreset
    rw [exec_registerWrite, State.busWrite_inReset hreset]

end Sys2Proof.Claims
end
